-- ==== Sys2Proof/Word.lean ====
section
/-! DEFINITION. The words the spec gives its registers and the plainest arithmetic over them (R3, R24, R78). -/
namespace Sys2Proof

/-- One byte. -/
abbrev Byte := BitVec 8

/-- A scalar register or a doubleword, R78. -/
abbrev Word := BitVec 64

/-- A vector register, a bank word, a walk record or a Canopy record: 64 bytes. -/
abbrev Wide := BitVec 512

/-- Bits hi:lo of a natural number, R15. -/
def bits (x hi lo : Nat) : Nat := x / 2 ^ lo % 2 ^ (hi + 1 - lo)

/-- The signed value of the low `w` bits of `x`. -/
def sx (w x : Nat) : Int := if x % 2 ^ w < 2 ^ (w - 1) then (x % 2 ^ w : Nat) else (x % 2 ^ w : Nat) - (2 ^ w : Nat)

/-- The low `w` bits of an exact integer: narrowing on assignment, R5. -/
def narrow (w : Nat) (i : Int) : Nat := (i % (2 ^ w : Nat)).toNat

/-- Division rounded up. -/
def cdiv (a b : Nat) : Nat := (a + b - 1) / b

/-- The element of a vector at `i`, or `d` beyond its end. -/
def vget {α : Type} {n : Nat} (v : Vector α n) (i : Nat) (d : α) : α := if h : i < n then v[i] else d

/-- The vector with element `i` replaced, unchanged beyond its end. -/
def vset {α : Type} {n : Nat} (v : Vector α n) (i : Nat) (x : α) : Vector α n := v.setIfInBounds i x

/-- The vector with element `i` mapped by `f`. -/
def vmod {α : Type} {n : Nat} (v : Vector α n) (i : Nat) (f : α → α) : Vector α n :=
  if h : i < n then v.set i (f v[i]) else v

/-- The bytes of a number, little-endian (R3). -/
def leBytes : Nat → Nat → List Byte
  | 0, _ => []
  | n + 1, x => BitVec.ofNat 8 x :: leBytes n (x / 256)

/-- The number that little-endian bytes hold (R3). -/
def leNat : List Byte → Nat
  | [] => 0
  | b :: r => b.toNat + 256 * leNat r

end Sys2Proof
end

