-- ==== Sys2Proof/Machine/Crypto.lean ====
section
/-! DEFINITION. SHAKE256 (FIPS 202) and Ed448 (RFC 8032), which R393 to R395 name; written from those standards (log 30). -/
namespace Sys2Proof.Machine

/-! ### SHAKE256 -/

/-- Rotates a lane left. -/
def rotLane (x : Nat) (n : Nat) : Nat := (x * 2 ^ n + x / 2 ^ (64 - n)) % 2 ^ 64

/-- Lane (x, y) of the state of 25. -/
def laneOf (a : List Nat) (x y : Nat) : Nat := a.getD (x % 5 + 5 * (y % 5)) 0

/-- Builds a state lane by lane. -/
def lanes (f : Nat → Nat → Nat) : List Nat := (List.range 25).map fun i => f (i % 5) (i / 5)

/-- The rotation offsets of rho, by lane. -/
def rhoOffsets : List Nat := [0, 1, 62, 28, 27, 36, 44, 6, 55, 20, 3, 10, 43, 25, 39, 41, 45, 15, 21, 8, 18, 2, 61, 56, 14]

/-- The round constants of iota. -/
def iotaConstants : List Nat :=
  [0x0000000000000001, 0x0000000000008082, 0x800000000000808A, 0x8000000080008000, 0x000000000000808B, 0x0000000080000001,
   0x8000000080008081, 0x8000000000008009, 0x000000000000008A, 0x0000000000000088, 0x0000000080008009, 0x000000008000000A]
  ++ [0x000000008000808B, 0x800000000000008B, 0x8000000000008089, 0x8000000000008003, 0x8000000000008002, 0x8000000000000080,
   0x000000000000800A, 0x800000008000000A, 0x8000000080008081, 0x8000000000008080, 0x0000000080000001, 0x8000000080008008]

/-- One round of the permutation. -/
def keccakRound (a : List Nat) (rc : Nat) : List Nat :=
  let c (x : Nat) : Nat := (List.range 5).foldl (fun v y => v ^^^ laneOf a x y) 0
  let cs := (List.range 5).map c
  let d (x : Nat) : Nat := cs.getD ((x + 4) % 5) 0 ^^^ rotLane (cs.getD ((x + 1) % 5) 0) 1
  let a := lanes fun x y => laneOf a x y ^^^ d x
  let b := lanes fun x y => let i := (x + 3 * y) % 5; rotLane (laneOf a i x) (rhoOffsets.getD (i + 5 * x) 0)
  lanes fun x y => laneOf b x y ^^^ ((2 ^ 64 - 1 - laneOf b (x + 1) y) &&& laneOf b (x + 2) y) ^^^ (if x == 0 && y == 0 then rc else 0)

/-- The permutation of 24 rounds. -/
def keccak (a : List Nat) : List Nat := iotaConstants.foldl keccakRound a

/-- The rate of SHAKE256 in bytes. -/
def shakeRate : Nat := 136

/-- A message with its padding, whole blocks. -/
def shakePad (m : List Byte) : List Byte :=
  let n := shakeRate - m.length % shakeRate
  m ++ (if n == 1 then [0x9F#8] else 0x1F#8 :: List.replicate (n - 2) 0#8 ++ [0x80#8])

/-- Absorbs a block. -/
def absorb (a : List Nat) (block : List Byte) : List Nat :=
  keccak ((List.range 25).map fun i => a.getD i 0 ^^^ leNat ((block.drop (8 * i)).take 8))

/-- Squeezes `n` blocks. -/
def squeeze : Nat → List Nat → List Byte
  | 0, _ => []
  | n + 1, a => ((a.take 17).flatMap (leBytes 8)) ++ squeeze n (keccak a)

/-- SHAKE256 of a message with `n` bytes of output. -/
def shake256 (m : List Byte) (n : Nat) : List Byte :=
  let p := shakePad m
  let a := (List.range (p.length / shakeRate)).foldl (fun a i => absorb a ((p.drop (shakeRate * i)).take shakeRate)) (List.replicate 25 0)
  (squeeze (n / shakeRate + 1) a).take n

/-! ### Ed448 -/

/-- The field's prime. -/
def edP : Nat := 2 ^ 448 - 2 ^ 224 - 1

/-- The group's order. -/
def edL : Nat := 2 ^ 446 - 13818066809895115352007386748515426880336692474882178609894547503885

/-- b ^ e mod m by the bits of e, `n` of them, highest first. -/
def powMod (m b e : Nat) : Nat → Nat
  | 0 => 1
  | n + 1 => let h := powMod m b (e / 2) n; h * h % m * (if e % 2 == 1 then b else 1) % m

/-- The inverse in the field. -/
def edInv (x : Nat) : Nat := powMod edP x (edP - 2) 448

/-- Minus d of the curve, 39081. -/
def edMinusD : Nat := 39081

/-- A point in projective coordinates. -/
abbrev EdPoint := Nat × Nat × Nat

/-- The neutral point. -/
def edZero : EdPoint := (0, 1, 1)

/-- The sum of two points, RFC 8032 section 5.2.4. -/
def edAdd (p q : EdPoint) : EdPoint :=
  let m := edP
  let (x1, y1, z1) := p
  let (x2, y2, z2) := q
  let a := z1 * z2 % m
  let b := a * a % m
  let c := x1 * x2 % m
  let d := y1 * y2 % m
  let e := (m - edMinusD * c % m * d % m) % m
  let f := (b + (m - e)) % m
  let g := (b + e) % m
  let h := (x1 + y1) * (x2 + y2) % m
  (a * f % m * ((h + (m - c) + (m - d)) % m) % m, a * g % m * ((d + (m - c)) % m) % m, f * g % m)

/-- A multiple of a point by the bits of n, `k` of them. -/
def edMul (p : EdPoint) (n : Nat) : Nat → EdPoint
  | 0 => edZero
  | k + 1 => let h := edMul p (n / 2) k; let h := edAdd h h; if n % 2 == 1 then edAdd h p else h

/-- Whether two points are one. -/
def edEq (p q : EdPoint) : Bool := p.1 * q.2.2 % edP == q.1 * p.2.2 % edP && p.2.1 * q.2.2 % edP == q.2.1 * p.2.2 % edP

/-- The base point. -/
def edBase : EdPoint :=
  (224580040295924300187604334099896036246789641632564134246125461686950415467406032909029192869357953282578032075146446173674602635247710,
   298819210078481492676017930443930673437544040154080242095928241372331506189835876003536878655418784733982303233503462500531545062832660, 1)

/-- A point as 57 bytes. -/
def edEncode (p : EdPoint) : List Byte :=
  let i := edInv p.2.2
  leBytes 57 (p.2.1 * i % edP + p.1 * i % edP % 2 * 2 ^ 455)

/-- The point 57 bytes name; none when they name none (RFC 8032 section 5.2.3). -/
def edDecode (b : List Byte) : Option EdPoint :=
  let n := leNat b
  let y := n % 2 ^ 455
  let sign := n / 2 ^ 455 % 2
  if b.length != 57 || edP ≤ y then none
  else
    let m := edP
    let u := (y * y + m - 1) % m
    let v := (2 * m - edMinusD * y % m * y % m - 1) % m
    let w := powMod m (u * u % m * u % m * u % m * u % m * (v * v % m * v % m) % m) ((m - 3) / 4) 448
    let x := u * u % m * u % m * v % m * w % m
    if v * x % m * x % m != u then none
    else if x == 0 && sign == 1 then none
    else some (if x % 2 == sign then x else m - x, y, 1)

/-- The bytes "SigEd448" with flag 0 and an empty context, which begin every hash of Ed448. -/
def edDomain : List Byte := [0x53#8, 0x69#8, 0x67#8, 0x45#8, 0x64#8, 0x34#8, 0x34#8, 0x38#8, 0#8, 0#8]

/-- A secret key's scalar and the other half of its hash. -/
def edExpand (secret : List Byte) : Nat × List Byte :=
  let h := shake256 secret 114
  let s := leNat (h.take 56)
  (s % 2 ^ 447 / 4 * 4 + 2 ^ 447, h.drop 57)

/-- The public key of a secret key. -/
def edPublic (secret : List Byte) : List Byte := edEncode (edMul edBase (edExpand secret).1 448)

/-- The signature of a message, RFC 8032 section 5.2.6. -/
def edSign (secret m : List Byte) : List Byte :=
  let (s, rest) := edExpand secret
  let a := edPublic secret
  let r := leNat (shake256 (edDomain ++ rest ++ m) 114) % edL
  let rr := edEncode (edMul edBase r 448)
  let k := leNat (shake256 (edDomain ++ rr ++ a ++ m) 114) % edL
  rr ++ leBytes 57 ((r + k * s) % edL)

/-- Whether a signature verifies, RFC 8032 section 5.2.7. -/
def edVerify (pub m sig : List Byte) : Bool :=
  let rr := sig.take 57
  let s := leNat (sig.drop 57)
  if sig.length != 114 || edL ≤ s then false
  else match edDecode rr, edDecode pub with
    | some r, some a =>
      let k := leNat (shake256 (edDomain ++ rr ++ pub ++ m) 114) % edL
      edEq (edMul (edMul edBase s 448) 4 3) (edMul (edAdd r (edMul a k 448)) 4 3)
    | _, _ => false

end Sys2Proof.Machine
end

