-- ==== Sys2Proof/Syntax.lean ====
section
/-! DEFINITION. Instr: one constructor per row of spec/opcode_table.json. The first 177 constructors are the slots
of R76 to R87 with their fields read out; the other 104 are the steps the package takes by itself or because its
host, its links or its sensors act (95_what_each_step_holds.md), with arguments that name the party they act on. -/
namespace Sys2Proof

/-- Lane types of R84 and R124. -/
inductive LaneT where
  | f32 | bf16 | s32 | z32 | s16 | s8
deriving DecidableEq, Repr

/-- Conversion types of R137: the lane types and two FP8 formats. -/
inductive CvtT where
  | f32 | bf16 | s32 | z32 | s16 | s8 | e4m3 | e5m2
deriving DecidableEq, Repr

/-- Rounding modes of R32. -/
inductive Rm where
  | rne | rz | sr
deriving DecidableEq, Repr

/-- Conditions of vcmp, R130. -/
inductive VCond where
  | eq | ne | lt | le
deriving DecidableEq, Repr

/-- Patterns of vshuf, R135. -/
inductive ShufPat where
  | lo | hi | ev | od
deriving DecidableEq, Repr

/-- The 96 cause codes of R342, in the order of their numbers. -/
inductive Cause where
  | timingMiss | slotReuse | wawCollide | bankCollide | tchkMismatch | spanDesync
  | loopNest | inflightLimit | handlerFault | handlerOp | eretOutside | debugStep
  | debugBreak | debugHalt | cycleAlarm | groupDesync | illegalOp | illegalBundle
  | privileged | featureAbsent | halt | softTrap | userAbort | cregInvalid
  | cregReadonly | snapRange | escInvalid | queueInvalid | launchInvalid | cmdqFull
  | imemError | regfileError | stackOverflow | spaceInvalid | tagOverflow | worldViolation
  | permission | misaligned | spadError | sharedError | mailboxError | meshError
  | debugWatch | snapshotError | tokenError | walkrecError | cmdqError | cregError
  | translation | illegalLayout | expandMeta | decodeError | walkInvalid | tensorInvalid
  | coordRange | ringRelease | pageFormat | pageWrite | hbmError | hostError
  | remoteError | linkDown | rootError | decoderError | canopyConfig | adjointUnavailable
  | segmentMismatch | ringUndeclared | stepRange | recordError | portError | tableError
  | whorlError | planeError | bpError | peError | amaxError | ringtabError
  | pwrtabError | rbqError | txConflict | sapFull | budget | kill
  | integrity | queueOverflow | barrierInvalid | barrierState | sweepError | serialFault
  | thermalTrip | powerTrip | fatalOverflow | restoreFailed | saveFailed | crownError
deriving DecidableEq, Repr

/-- The number of a cause code, R342. -/
def Cause.code (c : Cause) : Nat := c.ctorIdx

/-- Where the Crown places a group (R314): die, origin row and origin column; for whole dies the lowest die. -/
structure Place where
  die : Nat
  row : Nat
  col : Nat
deriving DecidableEq, Repr

/-- A 64-byte word that carries a check value, R399 and R400: its memory and its number there. -/
inductive WordAt where
  | spad (tile word : Nat)
  | shared (die word : Nat)
  | hbm (word : Nat)
deriving DecidableEq, Repr

/-- Where an error lies that ECC does not correct, R401. -/
inductive ErrorSite where
  /-- Storage of the kernel or bring-up group `k`, or its data on the mesh (R392, R400). -/
  | group (k : Nat)
  /-- A 64-byte word: the bits that flip, so that its check value does not fit it any more (R400). -/
  | word (w : WordAt) (flip : BitVec 512)
deriving DecidableEq, Repr

/-- The ctx and arg fields of a word written to a command register, R270. -/
structure CmdArgs where
  ctx : Fin 64
  arg : BitVec 48
deriving DecidableEq, Repr

/-- The ctx and tile fields of a word written to MGMTCMD, R396. -/
structure MgmtArgs where
  ctx : Fin 64
  tile : BitVec 9
deriving DecidableEq, Repr

/-- What an incoming UALink request names and carries, R386. -/
structure UalReq where
  addr : BitVec 48
  ctx : BitVec 6
  world : Bool
  rank : BitVec 10
  tile : BitVec 9
  /-- The port it comes in by. -/
  port : Fin 32
deriving DecidableEq, Repr

/-- What a plain register write from outside names. -/
inductive RegPath where
  /-- An offset in BAR0, R379. -/
  | bar0 (a : BitVec 24)
  /-- A debug register of a hardware context of a tile, by its number, over the management path (R326). -/
  | debug (tile : Nat) (urgent : Bool) (cr : Nat)
deriving DecidableEq, Repr

/-- The instructions and steps of Xievo revision 1. -/
inductive Instr where
  /-- R115. No operation; a slot whose body is zero. -/
  | nop
  /-- R100. Adds x[a] and x[b] modulo 2^64 into x[d]. -/
  | add (d a b : Fin 64)
  /-- R100. Subtracts x[b] from x[a] modulo 2^64 into x[d]. -/
  | sub (d a b : Fin 64)
  /-- R100. Bitwise AND of x[a] and x[b] into x[d]. -/
  | and (d a b : Fin 64)
  /-- R100. Bitwise OR of x[a] and x[b] into x[d]. -/
  | or (d a b : Fin 64)
  /-- R100. Bitwise XOR of x[a] and x[b] into x[d]. -/
  | xor (d a b : Fin 64)
  /-- R100. Shifts x[a] left by the low six bits of x[b]. -/
  | shl (d a b : Fin 64)
  /-- R100. Shifts x[a] right logically by the low six bits of x[b]. -/
  | shr (d a b : Fin 64)
  /-- R100. Shifts x[a] right arithmetically by the low six bits of x[b]. -/
  | sra (d a b : Fin 64)
  /-- R100. Signed minimum of x[a] and x[b]. -/
  | minS (d a b : Fin 64)
  /-- R100. Unsigned minimum of x[a] and x[b]. -/
  | minZ (d a b : Fin 64)
  /-- R100. Signed maximum of x[a] and x[b]. -/
  | maxS (d a b : Fin 64)
  /-- R100. Unsigned maximum of x[a] and x[b]. -/
  | maxZ (d a b : Fin 64)
  /-- R100. Counts leading zero bits of x[a]. -/
  | clz (d a : Fin 64)
  /-- R100. Counts trailing zero bits of x[a]. -/
  | ctz (d a : Fin 64)
  /-- R100. Counts the one bits of x[a]. -/
  | popc (d a : Fin 64)
  /-- R103. Sets a predicate when x[a] equals x[b]. -/
  | cmpEq (p : Fin 8) (a b : Fin 64)
  /-- R103. Sets a predicate when x[a] differs from x[b]. -/
  | cmpNe (p : Fin 8) (a b : Fin 64)
  /-- R103. Sets a predicate when x[a] is signed-less than x[b]. -/
  | cmpLtS (p : Fin 8) (a b : Fin 64)
  /-- R103. Sets a predicate when x[a] is unsigned-less than x[b]. -/
  | cmpLtZ (p : Fin 8) (a b : Fin 64)
  /-- R103. Sets a predicate when x[a] is signed-less or equal to x[b]. -/
  | cmpLeS (p : Fin 8) (a b : Fin 64)
  /-- R103. Sets a predicate when x[a] is unsigned-less or equal to x[b]. -/
  | cmpLeZ (p : Fin 8) (a b : Fin 64)
  /-- R103. Sets a predicate when x[a] equals a sign-extended immediate. -/
  | cmpEqImm (p : Fin 8) (a : Fin 64) (i : BitVec 12)
  /-- R103. Sets a predicate when x[a] differs from an immediate. -/
  | cmpNeImm (p : Fin 8) (a : Fin 64) (i : BitVec 12)
  /-- R103. Signed less-than compare against an immediate. -/
  | cmpLtSImm (p : Fin 8) (a : Fin 64) (i : BitVec 12)
  /-- R103. Unsigned less-than compare against a sign-extended immediate. -/
  | cmpLtZImm (p : Fin 8) (a : Fin 64) (i : BitVec 12)
  /-- R103. Signed less-or-equal compare against an immediate. -/
  | cmpLeSImm (p : Fin 8) (a : Fin 64) (i : BitVec 12)
  /-- R103. Unsigned less-or-equal compare against an immediate. -/
  | cmpLeZImm (p : Fin 8) (a : Fin 64) (i : BitVec 12)
  /-- R104. AND of two predicates. -/
  | pand (p q r : Fin 8)
  /-- R104. OR of two predicates. -/
  | por (p q r : Fin 8)
  /-- R104. XOR of two predicates. -/
  | pxor (p q r : Fin 8)
  /-- R104. Negation of a predicate. -/
  | pnot (p q : Fin 8)
  /-- R105. Chooses x[a] or x[b] by a predicate. -/
  | sel (d a b : Fin 64) (p : Fin 8)
  /-- R107. Replaces the tag of a tagged pointer. -/
  | ptag (d a b : Fin 64)
  /-- R107. Replaces the space of a tagged pointer. -/
  | pspace (d a b : Fin 64)
  /-- R107. Replaces the offset of a tagged pointer, checking its range. -/
  | poff (d a b : Fin 64)
  /-- R107. Adds a signed value to the offset of a tagged pointer. -/
  | padd (d a b : Fin 64)
  /-- R100. Adds a sign-extended immediate to x[a]. -/
  | addi (d a : Fin 64) (i : BitVec 12)
  /-- R100. AND with a sign-extended immediate. -/
  | andi (d a : Fin 64) (i : BitVec 12)
  /-- R100. OR with a sign-extended immediate. -/
  | ori (d a : Fin 64) (i : BitVec 12)
  /-- R100. XOR with a sign-extended immediate. -/
  | xori (d a : Fin 64) (i : BitVec 12)
  /-- R100. Shifts left by an immediate amount. -/
  | shli (d a h : Fin 64)
  /-- R100. Shifts right logically by an immediate amount. -/
  | shri (d a h : Fin 64)
  /-- R100. Shifts right arithmetically by an immediate amount. -/
  | srai (d a h : Fin 64)
  /-- R106. Loads a sign-extended 18-bit immediate. -/
  | limm (d : Fin 64) (i : BitVec 18)
  /-- R106. Shifts x[d] left by 18 and ORs in an immediate. -/
  | lsh18 (d : Fin 64) (i : BitVec 18)
  /-- R73. Checks that its bundle issues at span cycle n. -/
  | tchk (n : BitVec 12)
  /-- R101. Low 64 bits of a product. -/
  | mul (d a b : Fin 64)
  /-- R101. High 64 bits of a signed product. -/
  | mulhS (d a b : Fin 64)
  /-- R101. High 64 bits of an unsigned product. -/
  | mulhZ (d a b : Fin 64)
  /-- R101. Signed division truncated toward zero. -/
  | divS (d a b : Fin 64)
  /-- R101. Unsigned division. -/
  | divZ (d a b : Fin 64)
  /-- R101. Signed remainder. -/
  | remS (d a b : Fin 64)
  /-- R101. Unsigned remainder. -/
  | remZ (d a b : Fin 64)
  /-- R266. Applies the forgetting factor of an explicit age to one value. -/
  | rfac (d a b : Fin 64)
  /-- R108. Conditional relative branch with two delay bundles. -/
  | br (p : Fin 8) (g : Bool) (o : BitVec 20)
  /-- R108. Conditional relative branch that writes a return address to x63. -/
  | brl (p : Fin 8) (g : Bool) (o : BitVec 20)
  /-- R108. Conditional branch to the address in x[a]. -/
  | jr (p : Fin 8) (g : Bool) (a : Fin 64)
  /-- R108. Conditional branch to the address in a mailbox word. -/
  | mbr (p : Fin 8) (g : Bool) (m : Fin 16)
  /-- R110. Opens a zero-overhead loop with a trip count from a register. -/
  | loop (c : Fin 4) (a : Fin 64) (e : BitVec 16)
  /-- R110. Opens a zero-overhead loop with an immediate trip count. -/
  | loopi (c : Fin 4) (n : BitVec 12) (e : BitVec 10)
  /-- R113. Raises the trap cause HALT. -/
  | halt
  /-- R51. Ends the span and waits for the group-wide aligned release. -/
  | syncg
  /-- R310. Ends the tile's part of the kernel. -/
  | endK
  /-- R325. Ends a trap handler once its effects have landed and signals the Crown. -/
  | eret
  /-- R113. Reads the group cycle counter. -/
  | cyc (d : Fin 64)
  /-- R113. Reads the global cycle counter. -/
  | gcyc (d : Fin 64)
  /-- R330. Raises SOFT_TRAP with TINFO = n. -/
  | trap (n : BitVec 8)
  /-- R311. Aborts the kernel on purpose with USER_ABORT. -/
  | txabort (c : BitVec 12)
  /-- R332. Reads a control register. -/
  | rdc (d : Fin 64) (r : BitVec 12)
  /-- R332. Writes a control register. -/
  | wrc (a : Fin 64) (r : BitVec 12)
  /-- R333. Reads a word of the snapshot buffer in handler mode. -/
  | snapr (d a : Fin 64)
  /-- R184. Holds issue until a token counter reaches n, then consumes n. -/
  | waitk (k : Fin 64) (n : BitVec 12)
  /-- R185. Joins up to four token counters, decrementing all in one cycle. -/
  | fence (a b c d : Fin 64)
  /-- R354. Holds issue until the tile's last barrier phase is released. -/
  | barw (b : Fin 64)
  /-- R354. Arrives with weight 1 on a barrier and holds until release. -/
  | barvw (b : Fin 64)
  /-- R121. Loads a sign-extended byte. -/
  | ldS8 (d b : Fin 64) (i : BitVec 12)
  /-- R121. Loads a zero-extended byte. -/
  | ldZ8 (d b : Fin 64) (i : BitVec 12)
  /-- R121. Loads a sign-extended halfword. -/
  | ldS16 (d b : Fin 64) (i : BitVec 12)
  /-- R121. Loads a zero-extended halfword. -/
  | ldZ16 (d b : Fin 64) (i : BitVec 12)
  /-- R121. Loads a sign-extended word. -/
  | ldS32 (d b : Fin 64) (i : BitVec 12)
  /-- R121. Loads a zero-extended word. -/
  | ldZ32 (d b : Fin 64) (i : BitVec 12)
  /-- R121. Loads a doubleword. -/
  | ld64 (d b : Fin 64) (i : BitVec 12)
  /-- R123. Atomic add in an exclusive bank window. -/
  | aadd (d a b : Fin 64) (w : Bool)
  /-- R123. Atomic signed minimum. -/
  | aminS (d a b : Fin 64) (w : Bool)
  /-- R123. Atomic signed maximum. -/
  | amaxS (d a b : Fin 64) (w : Bool)
  /-- R123. Atomic AND. -/
  | aand (d a b : Fin 64) (w : Bool)
  /-- R123. Atomic OR. -/
  | aor (d a b : Fin 64) (w : Bool)
  /-- R123. Atomic exchange. -/
  | axchg (d a b : Fin 64) (w : Bool)
  /-- R123. Atomic compare and swap. -/
  | acas (d a b : Fin 64) (w : Bool)
  /-- R123. Atomic FP32 add. -/
  | afadd (d a b : Fin 64)
  /-- R121. Stores a byte. -/
  | st8 (v b : Fin 64) (i : BitVec 12)
  /-- R121. Stores a halfword. -/
  | st16 (v b : Fin 64) (i : BitVec 12)
  /-- R121. Stores a word. -/
  | st32 (v b : Fin 64) (i : BitVec 12)
  /-- R121. Stores a doubleword. -/
  | st64 (v b : Fin 64) (i : BitVec 12)
  /-- R173. Writes one 64-bit word of a walk record. -/
  | wset (w : Fin 32) (a : Fin 64) (o : Fin 8)
  /-- R174. Loads a walk record from one bank word. -/
  | wld (w : Fin 32) (b : Fin 64) (i : BitVec 12)
  /-- R174. Stores a walk record to one bank word. -/
  | wst (w : Fin 32) (b : Fin 64) (i : BitVec 12)
  /-- R175. Copies one walk record to another. -/
  | wcopy (d e : Fin 32)
  /-- R176. Queues a stream between tensor, scratchpad or host endpoints. -/
  | smov (a b : Fin 32) (k p : Fin 64) (m : Fin 2)
  /-- R176. Queues a multicast stream to a rectangle of tiles. -/
  | smc (a b : Fin 32) (k p : Fin 64) (m : Fin 2)
  /-- R176. Queues a stream with a gather2d side. -/
  | sgat2 (a b : Fin 32) (k p : Fin 64) (m : Fin 2)
  /-- R176. Queues a 2:4 expanding stream into scratchpad. -/
  | sexp (a b : Fin 32) (k p : Fin 64) (m : Fin 2)
  /-- R177. Queues a stream that decodes an image into a page tensor and patch list. -/
  | sdec (a b : Fin 32) (k p : Fin 64) (m : Fin 2)
  /-- R176. Queues a stream to or from a Canopy port. -/
  | sport (a b : Fin 32) (k p : Fin 64) (m : Fin 2)
  /-- R179. Queues a stream into a scratchpad ring. -/
  | sring (a b : Fin 32) (k p : Fin 64) (m : Fin 2)
  /-- R180. Releases words of a ring. -/
  | srel (w : Fin 32) (a : Fin 64)
  /-- R182. Places an ordering barrier in the command queue. -/
  | sbar
  /-- R183. Queues an addition of n to a token counter of a target tile. -/
  | tok (k a : Fin 64) (n : BitVec 12)
  /-- R186. Queues a reload of one descriptor at every Root. -/
  | tdsync (k a : Fin 64)
  /-- R198. Accumulates a BF16 product into an acc plane. -/
  | mmaBf16 (p : Fin 4) (a b : Fin 32) (k d : Fin 64)
  /-- R198. Accumulates an FP16 product into an acc plane. -/
  | mmaFp16 (p : Fin 4) (a b : Fin 32) (k d : Fin 64)
  /-- R198. Accumulates an FP8 E4M3 product. -/
  | mmaE4m3 (p : Fin 4) (a b : Fin 32) (k d : Fin 64)
  /-- R198. Accumulates an FP8 E5M2 product. -/
  | mmaE5m2 (p : Fin 4) (a b : Fin 32) (k d : Fin 64)
  /-- R199. Adds MXFP8 E4M3 block products exactly into a bp plane. -/
  | mmbMxfp8e4 (p : Fin 2) (a b : Fin 32) (k d : Fin 64)
  /-- R199. Adds MXFP8 E5M2 block products into a bp plane. -/
  | mmbMxfp8e5 (p : Fin 2) (a b : Fin 32) (k d : Fin 64)
  /-- R199. Adds MXFP4 block products into a bp plane. -/
  | mmbMxfp4 (p : Fin 2) (a b : Fin 32) (k d : Fin 64)
  /-- R199. Adds MXINT8 block products into a bp plane. -/
  | mmbMxint8 (p : Fin 2) (a b : Fin 32) (k d : Fin 64)
  /-- R199. Adds FK8 block products into bp sub-sums. -/
  | mmbFk8 (p : Fin 2) (a b : Fin 32) (k d : Fin 64)
  /-- R199. Adds FK4 block products into bp sub-sums. -/
  | mmbFk4 (p : Fin 2) (a b : Fin 32) (k d : Fin 64)
  /-- R200. Folds a scaled block from a bp plane into an acc plane. -/
  | sac (p : Fin 4) (a b : Fin 32) (k d : Fin 64)
  /-- R201. Clears an acc or bp plane. -/
  | zacc (p : Fin 4) (k : Bool) (q d : Fin 64)
  /-- R202. Loads an acc plane from FP32 scratchpad data. -/
  | ldacc (p : Fin 4) (a : Fin 32) (k d : Fin 64)
  /-- R204. Converts a rectangle of an acc plane and writes it to scratchpad. -/
  | drain (p : Fin 4) (w : Fin 32) (r : Rm) (t : Bool) (k d : Fin 64)
  /-- R205. Reads a row max-magnitude register. -/
  | amaxr (d : Fin 64) (p : Fin 4) (n : Fin 64)
  /-- R205. Reads a column max-magnitude register. -/
  | amaxc (d : Fin 64) (p : Fin 4) (n : Fin 64)
  /-- R239. Loads Canopy configuration records from scratchpad. -/
  | cld (c : Fin 12) (r : BitVec 4) (a : Fin 64)
  /-- R239. Stores Canopy configuration records to scratchpad. -/
  | cst (c : Fin 12) (r : BitVec 4) (a : Fin 64)
  /-- R240. Writes a Canopy row's context mask. -/
  | cctx (r : Fin 4) (a : Fin 64)
  /-- R241. Arms a whorl at its start cycle. -/
  | cwhorl (c : Fin 12) (r : BitVec 4) (k d : Fin 64)
  /-- R242. Writes one parameter word of a Canopy record. -/
  | cparam (u : Fin 32) (c : Fin 12) (a : Fin 64) (p : Fin 12)
  /-- R243. Derives a backward Canopy context from a forward one. -/
  | cadj (f b : Fin 12) (r : BitVec 4)
  /-- R244. Loads a TABLE unit's table image. -/
  | ctab (u : Fin 32) (a : Fin 64)
  /-- R245. Requests a token once the named Canopy rows are idle and drained. -/
  | cdrain (r : BitVec 4) (k : Fin 64)
  /-- R187. Reads stream status. -/
  | sstat (d : Fin 64) (e : Fin 5)
  /-- R206. Reads matrix array status. -/
  | mstat (d : Fin 64) (e : Fin 5)
  /-- R246. Reads Canopy status. -/
  | cstat (d : Fin 64) (e : Fin 4)
  /-- R313. Reads transaction status. -/
  | txstat (d : Fin 64) (e : Fin 8)
  /-- R264. Reads the kernel's step view. -/
  | stepr (d : Fin 64)
  /-- R352. Sends a request that arms a barrier with a target. -/
  | barm (b a : Fin 64)
  /-- R353. Sends a weighted barrier arrival at issue. -/
  | barv (b a : Fin 64)
  /-- R353. Queues a weighted barrier arrival ordered after earlier writes. -/
  | bars (b a : Fin 64)
  /-- R265. Adds to the kernel's pending step advance. -/
  | stepadv (a : Fin 64)
  /-- R312. Captures one escape record for staging or posting. -/
  | esc (b : Fin 64) (i : BitVec 12)
  /-- R287. Appends a launch record to a queue. -/
  | qlaunch (k a b : Fin 64)
  /-- R127. Elementwise vector add. -/
  | vadd (d a b : Fin 32) (m : Fin 8) (t : LaneT)
  /-- R127. Elementwise vector subtract. -/
  | vsub (d a b : Fin 32) (m : Fin 8) (t : LaneT)
  /-- R127. Elementwise vector multiply. -/
  | vmul (d a b : Fin 32) (m : Fin 8) (t : LaneT)
  /-- R127. Elementwise fused multiply-add into v[d]. -/
  | vfma (d a b : Fin 32) (m : Fin 8) (t : LaneT)
  /-- R127. Elementwise minimum. -/
  | vmin (d a b : Fin 32) (m : Fin 8) (t : LaneT)
  /-- R127. Elementwise maximum. -/
  | vmax (d a b : Fin 32) (m : Fin 8) (t : LaneT)
  /-- R127. Elementwise absolute value. -/
  | vabs (d a : Fin 32) (m : Fin 8) (t : LaneT)
  /-- R127. Elementwise negation. -/
  | vneg (d a : Fin 32) (m : Fin 8) (t : LaneT)
  /-- R128. Bitwise AND of two vectors. -/
  | vand (d a b : Fin 32) (m : Fin 8)
  /-- R128. Bitwise OR of two vectors. -/
  | vor (d a b : Fin 32) (m : Fin 8)
  /-- R128. Bitwise XOR of two vectors. -/
  | vxor (d a b : Fin 32) (m : Fin 8)
  /-- R128. Bitwise NOT of a vector. -/
  | vnot (d a : Fin 32) (m : Fin 8)
  /-- R129. Elementwise left shift. -/
  | vshl (d a b : Fin 32) (m : Fin 8) (t : LaneT)
  /-- R129. Elementwise logical right shift. -/
  | vshr (d a b : Fin 32) (m : Fin 8) (t : LaneT)
  /-- R129. Elementwise arithmetic right shift. -/
  | vsra (d a b : Fin 32) (m : Fin 8) (t : LaneT)
  /-- R130. Writes a lane mask from an elementwise compare. -/
  | vcmp (v : Fin 8) (a b : Fin 32) (c : VCond) (t : LaneT)
  /-- R131. Selects whole lanes of two vectors by a mask. -/
  | vsel (d a b : Fin 32) (m : Fin 8)
  /-- R132. Broadcasts a scalar into every element. -/
  | vbcast (d : Fin 32) (a : Fin 64) (m : Fin 8) (t : LaneT)
  /-- R133. Extracts one vector element into a scalar register. -/
  | vext (d : Fin 64) (a : Fin 32) (n : Fin 64) (t : LaneT)
  /-- R134. Permutes lanes by an index vector. -/
  | vperm (d a b : Fin 32) (m : Fin 8)
  /-- R135. Interleaves or deinterleaves elements of two vectors. -/
  | vshuf (d a b : Fin 32) (p : ShufPat) (t : LaneT)
  /-- R136. Exact sum over participating lanes, rounded once. -/
  | vredAdd (d : Fin 64) (a : Fin 32) (p : Fin 8) (t : LaneT)
  /-- R136. Maximum over participating lanes. -/
  | vredMax (d : Fin 64) (a : Fin 32) (p : Fin 8) (t : LaneT)
  /-- R136. Minimum over participating lanes. -/
  | vredMin (d : Fin 64) (a : Fin 32) (p : Fin 8) (t : LaneT)
  /-- R136. Prefix sum over lanes into a vector. -/
  | vscanAdd (d a : Fin 32) (p : Fin 8) (t : LaneT)
  /-- R136. Largest magnitude over participating lanes. -/
  | vamax (d : Fin 64) (a : Fin 32) (p : Fin 8) (t : LaneT)
  /-- R137. Converts sixteen values between formats. -/
  | vcvt (d a : Fin 32) (u y : CvtT) (r : Rm) (q : Bool) (m : Fin 8)
  /-- R141. Writes counter-generator words indexed by a scalar. -/
  | vrng (d : Fin 32) (a : Fin 64) (m : Fin 8)
  /-- R142. Loads one 64-byte bank word into a vector. -/
  | vld (d : Fin 32) (b : Fin 64) (i : BitVec 12)
  /-- R142. Stores a vector to one 64-byte bank word. -/
  | vst (d : Fin 32) (b : Fin 64) (i : BitVec 12)
  /-- R143. Gathers 32-bit lanes from scratchpad. -/
  | vldg (d : Fin 32) (a : Fin 64) (b : Fin 32) (m : Fin 8)
  /-- R143. Scatters 32-bit lanes to scratchpad. -/
  | vsts (d : Fin 32) (a : Fin 64) (b : Fin 32) (m : Fin 8)
  /-- R51. Every tile of the group issues the first bundle of the aligned span at g + 2D + 8. -/
  | syncgRelease (g : Nat)
  /-- R184. A holding waitk finds its counter at n, consumes it and lets the next bundle issue. -/
  | waitkRelease (t : Nat) (u : Bool)
  /-- R185. A holding fence finds every named counter ready and decrements them together. -/
  | fenceRelease (t : Nat) (u : Bool)
  /-- R354. A holding barw or barvw sees its phase released and lets the next bundle issue. -/
  | barwRelease (t : Nat) (u : Bool)
  /-- R69. At issue + d a matrix or Canopy command checks its precondition and port and starts. -/
  | engineCommandStart (t c : Nat)
  /-- R168. The command queue dispatches its oldest ready command, decrementing its precondition. -/
  | cmdqDispatch (t : Nat) (u : Bool)
  /-- R153. A stream engine moves an element between its endpoints once its bank or Root access is granted. -/
  | streamElementTransfer (t n e r : Nat) (w : Bool)
  /-- R155. A ring stream writes a word once fewer than C words are unreleased and sends its token. -/
  | ringWordWrite (t n : Nat)
  /-- R170. The engine has read the last source element and sends the read-done token. -/
  | streamReadDone (t n : Nat)
  /-- R170. Every write of a stream is applied and its completion token lands. -/
  | streamComplete (t n d : Nat)
  /-- R183. A dispatched tok's addition lands on the target tile's counter. -/
  | tokDelivery (n : Nat)
  /-- R186. All twelve Roots hold the new descriptor version and the token lands. -/
  | tdsyncDone (n : Nat)
  /-- R177. The oldest free decoder unit is given to the oldest waiting sdec stream. -/
  | decoderAssign
  /-- R229. An armed whorl fires when its inputs, parameter ports and out slots are present. -/
  | whorlFire (t c : Nat)
  /-- R232. A whorl whose ports are drained and last firing delivered disarms and releases its ports. -/
  | whorlDisarm (t c : Nat)
  /-- R245. The named rows are idle and drained and the cdrain token lands. -/
  | cdrainToken (t n : Nat)
  /-- R352. A barm request lands at the barrier, binding or arming it. -/
  | barrierRequestLand (n : Nat)
  /-- R349. A barv, bars or barvw arrival lands and is counted or held. -/
  | barrierArrivalLand (n : Nat)
  /-- R350. At g + F a completed phase is released and held arrivals are applied. -/
  | barrierRelease (e b : Nat)
  /-- R319. An asynchronous fault reaches the issuing tile as a trap. -/
  | asyncFaultReport (n : Nat)
  /-- R320. At T + F the group stops, moves core effects into snapshots and takes a disposition. -/
  | freezeStop (g : Nat)
  /-- R325. At e + F every tile resumes and snapshot entries land. -/
  | groupResume (g : Nat)
  /-- R326. The group cycle counter reaches CYCALARM and the tile traps. -/
  | cycleAlarm (t : Nat) (u : Bool)
  /-- R286. The Crown considers an enabled queue's head, checking it and judging readiness. -/
  | headConsider (q : Nat)
  /-- R290. A selected ready record or retry is dispatched with a ticket and its copies. -/
  | kernelDispatch (y : Bool) (n : Nat) (p : Place)
  /-- R316. The Crown places a group once its target tiles and regions are free, loading sections. -/
  | groupPlace (k : Nat) (p : Place)
  /-- R316. At the start gcy every tile of the group issues its entry bundle. -/
  | groupStart (g : Nat)
  /-- R310. Every tile has ended and outstanding operations are complete; the group is released. -/
  | kernelFinish (k : Nat)
  /-- R298. A finished kernel whose ticket is CT + 1 commits in one broadcast and aborts conflicting readers. -/
  | commitPass (k : Nat)
  /-- R261. The Roots finish rewriting old ring groups after a commit crossing a sweep boundary. -/
  | sweepDone (c : Nat)
  /-- R305. A committed kernel's escapes are posted in escape order and its done doubleword is written. -/
  | escapesPerformed (k : Nat)
  /-- R295. A Root copies a committed sapwood version into heartwood and frees its line. -/
  | versionSettle (l n : Nat)
  /-- R292. An aborted ticket at CT + 1 with its discard complete is passed. -/
  | abandonedTicketPass (c : Nat)
  /-- R300. An abort cause stops the group and the kernel's streams. -/
  | kernelAbort (k : Nat)
  /-- R301. The kernel's versions, sets and staged escapes are discarded and retry is decided. -/
  | abortDiscardDone (k : Nat)
  /-- R304. A held kernel whose ticket is CT + 1 settles its versions and becomes irrevocable. -/
  | writeInPlaceStart (k : Nat)
  /-- R306. At the end of gcy d + budget a running or frozen kernel aborts with BUDGET. -/
  | budgetExpire (k : Nat)
  /-- R287. The Crown appends a qlaunch record to its queue when room allows. -/
  | qlaunchAppend (n : Nat)
  /-- R334. The Crown loads urgent sections and sends pause requests to victim groups. -/
  | urgentPause (k : Nat) (p : Place)
  /-- R334. A paused group stops at t + F and the urgent group starts. -/
  | pauseStop (g : Nat)
  /-- R335. The last urgent group on its tiles is released and the paused group resumes. -/
  | urgentReleaseResume (g : Nat)
  /-- R336. A head waiting 65,536 gcy for tiles causes lower-class groups to be switched out. -/
  | fullSwitch (k : Nat) (v : List Nat)
  /-- R337. Every tile has written its save slot and the tiles are freed. -/
  | switchSaveDone (g : Nat)
  /-- R338. A switched-out group is restored on its tile ids once free, after checks. -/
  | restore (g : Nat)
  /-- R341. A tile idle for 10,000 cy enters gating. -/
  | gatingStart (t : Nat)
  /-- R341. Gating completes after 64 gcy and the tile is gated. -/
  | gatingDone (t : Nat)
  /-- R341. A wake from the Crown moves a gated or gating tile to waking. -/
  | tileWake (t : Nat)
  /-- R341. Waking completes after 512 gcy and the tile is free. -/
  | tileWakeDone (t : Nat)
  /-- R271. CTXCMD CREATE reads a context record and assigns a free context. -/
  | ctxCreate (x : CmdArgs)
  /-- R272. CTXCMD SEAL moves a building context to ready. -/
  | ctxSeal (x : CmdArgs)
  /-- R272. CTXCMD QUIESCE disables the context's queues. -/
  | ctxQuiesce (x : CmdArgs)
  /-- R272. CTXCMD KILL aborts every live kernel of the context. -/
  | ctxKill (x : CmdArgs)
  /-- R274. CTXCMD DESTROY kills the context's kernels and starts its scrub. -/
  | ctxDestroy (x : CmdArgs)
  /-- R274. The scrub of a destroyed context completes and it becomes free. -/
  | destroyScrubDone (c : Fin 64)
  /-- R263. CTXCMD STEP_WRITE starts a rebase pass of the context's ringed tensors. -/
  | ctxStepWrite (c : Fin 64) (n : BitVec 48)
  /-- R263. The rebase pass finishes and STEP takes its new value. -/
  | stepWriteDone (c : Fin 64)
  /-- R270. CTXCMD STEP_READ returns STEP in arg. -/
  | ctxStepRead (x : CmdArgs)
  /-- R280. A host write to QCFG binds a queue or enables or disables it. -/
  | qcfgWrite (q : Fin 2048) (w : BitVec 64)
  /-- R281. A host write to QTAIL publishes records, binds a queue's start or crosses a segment. -/
  | qtailWrite (q : Fin 2048) (w : BitVec 64)
  /-- R396. A host write adds a segment to the pool, completing any stalled crossing. -/
  | segpoolPush (w : BitVec 64)
  /-- R373. PGCMD UPDATE replaces a page-list entry, drops copies and wakes holds. -/
  | pgUpdate (c : Fin 64) (a : BitVec 48)
  /-- R373. PGCMD ADCLEAR clears A or D bits of an entry. -/
  | pgAdclear (c : Fin 64) (a : BitVec 48)
  /-- R371. PGCMD WAKE retries a held element by its fault id. -/
  | pgWake (c : Fin 64) (a : BitVec 48)
  /-- R376. The driver moves the trap-queue head, freeing room for waiting records. -/
  | tqptrHeadWrite (c : Fin 64) (w : BitVec 64)
  /-- R377. The Crown writes a trap-queue record once room allows and fires its MSI-X vector. -/
  | trapRecordWrite (c : Fin 64)
  /-- R395. The command IDKEY that SPCMD started returns the public identity key. -/
  | spIdkey
  /-- R395. The command QUOTE that SPCMD started signs an attestation quote over a host nonce. -/
  | spQuote
  /-- R395. The command OWNER that SPCMD started installs the owner key once per boot. -/
  | spOwner
  /-- R395. The command SECURE_CREATE that SPCMD started checks a signature and creates a secure context from the record at `a`. -/
  | spSecureCreate (a : BitVec 48)
  /-- R398. MGMTCMD HALT makes each running group of a context raise DEBUG_HALT. -/
  | mgmtHalt (x : MgmtArgs)
  /-- R398. MGMTCMD RESUME resumes a held group. -/
  | mgmtResume (c : Fin 64) (t : BitVec 9)
  /-- R397. A STARTCTL write with go = 0 lists a tile and its entry address for bring-up. -/
  | startctlList (t : BitVec 9) (a : BitVec 16)
  /-- R397. A STARTCTL write with go = 1 starts every listed tile at STARTGCY. -/
  | startctlGo
  /-- R396. A write to RANK sets the UALink rank only while every context is free. -/
  | rankWrite (w : BitVec 64)
  /-- R390, R391. A retrain is requested of a down port, by PORTSTAT, or of the PCIe link, entry 32, by its other end. -/
  | portstatRetrain (p : Fin 33)
  /-- R379. A host write to a BAR0 register with no behaviour of its own. -/
  | registerWrite (p : RegPath) (w : BitVec 64)
  /-- R380. A host read through BAR2 returns heartwood or the newest committed version. -/
  | hostBar2Read (a : BitVec 40) (n : Nat)
  /-- R380. A host write through BAR2 settles committed versions and lands on heartwood. -/
  | hostBar2Write (a : BitVec 40) (v : List (BitVec 8))
  /-- R387. An incoming UALink read request is checked and served from scratchpad. -/
  | ualReadRequest (q : UalReq) (n : Nat)
  /-- R387. An incoming UALink write request is checked and applied to scratchpad. -/
  | ualWriteRequest (q : UalReq) (v : List (BitVec 8))
  /-- R385. An incoming UALink atomic add is applied indivisibly. -/
  | ualAtomicAdd (q : UalReq) (w : Bool) (v : BitVec 64)
  /-- R385. An incoming UALink atomic swap is applied indivisibly. -/
  | ualAtomicSwap (q : UalReq) (w : Bool) (v : BitVec 64)
  /-- R385. An incoming UALink compare-and-swap is applied indivisibly. -/
  | ualAtomicCas (q : UalReq) (w : Bool) (x v : BitVec 64)
  /-- R388. An incoming token-window write is held until the writes before it are applied. -/
  | tokenWindowWrite (q : UalReq) (v : List (BitVec 8)) (n : Nat)
  /-- R388. A held remote token lands once its count of writes has been applied. -/
  | remoteTokenLand (n : Nat)
  /-- R389. A remote request receives an error response. -/
  | remoteErrorResponse (n : Nat)
  /-- R389. A remote request has no response within 2^24 gcy. -/
  | remoteResponseTimeout (n : Nat)
  /-- R382. A PCIe completion for a host-window read arrives, failing with HOST_ERROR if bad. -/
  | hostReadCompletion (n : Nat) (g : Bool) (v : List (BitVec 8))
  /-- R390. A link trains at full rate and width and is up. -/
  | linkTrained (p : Fin 33)
  /-- R390. A link trains at lower rate or width and is degraded. -/
  | linkTrainedDegraded (p : Fin 33) (w : BitVec 3) (r : BitVec 2)
  /-- R390. Training fails and the link is down. -/
  | linkTrainingFail (p : Fin 33)
  /-- R390. Retry exhaustion or an uncorrectable error puts a link in error. -/
  | linkError (p : Fin 33)
  /-- R390. Requests in flight on an errored link have failed and it goes down. -/
  | linkErrorDrained (p : Fin 33)
  /-- R393. PWRGOOD and PERST# release and the security ROM starts. -/
  | resetRelease
  /-- R393. The ROM finishes verifying firmware, releasing the Crown and starting gcyc or failing boot. -/
  | firmwareVerified (m k v : List (BitVec 8))
  /-- R403. Over-power for 1 ms or a die at 95 °C lowers the tile clock. -/
  | throttle (w : BitVec 16) (c : BitVec 12)
  /-- R403. A die at 105 °C aborts every running kernel. -/
  | thermalTrip (w : BitVec 16) (c : BitVec 12)
  /-- R403. Power 10 % over the limit for 10 ms aborts every running kernel. -/
  | powerTrip (w : BitVec 16) (c : BitVec 12)
  /-- R401. An uncorrectable soft error in architectural storage raises its _ERROR cause. -/
  | storageError (e : ErrorSite) (c : Cause)
  /-- R382. A host-window read receives no completion within the PCIe completion timeout and its stream raises HOST_ERROR. -/
  | completionTimeout (n : Nat)
  /-- R385. A successful UALink response returns data for a remote read, or acknowledges a remote write, issued by a stream. -/
  | remoteReadResponse (n : Nat) (v : List (BitVec 8))
  /-- R393. PWRGOOD drops or PERST# is asserted, putting the package back into reset. -/
  | resetAssert
  /-- R403. The power or temperature condition clears, the tile clock returns to its rated rate and THERMSTAT.throttle reads 0. -/
  | throttleEnd (w : BitVec 16) (c : BitVec 12)
  /-- R396. A write to CROWNCTL.en enables or disables the Crown's selection and placement. -/
  | crownctlWrite (e : Bool)
deriving DecidableEq, Repr

end Sys2Proof
end

