-- ==== Sys2Proof/WellFormed.lean ====
section
/-! DEFINITION. The checks of R84, R85, R86 and R137 that tie the fields of one slot together; a field's own range is in its type. -/
namespace Sys2Proof

/-- A lane type is one of those an instruction accepts, R84. -/
def LaneT.isIn (t : LaneT) (l : List LaneT) : Bool := l.contains t

/-- The lane types of the floating-point rows. -/
def LaneT.floats : List LaneT := [.f32, .bf16]

/-- The number of elements a vector register holds under a lane type, R124. -/
def LaneT.count : LaneT → Nat
  | .s16 => 32
  | .s8 => 64
  | _ => 16

/-- Every check of R86 on one slot that the types of its fields do not already make. -/
def Instr.wellFormed : Instr → Bool
  | .vfma _ _ _ _ t => t.isIn LaneT.floats
  | .vabs _ _ _ t | .vneg _ _ _ t => t.isIn [.f32, .bf16, .s32, .s16, .s8]
  | .vshl _ _ _ _ t | .vshr _ _ _ _ t => t.isIn [.s32, .z32, .s16, .s8]
  | .vsra _ _ _ _ t => t.isIn [.s32, .s16, .s8]
  | .vext _ _ n t => n.val < t.count
  | .vshuf _ _ _ _ t => t.isIn [.f32, .s32, .s16, .s8]
  | .vredAdd _ _ _ t => t.isIn [.f32, .bf16, .s32, .z32]
  | .vscanAdd _ _ _ t => t.isIn [.f32, .s32, .z32]
  | .vamax _ _ _ t => t.isIn LaneT.floats
  | .vcvt _ _ u y _ _ _ => u != y
  | .loop _ _ e => e != 0
  | .loopi _ _ e => e != 0
  | .cld _ r a | .cst _ r a => r != 0 && a.val / 16 == r.toNat % 4
  | .cwhorl _ r _ _ | .cadj _ _ r | .cdrain r _ => r != 0
  | .zacc p k _ _ => !k || p.val < 2
  | _ => true

end Sys2Proof
end

