-- ==== Sys2Proof/Decode.lean ====
section
/-! DEFINITION. The decoder of one slot (R76 to R86, check 3 of R86) and, after it, the encoder written from the same tables. -/
namespace Sys2Proof

/-- Why a slot is no instruction, R86 check 3. -/
inductive DecodeError where
  /-- OP is unassigned (R79). -/
  | unassignedOp
  /-- The sub-function is unassigned (R82, R84). -/
  | unassignedMember
  /-- A reserved field is not zero (R83 to R85). -/
  | reservedField
  /-- A lane type, conversion type, condition, pattern, rounding mode or mode is unassigned (R84, R137, R170). -/
  | badSelector
  /-- A field names nothing: a context at or above 12, a selector or parameter number out of its list (R86, R187, R206, R242, R246, R313). -/
  | outOfFile
  /-- The fields do not go together (R84, R85, R86, R137). -/
  | illFormed
  /-- Fewer bytes than a slot holds. -/
  | truncated
deriving DecidableEq, Repr

/-- Bits hi:lo of a slot. -/
def fld (w hi lo : Nat) : Nat := w / 2 ^ lo % 2 ^ (hi + 1 - lo)

/-- One bit of a slot. -/
def flag (w i : Nat) : Bool := w / 2 ^ i % 2 == 1

/-- A register number of a file of `n` registers whose field starts at bit `lo`. -/
def reg (n w lo : Nat) [NeZero n] : Fin n := Fin.ofNat n (w / 2 ^ lo)

/-- The reserved fields must be zero (R83 to R85). -/
def zero (l : List Nat) (r : Except DecodeError Instr) : Except DecodeError Instr :=
  if l.all (· == 0) then r else .error .reservedField

/-- A field whose legal values are those below `n`. -/
def below (n : Nat) (x : Nat) (f : Fin n → Except DecodeError Instr) : Except DecodeError Instr :=
  if h : x < n then f ⟨x, h⟩ else .error .outOfFile

/-- Lane type codes, R84. -/
def LaneT.ofCode : Nat → Option LaneT
  | 0 => some .f32 | 1 => some .bf16 | 2 => some .s32 | 3 => some .z32 | 4 => some .s16 | 5 => some .s8 | _ => none

/-- Conversion type codes, R137. -/
def CvtT.ofCode : Nat → Option CvtT
  | 0 => some .f32 | 1 => some .bf16 | 2 => some .s32 | 3 => some .z32 | 4 => some .s16 | 5 => some .s8 | 6 => some .e4m3 | 7 => some .e5m2
  | _ => none

/-- Rounding mode codes, R32. -/
def Rm.ofCode : Nat → Option Rm
  | 0 => some .rne | 1 => some .rz | 2 => some .sr | _ => none

/-- Condition codes of vcmp, R130. -/
def VCond.ofCode : Nat → Option VCond
  | 0 => some .eq | 1 => some .ne | 2 => some .lt | 3 => some .le | _ => none

/-- Pattern codes of vshuf, R135. -/
def ShufPat.ofCode : Nat → Option ShufPat
  | 0 => some .lo | 1 => some .hi | 2 => some .ev | 3 => some .od | _ => none

/-- Goes on with the constructor a code selects. -/
def withCode {α : Type} (o : Option α) (f : α → Except DecodeError Instr) : Except DecodeError Instr :=
  match o with
  | some a => f a
  | none => .error .badSelector

/-- The members of Alu, OP 0x01 (R82, R84). -/
def decodeAlu (w : Nat) : Except DecodeError Instr :=
  match fld w 5 0 with
  | 0 => .ok (.add (reg 64 w 18) (reg 64 w 12) (reg 64 w 6))
  | 1 => .ok (.sub (reg 64 w 18) (reg 64 w 12) (reg 64 w 6))
  | 2 => .ok (.and (reg 64 w 18) (reg 64 w 12) (reg 64 w 6))
  | 3 => .ok (.or (reg 64 w 18) (reg 64 w 12) (reg 64 w 6))
  | 4 => .ok (.xor (reg 64 w 18) (reg 64 w 12) (reg 64 w 6))
  | 5 => .ok (.shl (reg 64 w 18) (reg 64 w 12) (reg 64 w 6))
  | 6 => .ok (.shr (reg 64 w 18) (reg 64 w 12) (reg 64 w 6))
  | 7 => .ok (.sra (reg 64 w 18) (reg 64 w 12) (reg 64 w 6))
  | 8 => .ok (.minS (reg 64 w 18) (reg 64 w 12) (reg 64 w 6))
  | 9 => .ok (.minZ (reg 64 w 18) (reg 64 w 12) (reg 64 w 6))
  | 10 => .ok (.maxS (reg 64 w 18) (reg 64 w 12) (reg 64 w 6))
  | 11 => .ok (.maxZ (reg 64 w 18) (reg 64 w 12) (reg 64 w 6))
  | 12 => zero [fld w 11 6] <| .ok (.clz (reg 64 w 18) (reg 64 w 12))
  | 13 => zero [fld w 11 6] <| .ok (.ctz (reg 64 w 18) (reg 64 w 12))
  | 14 => zero [fld w 11 6] <| .ok (.popc (reg 64 w 18) (reg 64 w 12))
  | _ => .error .unassignedMember

/-- The members of Cmp, OP 0x02 (R82, R84). -/
def decodeCmp (w : Nat) : Except DecodeError Instr :=
  match fld w 5 0 with
  | 0 => zero [fld w 23 21] <| .ok (.cmpEq (reg 8 w 18) (reg 64 w 12) (reg 64 w 6))
  | 1 => zero [fld w 23 21] <| .ok (.cmpNe (reg 8 w 18) (reg 64 w 12) (reg 64 w 6))
  | 2 => zero [fld w 23 21] <| .ok (.cmpLtS (reg 8 w 18) (reg 64 w 12) (reg 64 w 6))
  | 3 => zero [fld w 23 21] <| .ok (.cmpLtZ (reg 8 w 18) (reg 64 w 12) (reg 64 w 6))
  | 4 => zero [fld w 23 21] <| .ok (.cmpLeS (reg 8 w 18) (reg 64 w 12) (reg 64 w 6))
  | 5 => zero [fld w 23 21] <| .ok (.cmpLeZ (reg 8 w 18) (reg 64 w 12) (reg 64 w 6))
  | _ => .error .unassignedMember

/-- The members of Cmpi, OP 0x03 (R82, R84). -/
def decodeCmpi (w : Nat) : Except DecodeError Instr :=
  match fld w 23 21 with
  | 0 => .ok (.cmpEqImm (reg 8 w 18) (reg 64 w 12) (BitVec.ofNat 12 (fld w 11 0)))
  | 1 => .ok (.cmpNeImm (reg 8 w 18) (reg 64 w 12) (BitVec.ofNat 12 (fld w 11 0)))
  | 2 => .ok (.cmpLtSImm (reg 8 w 18) (reg 64 w 12) (BitVec.ofNat 12 (fld w 11 0)))
  | 3 => .ok (.cmpLtZImm (reg 8 w 18) (reg 64 w 12) (BitVec.ofNat 12 (fld w 11 0)))
  | 4 => .ok (.cmpLeSImm (reg 8 w 18) (reg 64 w 12) (BitVec.ofNat 12 (fld w 11 0)))
  | 5 => .ok (.cmpLeZImm (reg 8 w 18) (reg 64 w 12) (BitVec.ofNat 12 (fld w 11 0)))
  | _ => .error .unassignedMember

/-- The members of Plog, OP 0x04 (R82, R84). -/
def decodePlog (w : Nat) : Except DecodeError Instr :=
  match fld w 5 0 with
  | 0 => zero [fld w 11 9, fld w 17 15, fld w 23 21] <| .ok (.pand (reg 8 w 18) (reg 8 w 12) (reg 8 w 6))
  | 1 => zero [fld w 11 9, fld w 17 15, fld w 23 21] <| .ok (.por (reg 8 w 18) (reg 8 w 12) (reg 8 w 6))
  | 2 => zero [fld w 11 9, fld w 17 15, fld w 23 21] <| .ok (.pxor (reg 8 w 18) (reg 8 w 12) (reg 8 w 6))
  | 3 => zero [fld w 11 6, fld w 17 15, fld w 23 21] <| .ok (.pnot (reg 8 w 18) (reg 8 w 12))
  | _ => .error .unassignedMember

/-- The members of Ptr, OP 0x06 (R82, R84). -/
def decodePtr (w : Nat) : Except DecodeError Instr :=
  match fld w 5 0 with
  | 0 => .ok (.ptag (reg 64 w 18) (reg 64 w 12) (reg 64 w 6))
  | 1 => .ok (.pspace (reg 64 w 18) (reg 64 w 12) (reg 64 w 6))
  | 2 => .ok (.poff (reg 64 w 18) (reg 64 w 12) (reg 64 w 6))
  | 3 => .ok (.padd (reg 64 w 18) (reg 64 w 12) (reg 64 w 6))
  | _ => .error .unassignedMember

/-- The members of Shi, OP 0x0B (R82, R84). -/
def decodeShi (w : Nat) : Except DecodeError Instr :=
  match fld w 7 6 with
  | 0 => zero [fld w 11 8] <| .ok (.shli (reg 64 w 18) (reg 64 w 12) (reg 64 w 0))
  | 1 => zero [fld w 11 8] <| .ok (.shri (reg 64 w 18) (reg 64 w 12) (reg 64 w 0))
  | 2 => zero [fld w 11 8] <| .ok (.srai (reg 64 w 18) (reg 64 w 12) (reg 64 w 0))
  | _ => .error .unassignedMember

/-- The members of Muldiv, OP 0x10 (R82, R84). -/
def decodeMuldiv (w : Nat) : Except DecodeError Instr :=
  match fld w 5 0 with
  | 0 => .ok (.mul (reg 64 w 18) (reg 64 w 12) (reg 64 w 6))
  | 1 => .ok (.mulhS (reg 64 w 18) (reg 64 w 12) (reg 64 w 6))
  | 2 => .ok (.mulhZ (reg 64 w 18) (reg 64 w 12) (reg 64 w 6))
  | 3 => .ok (.divS (reg 64 w 18) (reg 64 w 12) (reg 64 w 6))
  | 4 => .ok (.divZ (reg 64 w 18) (reg 64 w 12) (reg 64 w 6))
  | 5 => .ok (.remS (reg 64 w 18) (reg 64 w 12) (reg 64 w 6))
  | 6 => .ok (.remZ (reg 64 w 18) (reg 64 w 12) (reg 64 w 6))
  | _ => .error .unassignedMember

/-- The members of Ctl, OP 0x1E (R82, R84). -/
def decodeCtl (w : Nat) : Except DecodeError Instr :=
  match fld w 5 0 with
  | 0 => zero [fld w 23 6] <| .ok (.halt)
  | 1 => zero [fld w 23 6] <| .ok (.syncg)
  | 2 => zero [fld w 23 6] <| .ok (.endK)
  | 3 => zero [fld w 23 6] <| .ok (.eret)
  | 4 => zero [fld w 17 6] <| .ok (.cyc (reg 64 w 18))
  | 5 => zero [fld w 17 6] <| .ok (.gcyc (reg 64 w 18))
  | _ => .error .unassignedMember

/-- The members of Atom, OP 0x2F (R82, R84). -/
def decodeAtom (w : Nat) : Except DecodeError Instr :=
  match fld w 5 3 with
  | 0 => zero [fld w 2 1] <| .ok (.aadd (reg 64 w 18) (reg 64 w 12) (reg 64 w 6) (flag w 0))
  | 1 => zero [fld w 2 1] <| .ok (.aminS (reg 64 w 18) (reg 64 w 12) (reg 64 w 6) (flag w 0))
  | 2 => zero [fld w 2 1] <| .ok (.amaxS (reg 64 w 18) (reg 64 w 12) (reg 64 w 6) (flag w 0))
  | 3 => zero [fld w 2 1] <| .ok (.aand (reg 64 w 18) (reg 64 w 12) (reg 64 w 6) (flag w 0))
  | 4 => zero [fld w 2 1] <| .ok (.aor (reg 64 w 18) (reg 64 w 12) (reg 64 w 6) (flag w 0))
  | 5 => zero [fld w 2 1] <| .ok (.axchg (reg 64 w 18) (reg 64 w 12) (reg 64 w 6) (flag w 0))
  | 6 => zero [fld w 2 1] <| .ok (.acas (reg 64 w 18) (reg 64 w 12) (reg 64 w 6) (flag w 0))
  | 7 => zero [fld w 2 0] <| .ok (.afadd (reg 64 w 18) (reg 64 w 12) (reg 64 w 6))
  | _ => .error .unassignedMember

/-- The members of Stat, OP 0x5B (R82, R84). -/
def decodeStat (w : Nat) : Except DecodeError Instr :=
  match fld w 7 4 with
  | 0 => zero [fld w 17 8] <| below 5 (fld w 3 0) fun e => .ok (.sstat (reg 64 w 18) e)
  | 1 => zero [fld w 17 8] <| below 5 (fld w 3 0) fun e => .ok (.mstat (reg 64 w 18) e)
  | 2 => zero [fld w 17 8] <| below 4 (fld w 3 0) fun e => .ok (.cstat (reg 64 w 18) e)
  | 3 => zero [fld w 17 8] <| below 8 (fld w 3 0) fun e => .ok (.txstat (reg 64 w 18) e)
  | 4 => zero [fld w 3 0, fld w 17 8] <| .ok (.stepr (reg 64 w 18))
  | _ => .error .unassignedMember

/-- The members of Bar, OP 0x5C (R82, R84). -/
def decodeBar (w : Nat) : Except DecodeError Instr :=
  match fld w 1 0 with
  | 0 => zero [fld w 11 2] <| .ok (.barm (reg 64 w 18) (reg 64 w 12))
  | 1 => zero [fld w 11 2] <| .ok (.barv (reg 64 w 18) (reg 64 w 12))
  | 2 => zero [fld w 11 2] <| .ok (.bars (reg 64 w 18) (reg 64 w 12))
  | _ => .error .unassignedMember

/-- The members of Vun, OP 0x66 (R82, R84). -/
def decodeVun (w : Nat) : Except DecodeError Instr :=
  match fld w 11 6 with
  | 0 => zero [fld w 17 17, fld w 23 23] <| withCode (LaneT.ofCode (fld w 2 0)) fun t => .ok (.vabs (reg 32 w 18) (reg 32 w 12) (reg 8 w 3) t)
  | 1 => zero [fld w 17 17, fld w 23 23] <| withCode (LaneT.ofCode (fld w 2 0)) fun t => .ok (.vneg (reg 32 w 18) (reg 32 w 12) (reg 8 w 3) t)
  | _ => .error .unassignedMember

/-- The members of Vlog, OP 0x67 (R82, R84). -/
def decodeVlog (w : Nat) : Except DecodeError Instr :=
  match fld w 2 0 with
  | 0 => zero [fld w 11 11, fld w 17 17, fld w 23 23] <| .ok (.vand (reg 32 w 18) (reg 32 w 12) (reg 32 w 6) (reg 8 w 3))
  | 1 => zero [fld w 11 11, fld w 17 17, fld w 23 23] <| .ok (.vor (reg 32 w 18) (reg 32 w 12) (reg 32 w 6) (reg 8 w 3))
  | 2 => zero [fld w 11 11, fld w 17 17, fld w 23 23] <| .ok (.vxor (reg 32 w 18) (reg 32 w 12) (reg 32 w 6) (reg 8 w 3))
  | 3 => zero [fld w 11 6, fld w 17 17, fld w 23 23] <| .ok (.vnot (reg 32 w 18) (reg 32 w 12) (reg 8 w 3))
  | _ => .error .unassignedMember

/-- The members of Vred, OP 0x71 (R82, R84). -/
def decodeVred (w : Nat) : Except DecodeError Instr :=
  match fld w 5 3 with
  | 0 => zero [fld w 11 9, fld w 17 17] <| withCode (LaneT.ofCode (fld w 2 0)) fun t => .ok (.vredAdd (reg 64 w 18) (reg 32 w 12) (reg 8 w 6) t)
  | 1 => zero [fld w 11 9, fld w 17 17] <| withCode (LaneT.ofCode (fld w 2 0)) fun t => .ok (.vredMax (reg 64 w 18) (reg 32 w 12) (reg 8 w 6) t)
  | 2 => zero [fld w 11 9, fld w 17 17] <| withCode (LaneT.ofCode (fld w 2 0)) fun t => .ok (.vredMin (reg 64 w 18) (reg 32 w 12) (reg 8 w 6) t)
  | 3 => zero [fld w 11 9, fld w 17 17, fld w 23 23] <| withCode (LaneT.ofCode (fld w 2 0)) fun t => .ok (.vscanAdd (reg 32 w 18) (reg 32 w 12) (reg 8 w 6) t)
  | 4 => zero [fld w 11 9, fld w 17 17] <| withCode (LaneT.ofCode (fld w 2 0)) fun t => .ok (.vamax (reg 64 w 18) (reg 32 w 12) (reg 8 w 6) t)
  | _ => .error .unassignedMember

/-- The slot as an instruction, before the checks that tie fields together. -/
def decodeRaw (w : Nat) : Except DecodeError Instr :=
  match fld w 30 24 with
  | 0x00 => zero [fld w 23 0] <| .ok (.nop)
  | 0x01 => decodeAlu w
  | 0x02 => decodeCmp w
  | 0x03 => decodeCmpi w
  | 0x04 => decodePlog w
  | 0x05 => zero [fld w 5 3] <| .ok (.sel (reg 64 w 18) (reg 64 w 12) (reg 64 w 6) (reg 8 w 0))
  | 0x06 => decodePtr w
  | 0x07 => .ok (.addi (reg 64 w 18) (reg 64 w 12) (BitVec.ofNat 12 (fld w 11 0)))
  | 0x08 => .ok (.andi (reg 64 w 18) (reg 64 w 12) (BitVec.ofNat 12 (fld w 11 0)))
  | 0x09 => .ok (.ori (reg 64 w 18) (reg 64 w 12) (BitVec.ofNat 12 (fld w 11 0)))
  | 0x0A => .ok (.xori (reg 64 w 18) (reg 64 w 12) (BitVec.ofNat 12 (fld w 11 0)))
  | 0x0B => decodeShi w
  | 0x0C => .ok (.limm (reg 64 w 18) (BitVec.ofNat 18 (fld w 17 0)))
  | 0x0D => .ok (.lsh18 (reg 64 w 18) (BitVec.ofNat 18 (fld w 17 0)))
  | 0x0E => zero [fld w 23 12] <| .ok (.tchk (BitVec.ofNat 12 (fld w 11 0)))
  | 0x10 => decodeMuldiv w
  | 0x11 => zero [fld w 5 0] <| .ok (.rfac (reg 64 w 18) (reg 64 w 12) (reg 64 w 6))
  | 0x18 => .ok (.br (reg 8 w 21) (flag w 20) (BitVec.ofNat 20 (fld w 19 0)))
  | 0x19 => .ok (.brl (reg 8 w 21) (flag w 20) (BitVec.ofNat 20 (fld w 19 0)))
  | 0x1A => zero [fld w 11 0, fld w 19 18] <| .ok (.jr (reg 8 w 21) (flag w 20) (reg 64 w 12))
  | 0x1B => zero [fld w 19 4] <| .ok (.mbr (reg 8 w 21) (flag w 20) (reg 16 w 0))
  | 0x1C => .ok (.loop (reg 4 w 22) (reg 64 w 16) (BitVec.ofNat 16 (fld w 15 0)))
  | 0x1D => .ok (.loopi (reg 4 w 22) (BitVec.ofNat 12 (fld w 21 10)) (BitVec.ofNat 10 (fld w 9 0)))
  | 0x1E => decodeCtl w
  | 0x1F => zero [fld w 23 8] <| .ok (.trap (BitVec.ofNat 8 (fld w 7 0)))
  | 0x20 => zero [fld w 23 12] <| .ok (.txabort (BitVec.ofNat 12 (fld w 11 0)))
  | 0x21 => zero [fld w 17 12] <| .ok (.rdc (reg 64 w 18) (BitVec.ofNat 12 (fld w 11 0)))
  | 0x22 => zero [fld w 23 18] <| .ok (.wrc (reg 64 w 12) (BitVec.ofNat 12 (fld w 11 0)))
  | 0x23 => zero [fld w 11 0] <| .ok (.snapr (reg 64 w 18) (reg 64 w 12))
  | 0x24 => zero [fld w 17 12] <| .ok (.waitk (reg 64 w 18) (BitVec.ofNat 12 (fld w 11 0)))
  | 0x25 => .ok (.fence (reg 64 w 18) (reg 64 w 12) (reg 64 w 6) (reg 64 w 0))
  | 0x26 => zero [fld w 17 0] <| .ok (.barw (reg 64 w 18))
  | 0x27 => zero [fld w 17 0] <| .ok (.barvw (reg 64 w 18))
  | 0x28 => .ok (.ldS8 (reg 64 w 18) (reg 64 w 12) (BitVec.ofNat 12 (fld w 11 0)))
  | 0x29 => .ok (.ldZ8 (reg 64 w 18) (reg 64 w 12) (BitVec.ofNat 12 (fld w 11 0)))
  | 0x2A => .ok (.ldS16 (reg 64 w 18) (reg 64 w 12) (BitVec.ofNat 12 (fld w 11 0)))
  | 0x2B => .ok (.ldZ16 (reg 64 w 18) (reg 64 w 12) (BitVec.ofNat 12 (fld w 11 0)))
  | 0x2C => .ok (.ldS32 (reg 64 w 18) (reg 64 w 12) (BitVec.ofNat 12 (fld w 11 0)))
  | 0x2D => .ok (.ldZ32 (reg 64 w 18) (reg 64 w 12) (BitVec.ofNat 12 (fld w 11 0)))
  | 0x2E => .ok (.ld64 (reg 64 w 18) (reg 64 w 12) (BitVec.ofNat 12 (fld w 11 0)))
  | 0x2F => decodeAtom w
  | 0x30 => .ok (.st8 (reg 64 w 18) (reg 64 w 12) (BitVec.ofNat 12 (fld w 11 0)))
  | 0x31 => .ok (.st16 (reg 64 w 18) (reg 64 w 12) (BitVec.ofNat 12 (fld w 11 0)))
  | 0x32 => .ok (.st32 (reg 64 w 18) (reg 64 w 12) (BitVec.ofNat 12 (fld w 11 0)))
  | 0x33 => .ok (.st64 (reg 64 w 18) (reg 64 w 12) (BitVec.ofNat 12 (fld w 11 0)))
  | 0x34 => zero [fld w 11 3, fld w 18 18] <| .ok (.wset (reg 32 w 19) (reg 64 w 12) (reg 8 w 0))
  | 0x35 => zero [fld w 18 18] <| .ok (.wld (reg 32 w 19) (reg 64 w 12) (BitVec.ofNat 12 (fld w 11 0)))
  | 0x36 => zero [fld w 18 18] <| .ok (.wst (reg 32 w 19) (reg 64 w 12) (BitVec.ofNat 12 (fld w 11 0)))
  | 0x37 => zero [fld w 13 0] <| .ok (.wcopy (reg 32 w 19) (reg 32 w 14))
  | 0x38 => below 2 (fld w 1 0) fun m => .ok (.smov (reg 32 w 19) (reg 32 w 14) (reg 64 w 8) (reg 64 w 2) m)
  | 0x39 => below 2 (fld w 1 0) fun m => .ok (.smc (reg 32 w 19) (reg 32 w 14) (reg 64 w 8) (reg 64 w 2) m)
  | 0x3A => below 2 (fld w 1 0) fun m => .ok (.sgat2 (reg 32 w 19) (reg 32 w 14) (reg 64 w 8) (reg 64 w 2) m)
  | 0x3B => below 2 (fld w 1 0) fun m => .ok (.sexp (reg 32 w 19) (reg 32 w 14) (reg 64 w 8) (reg 64 w 2) m)
  | 0x3C => below 2 (fld w 1 0) fun m => .ok (.sdec (reg 32 w 19) (reg 32 w 14) (reg 64 w 8) (reg 64 w 2) m)
  | 0x3D => below 2 (fld w 1 0) fun m => .ok (.sport (reg 32 w 19) (reg 32 w 14) (reg 64 w 8) (reg 64 w 2) m)
  | 0x3E => below 2 (fld w 1 0) fun m => .ok (.sring (reg 32 w 19) (reg 32 w 14) (reg 64 w 8) (reg 64 w 2) m)
  | 0x3F => zero [fld w 11 0, fld w 18 18] <| .ok (.srel (reg 32 w 19) (reg 64 w 12))
  | 0x40 => zero [fld w 23 0] <| .ok (.sbar)
  | 0x41 => .ok (.tok (reg 64 w 18) (reg 64 w 12) (BitVec.ofNat 12 (fld w 11 0)))
  | 0x42 => zero [fld w 11 0] <| .ok (.tdsync (reg 64 w 18) (reg 64 w 12))
  | 0x43 => .ok (.mmaBf16 (reg 4 w 22) (reg 32 w 17) (reg 32 w 12) (reg 64 w 6) (reg 64 w 0))
  | 0x44 => .ok (.mmaFp16 (reg 4 w 22) (reg 32 w 17) (reg 32 w 12) (reg 64 w 6) (reg 64 w 0))
  | 0x45 => .ok (.mmaE4m3 (reg 4 w 22) (reg 32 w 17) (reg 32 w 12) (reg 64 w 6) (reg 64 w 0))
  | 0x46 => .ok (.mmaE5m2 (reg 4 w 22) (reg 32 w 17) (reg 32 w 12) (reg 64 w 6) (reg 64 w 0))
  | 0x47 => zero [fld w 23 23] <| .ok (.mmbMxfp8e4 (reg 2 w 22) (reg 32 w 17) (reg 32 w 12) (reg 64 w 6) (reg 64 w 0))
  | 0x48 => zero [fld w 23 23] <| .ok (.mmbMxfp8e5 (reg 2 w 22) (reg 32 w 17) (reg 32 w 12) (reg 64 w 6) (reg 64 w 0))
  | 0x49 => zero [fld w 23 23] <| .ok (.mmbMxfp4 (reg 2 w 22) (reg 32 w 17) (reg 32 w 12) (reg 64 w 6) (reg 64 w 0))
  | 0x4A => zero [fld w 23 23] <| .ok (.mmbMxint8 (reg 2 w 22) (reg 32 w 17) (reg 32 w 12) (reg 64 w 6) (reg 64 w 0))
  | 0x4B => zero [fld w 23 23] <| .ok (.mmbFk8 (reg 2 w 22) (reg 32 w 17) (reg 32 w 12) (reg 64 w 6) (reg 64 w 0))
  | 0x4C => zero [fld w 23 23] <| .ok (.mmbFk4 (reg 2 w 22) (reg 32 w 17) (reg 32 w 12) (reg 64 w 6) (reg 64 w 0))
  | 0x4D => .ok (.sac (reg 4 w 22) (reg 32 w 17) (reg 32 w 12) (reg 64 w 6) (reg 64 w 0))
  | 0x4E => zero [fld w 20 12] <| .ok (.zacc (reg 4 w 22) (flag w 21) (reg 64 w 6) (reg 64 w 0))
  | 0x4F => zero [fld w 16 12] <| .ok (.ldacc (reg 4 w 22) (reg 32 w 17) (reg 64 w 6) (reg 64 w 0))
  | 0x50 => zero [fld w 13 12] <| withCode (Rm.ofCode (fld w 16 15)) fun r => .ok (.drain (reg 4 w 22) (reg 32 w 17) r (flag w 14) (reg 64 w 6) (reg 64 w 0))
  | 0x51 => zero [fld w 9 0] <| .ok (.amaxr (reg 64 w 18) (reg 4 w 16) (reg 64 w 10))
  | 0x52 => zero [fld w 9 0] <| .ok (.amaxc (reg 64 w 18) (reg 4 w 16) (reg 64 w 10))
  | 0x53 => zero [fld w 11 0] <| below 12 (fld w 23 20) fun c => .ok (.cld c (BitVec.ofNat 4 (fld w 19 16)) (reg 64 w 12))
  | 0x54 => zero [fld w 11 0] <| below 12 (fld w 23 20) fun c => .ok (.cst c (BitVec.ofNat 4 (fld w 19 16)) (reg 64 w 12))
  | 0x55 => zero [fld w 15 0] <| .ok (.cctx (reg 4 w 22) (reg 64 w 16))
  | 0x56 => zero [fld w 15 12] <| below 12 (fld w 23 20) fun c => .ok (.cwhorl c (BitVec.ofNat 4 (fld w 19 16)) (reg 64 w 6) (reg 64 w 0))
  | 0x57 => zero [fld w 3 0] <| below 12 (fld w 18 15) fun c => below 12 (fld w 8 4) fun p => .ok (.cparam (reg 32 w 19) c (reg 64 w 9) p)
  | 0x58 => zero [fld w 11 0] <| below 12 (fld w 23 20) fun f => below 12 (fld w 19 16) fun b => .ok (.cadj f b (BitVec.ofNat 4 (fld w 15 12)))
  | 0x59 => zero [fld w 11 0, fld w 18 18] <| .ok (.ctab (reg 32 w 19) (reg 64 w 12))
  | 0x5A => zero [fld w 19 6] <| .ok (.cdrain (BitVec.ofNat 4 (fld w 23 20)) (reg 64 w 0))
  | 0x5B => decodeStat w
  | 0x5C => decodeBar w
  | 0x5D => zero [fld w 11 0, fld w 23 18] <| .ok (.stepadv (reg 64 w 12))
  | 0x5E => zero [fld w 23 18] <| .ok (.esc (reg 64 w 12) (BitVec.ofNat 12 (fld w 11 0)))
  | 0x5F => zero [fld w 5 0] <| .ok (.qlaunch (reg 64 w 18) (reg 64 w 12) (reg 64 w 6))
  | 0x60 => zero [fld w 11 11, fld w 17 17, fld w 23 23] <| withCode (LaneT.ofCode (fld w 2 0)) fun t => .ok (.vadd (reg 32 w 18) (reg 32 w 12) (reg 32 w 6) (reg 8 w 3) t)
  | 0x61 => zero [fld w 11 11, fld w 17 17, fld w 23 23] <| withCode (LaneT.ofCode (fld w 2 0)) fun t => .ok (.vsub (reg 32 w 18) (reg 32 w 12) (reg 32 w 6) (reg 8 w 3) t)
  | 0x62 => zero [fld w 11 11, fld w 17 17, fld w 23 23] <| withCode (LaneT.ofCode (fld w 2 0)) fun t => .ok (.vmul (reg 32 w 18) (reg 32 w 12) (reg 32 w 6) (reg 8 w 3) t)
  | 0x63 => zero [fld w 11 11, fld w 17 17, fld w 23 23] <| withCode (LaneT.ofCode (fld w 2 0)) fun t => .ok (.vfma (reg 32 w 18) (reg 32 w 12) (reg 32 w 6) (reg 8 w 3) t)
  | 0x64 => zero [fld w 11 11, fld w 17 17, fld w 23 23] <| withCode (LaneT.ofCode (fld w 2 0)) fun t => .ok (.vmin (reg 32 w 18) (reg 32 w 12) (reg 32 w 6) (reg 8 w 3) t)
  | 0x65 => zero [fld w 11 11, fld w 17 17, fld w 23 23] <| withCode (LaneT.ofCode (fld w 2 0)) fun t => .ok (.vmax (reg 32 w 18) (reg 32 w 12) (reg 32 w 6) (reg 8 w 3) t)
  | 0x66 => decodeVun w
  | 0x67 => decodeVlog w
  | 0x68 => zero [fld w 11 11, fld w 17 17, fld w 23 23] <| withCode (LaneT.ofCode (fld w 2 0)) fun t => .ok (.vshl (reg 32 w 18) (reg 32 w 12) (reg 32 w 6) (reg 8 w 3) t)
  | 0x69 => zero [fld w 11 11, fld w 17 17, fld w 23 23] <| withCode (LaneT.ofCode (fld w 2 0)) fun t => .ok (.vshr (reg 32 w 18) (reg 32 w 12) (reg 32 w 6) (reg 8 w 3) t)
  | 0x6A => zero [fld w 11 11, fld w 17 17, fld w 23 23] <| withCode (LaneT.ofCode (fld w 2 0)) fun t => .ok (.vsra (reg 32 w 18) (reg 32 w 12) (reg 32 w 6) (reg 8 w 3) t)
  | 0x6B => zero [fld w 11 11, fld w 17 17, fld w 23 21] <| withCode (VCond.ofCode (fld w 5 3)) fun c => withCode (LaneT.ofCode (fld w 2 0)) fun t => .ok (.vcmp (reg 8 w 18) (reg 32 w 12) (reg 32 w 6) c t)
  | 0x6C => zero [fld w 2 0, fld w 11 11, fld w 17 17, fld w 23 23] <| .ok (.vsel (reg 32 w 18) (reg 32 w 12) (reg 32 w 6) (reg 8 w 3))
  | 0x6D => zero [fld w 11 6, fld w 23 23] <| withCode (LaneT.ofCode (fld w 2 0)) fun t => .ok (.vbcast (reg 32 w 18) (reg 64 w 12) (reg 8 w 3) t)
  | 0x6E => zero [fld w 5 3, fld w 17 17] <| withCode (LaneT.ofCode (fld w 2 0)) fun t => .ok (.vext (reg 64 w 18) (reg 32 w 12) (reg 64 w 6) t)
  | 0x6F => zero [fld w 2 0, fld w 11 11, fld w 17 17, fld w 23 23] <| .ok (.vperm (reg 32 w 18) (reg 32 w 12) (reg 32 w 6) (reg 8 w 3))
  | 0x70 => zero [fld w 11 11, fld w 17 17, fld w 23 23] <| withCode (ShufPat.ofCode (fld w 5 3)) fun p => withCode (LaneT.ofCode (fld w 2 0)) fun t => .ok (.vshuf (reg 32 w 18) (reg 32 w 12) (reg 32 w 6) p t)
  | 0x71 => decodeVred w
  | 0x72 => zero [fld w 17 17, fld w 23 23] <| withCode (CvtT.ofCode (fld w 11 9)) fun u => withCode (CvtT.ofCode (fld w 8 6)) fun y => withCode (Rm.ofCode (fld w 5 4)) fun r => .ok (.vcvt (reg 32 w 18) (reg 32 w 12) u y r (flag w 3) (reg 8 w 0))
  | 0x73 => zero [fld w 2 0, fld w 11 6, fld w 23 23] <| .ok (.vrng (reg 32 w 18) (reg 64 w 12) (reg 8 w 3))
  | 0x74 => zero [fld w 23 23] <| .ok (.vld (reg 32 w 18) (reg 64 w 12) (BitVec.ofNat 12 (fld w 11 0)))
  | 0x75 => zero [fld w 23 23] <| .ok (.vst (reg 32 w 18) (reg 64 w 12) (BitVec.ofNat 12 (fld w 11 0)))
  | 0x76 => zero [fld w 2 0, fld w 11 11, fld w 23 23] <| .ok (.vldg (reg 32 w 18) (reg 64 w 12) (reg 32 w 6) (reg 8 w 3))
  | 0x77 => zero [fld w 2 0, fld w 11 11, fld w 23 23] <| .ok (.vsts (reg 32 w 18) (reg 64 w 12) (reg 32 w 6) (reg 8 w 3))
  | _ => .error .unassignedOp

/-- The instruction a slot holds (check 3 of R86 for one slot). -/
def decodeSlot (w : Nat) : Except DecodeError Instr :=
  match decodeRaw w with
  | .error e => .error e
  | .ok i => if i.wellFormed then .ok i else .error .illFormed

/-- The stop bit of a slot, R76. -/
def stopBit (w : Nat) : Bool := flag w 31

/-- The first slot of a run of bytes: its word is little-endian (R76). -/
def decodeBytes : List Byte → Except DecodeError Instr
  | a :: b :: c :: d :: _ => decodeSlot (leNat [a, b, c, d])
  | _ => .error .truncated

/-- The instruction the decoder reads from a slot given by its bits. -/
def decodeTableWord (nbits w : Nat) : Option Instr :=
  match decodeBytes (leBytes 4 (w % 2 ^ nbits)) with
  | .ok i => some i
  | .error _ => none

/-- A flag as a field. -/
def bitOf (b : Bool) : Nat := if b then 1 else 0

/-- A word with fields put at their bit positions. -/
def pack (m : Nat) : List (Nat × Nat) → Nat
  | [] => m
  | (x, lo) :: r => x * 2 ^ lo + pack m r

/-- The body and opcode of an instruction as a slot with S clear (R76 to R85); a step without an encoding has none. -/
def encode : Instr → Option Nat
  | .nop => some (pack 0x00000000 [])
  | .add d a b => some (pack 0x01000000 [(d.val, 18), (a.val, 12), (b.val, 6)])
  | .sub d a b => some (pack 0x01000001 [(d.val, 18), (a.val, 12), (b.val, 6)])
  | .and d a b => some (pack 0x01000002 [(d.val, 18), (a.val, 12), (b.val, 6)])
  | .or d a b => some (pack 0x01000003 [(d.val, 18), (a.val, 12), (b.val, 6)])
  | .xor d a b => some (pack 0x01000004 [(d.val, 18), (a.val, 12), (b.val, 6)])
  | .shl d a b => some (pack 0x01000005 [(d.val, 18), (a.val, 12), (b.val, 6)])
  | .shr d a b => some (pack 0x01000006 [(d.val, 18), (a.val, 12), (b.val, 6)])
  | .sra d a b => some (pack 0x01000007 [(d.val, 18), (a.val, 12), (b.val, 6)])
  | .minS d a b => some (pack 0x01000008 [(d.val, 18), (a.val, 12), (b.val, 6)])
  | .minZ d a b => some (pack 0x01000009 [(d.val, 18), (a.val, 12), (b.val, 6)])
  | .maxS d a b => some (pack 0x0100000A [(d.val, 18), (a.val, 12), (b.val, 6)])
  | .maxZ d a b => some (pack 0x0100000B [(d.val, 18), (a.val, 12), (b.val, 6)])
  | .clz d a => some (pack 0x0100000C [(d.val, 18), (a.val, 12)])
  | .ctz d a => some (pack 0x0100000D [(d.val, 18), (a.val, 12)])
  | .popc d a => some (pack 0x0100000E [(d.val, 18), (a.val, 12)])
  | .cmpEq p a b => some (pack 0x02000000 [(p.val, 18), (a.val, 12), (b.val, 6)])
  | .cmpNe p a b => some (pack 0x02000001 [(p.val, 18), (a.val, 12), (b.val, 6)])
  | .cmpLtS p a b => some (pack 0x02000002 [(p.val, 18), (a.val, 12), (b.val, 6)])
  | .cmpLtZ p a b => some (pack 0x02000003 [(p.val, 18), (a.val, 12), (b.val, 6)])
  | .cmpLeS p a b => some (pack 0x02000004 [(p.val, 18), (a.val, 12), (b.val, 6)])
  | .cmpLeZ p a b => some (pack 0x02000005 [(p.val, 18), (a.val, 12), (b.val, 6)])
  | .cmpEqImm p a i => some (pack 0x03000000 [(p.val, 18), (a.val, 12), (i.toNat, 0)])
  | .cmpNeImm p a i => some (pack 0x03200000 [(p.val, 18), (a.val, 12), (i.toNat, 0)])
  | .cmpLtSImm p a i => some (pack 0x03400000 [(p.val, 18), (a.val, 12), (i.toNat, 0)])
  | .cmpLtZImm p a i => some (pack 0x03600000 [(p.val, 18), (a.val, 12), (i.toNat, 0)])
  | .cmpLeSImm p a i => some (pack 0x03800000 [(p.val, 18), (a.val, 12), (i.toNat, 0)])
  | .cmpLeZImm p a i => some (pack 0x03A00000 [(p.val, 18), (a.val, 12), (i.toNat, 0)])
  | .pand p q r => some (pack 0x04000000 [(p.val, 18), (q.val, 12), (r.val, 6)])
  | .por p q r => some (pack 0x04000001 [(p.val, 18), (q.val, 12), (r.val, 6)])
  | .pxor p q r => some (pack 0x04000002 [(p.val, 18), (q.val, 12), (r.val, 6)])
  | .pnot p q => some (pack 0x04000003 [(p.val, 18), (q.val, 12)])
  | .sel d a b p => some (pack 0x05000000 [(d.val, 18), (a.val, 12), (b.val, 6), (p.val, 0)])
  | .ptag d a b => some (pack 0x06000000 [(d.val, 18), (a.val, 12), (b.val, 6)])
  | .pspace d a b => some (pack 0x06000001 [(d.val, 18), (a.val, 12), (b.val, 6)])
  | .poff d a b => some (pack 0x06000002 [(d.val, 18), (a.val, 12), (b.val, 6)])
  | .padd d a b => some (pack 0x06000003 [(d.val, 18), (a.val, 12), (b.val, 6)])
  | .addi d a i => some (pack 0x07000000 [(d.val, 18), (a.val, 12), (i.toNat, 0)])
  | .andi d a i => some (pack 0x08000000 [(d.val, 18), (a.val, 12), (i.toNat, 0)])
  | .ori d a i => some (pack 0x09000000 [(d.val, 18), (a.val, 12), (i.toNat, 0)])
  | .xori d a i => some (pack 0x0A000000 [(d.val, 18), (a.val, 12), (i.toNat, 0)])
  | .shli d a h => some (pack 0x0B000000 [(d.val, 18), (a.val, 12), (h.val, 0)])
  | .shri d a h => some (pack 0x0B000040 [(d.val, 18), (a.val, 12), (h.val, 0)])
  | .srai d a h => some (pack 0x0B000080 [(d.val, 18), (a.val, 12), (h.val, 0)])
  | .limm d i => some (pack 0x0C000000 [(d.val, 18), (i.toNat, 0)])
  | .lsh18 d i => some (pack 0x0D000000 [(d.val, 18), (i.toNat, 0)])
  | .tchk n => some (pack 0x0E000000 [(n.toNat, 0)])
  | .mul d a b => some (pack 0x10000000 [(d.val, 18), (a.val, 12), (b.val, 6)])
  | .mulhS d a b => some (pack 0x10000001 [(d.val, 18), (a.val, 12), (b.val, 6)])
  | .mulhZ d a b => some (pack 0x10000002 [(d.val, 18), (a.val, 12), (b.val, 6)])
  | .divS d a b => some (pack 0x10000003 [(d.val, 18), (a.val, 12), (b.val, 6)])
  | .divZ d a b => some (pack 0x10000004 [(d.val, 18), (a.val, 12), (b.val, 6)])
  | .remS d a b => some (pack 0x10000005 [(d.val, 18), (a.val, 12), (b.val, 6)])
  | .remZ d a b => some (pack 0x10000006 [(d.val, 18), (a.val, 12), (b.val, 6)])
  | .rfac d a b => some (pack 0x11000000 [(d.val, 18), (a.val, 12), (b.val, 6)])
  | .br p g o => some (pack 0x18000000 [(p.val, 21), (bitOf g, 20), (o.toNat, 0)])
  | .brl p g o => some (pack 0x19000000 [(p.val, 21), (bitOf g, 20), (o.toNat, 0)])
  | .jr p g a => some (pack 0x1A000000 [(p.val, 21), (bitOf g, 20), (a.val, 12)])
  | .mbr p g m => some (pack 0x1B000000 [(p.val, 21), (bitOf g, 20), (m.val, 0)])
  | .loop c a e => some (pack 0x1C000000 [(c.val, 22), (a.val, 16), (e.toNat, 0)])
  | .loopi c n e => some (pack 0x1D000000 [(c.val, 22), (n.toNat, 10), (e.toNat, 0)])
  | .halt => some (pack 0x1E000000 [])
  | .syncg => some (pack 0x1E000001 [])
  | .endK => some (pack 0x1E000002 [])
  | .eret => some (pack 0x1E000003 [])
  | .cyc d => some (pack 0x1E000004 [(d.val, 18)])
  | .gcyc d => some (pack 0x1E000005 [(d.val, 18)])
  | .trap n => some (pack 0x1F000000 [(n.toNat, 0)])
  | .txabort c => some (pack 0x20000000 [(c.toNat, 0)])
  | .rdc d r => some (pack 0x21000000 [(d.val, 18), (r.toNat, 0)])
  | .wrc a r => some (pack 0x22000000 [(a.val, 12), (r.toNat, 0)])
  | .snapr d a => some (pack 0x23000000 [(d.val, 18), (a.val, 12)])
  | .waitk k n => some (pack 0x24000000 [(k.val, 18), (n.toNat, 0)])
  | .fence a b c d => some (pack 0x25000000 [(a.val, 18), (b.val, 12), (c.val, 6), (d.val, 0)])
  | .barw b => some (pack 0x26000000 [(b.val, 18)])
  | .barvw b => some (pack 0x27000000 [(b.val, 18)])
  | .ldS8 d b i => some (pack 0x28000000 [(d.val, 18), (b.val, 12), (i.toNat, 0)])
  | .ldZ8 d b i => some (pack 0x29000000 [(d.val, 18), (b.val, 12), (i.toNat, 0)])
  | .ldS16 d b i => some (pack 0x2A000000 [(d.val, 18), (b.val, 12), (i.toNat, 0)])
  | .ldZ16 d b i => some (pack 0x2B000000 [(d.val, 18), (b.val, 12), (i.toNat, 0)])
  | .ldS32 d b i => some (pack 0x2C000000 [(d.val, 18), (b.val, 12), (i.toNat, 0)])
  | .ldZ32 d b i => some (pack 0x2D000000 [(d.val, 18), (b.val, 12), (i.toNat, 0)])
  | .ld64 d b i => some (pack 0x2E000000 [(d.val, 18), (b.val, 12), (i.toNat, 0)])
  | .aadd d a b w => some (pack 0x2F000000 [(d.val, 18), (a.val, 12), (b.val, 6), (bitOf w, 0)])
  | .aminS d a b w => some (pack 0x2F000008 [(d.val, 18), (a.val, 12), (b.val, 6), (bitOf w, 0)])
  | .amaxS d a b w => some (pack 0x2F000010 [(d.val, 18), (a.val, 12), (b.val, 6), (bitOf w, 0)])
  | .aand d a b w => some (pack 0x2F000018 [(d.val, 18), (a.val, 12), (b.val, 6), (bitOf w, 0)])
  | .aor d a b w => some (pack 0x2F000020 [(d.val, 18), (a.val, 12), (b.val, 6), (bitOf w, 0)])
  | .axchg d a b w => some (pack 0x2F000028 [(d.val, 18), (a.val, 12), (b.val, 6), (bitOf w, 0)])
  | .acas d a b w => some (pack 0x2F000030 [(d.val, 18), (a.val, 12), (b.val, 6), (bitOf w, 0)])
  | .afadd d a b => some (pack 0x2F000038 [(d.val, 18), (a.val, 12), (b.val, 6)])
  | .st8 v b i => some (pack 0x30000000 [(v.val, 18), (b.val, 12), (i.toNat, 0)])
  | .st16 v b i => some (pack 0x31000000 [(v.val, 18), (b.val, 12), (i.toNat, 0)])
  | .st32 v b i => some (pack 0x32000000 [(v.val, 18), (b.val, 12), (i.toNat, 0)])
  | .st64 v b i => some (pack 0x33000000 [(v.val, 18), (b.val, 12), (i.toNat, 0)])
  | .wset w a o => some (pack 0x34000000 [(w.val, 19), (a.val, 12), (o.val, 0)])
  | .wld w b i => some (pack 0x35000000 [(w.val, 19), (b.val, 12), (i.toNat, 0)])
  | .wst w b i => some (pack 0x36000000 [(w.val, 19), (b.val, 12), (i.toNat, 0)])
  | .wcopy d e => some (pack 0x37000000 [(d.val, 19), (e.val, 14)])
  | .smov a b k p m => some (pack 0x38000000 [(a.val, 19), (b.val, 14), (k.val, 8), (p.val, 2), (m.val, 0)])
  | .smc a b k p m => some (pack 0x39000000 [(a.val, 19), (b.val, 14), (k.val, 8), (p.val, 2), (m.val, 0)])
  | .sgat2 a b k p m => some (pack 0x3A000000 [(a.val, 19), (b.val, 14), (k.val, 8), (p.val, 2), (m.val, 0)])
  | .sexp a b k p m => some (pack 0x3B000000 [(a.val, 19), (b.val, 14), (k.val, 8), (p.val, 2), (m.val, 0)])
  | .sdec a b k p m => some (pack 0x3C000000 [(a.val, 19), (b.val, 14), (k.val, 8), (p.val, 2), (m.val, 0)])
  | .sport a b k p m => some (pack 0x3D000000 [(a.val, 19), (b.val, 14), (k.val, 8), (p.val, 2), (m.val, 0)])
  | .sring a b k p m => some (pack 0x3E000000 [(a.val, 19), (b.val, 14), (k.val, 8), (p.val, 2), (m.val, 0)])
  | .srel w a => some (pack 0x3F000000 [(w.val, 19), (a.val, 12)])
  | .sbar => some (pack 0x40000000 [])
  | .tok k a n => some (pack 0x41000000 [(k.val, 18), (a.val, 12), (n.toNat, 0)])
  | .tdsync k a => some (pack 0x42000000 [(k.val, 18), (a.val, 12)])
  | .mmaBf16 p a b k d => some (pack 0x43000000 [(p.val, 22), (a.val, 17), (b.val, 12), (k.val, 6), (d.val, 0)])
  | .mmaFp16 p a b k d => some (pack 0x44000000 [(p.val, 22), (a.val, 17), (b.val, 12), (k.val, 6), (d.val, 0)])
  | .mmaE4m3 p a b k d => some (pack 0x45000000 [(p.val, 22), (a.val, 17), (b.val, 12), (k.val, 6), (d.val, 0)])
  | .mmaE5m2 p a b k d => some (pack 0x46000000 [(p.val, 22), (a.val, 17), (b.val, 12), (k.val, 6), (d.val, 0)])
  | .mmbMxfp8e4 p a b k d => some (pack 0x47000000 [(p.val, 22), (a.val, 17), (b.val, 12), (k.val, 6), (d.val, 0)])
  | .mmbMxfp8e5 p a b k d => some (pack 0x48000000 [(p.val, 22), (a.val, 17), (b.val, 12), (k.val, 6), (d.val, 0)])
  | .mmbMxfp4 p a b k d => some (pack 0x49000000 [(p.val, 22), (a.val, 17), (b.val, 12), (k.val, 6), (d.val, 0)])
  | .mmbMxint8 p a b k d => some (pack 0x4A000000 [(p.val, 22), (a.val, 17), (b.val, 12), (k.val, 6), (d.val, 0)])
  | .mmbFk8 p a b k d => some (pack 0x4B000000 [(p.val, 22), (a.val, 17), (b.val, 12), (k.val, 6), (d.val, 0)])
  | .mmbFk4 p a b k d => some (pack 0x4C000000 [(p.val, 22), (a.val, 17), (b.val, 12), (k.val, 6), (d.val, 0)])
  | .sac p a b k d => some (pack 0x4D000000 [(p.val, 22), (a.val, 17), (b.val, 12), (k.val, 6), (d.val, 0)])
  | .zacc p k q d => some (pack 0x4E000000 [(p.val, 22), (bitOf k, 21), (q.val, 6), (d.val, 0)])
  | .ldacc p a k d => some (pack 0x4F000000 [(p.val, 22), (a.val, 17), (k.val, 6), (d.val, 0)])
  | .drain p w r t k d => some (pack 0x50000000 [(p.val, 22), (w.val, 17), (r.ctorIdx, 15), (bitOf t, 14), (k.val, 6), (d.val, 0)])
  | .amaxr d p n => some (pack 0x51000000 [(d.val, 18), (p.val, 16), (n.val, 10)])
  | .amaxc d p n => some (pack 0x52000000 [(d.val, 18), (p.val, 16), (n.val, 10)])
  | .cld c r a => some (pack 0x53000000 [(c.val, 20), (r.toNat, 16), (a.val % 16, 12)])
  | .cst c r a => some (pack 0x54000000 [(c.val, 20), (r.toNat, 16), (a.val % 16, 12)])
  | .cctx r a => some (pack 0x55000000 [(r.val, 22), (a.val, 16)])
  | .cwhorl c r k d => some (pack 0x56000000 [(c.val, 20), (r.toNat, 16), (k.val, 6), (d.val, 0)])
  | .cparam u c a p => some (pack 0x57000000 [(u.val, 19), (c.val, 15), (a.val, 9), (p.val, 4)])
  | .cadj f b r => some (pack 0x58000000 [(f.val, 20), (b.val, 16), (r.toNat, 12)])
  | .ctab u a => some (pack 0x59000000 [(u.val, 19), (a.val, 12)])
  | .cdrain r k => some (pack 0x5A000000 [(r.toNat, 20), (k.val, 0)])
  | .sstat d e => some (pack 0x5B000000 [(d.val, 18), (e.val, 0)])
  | .mstat d e => some (pack 0x5B000010 [(d.val, 18), (e.val, 0)])
  | .cstat d e => some (pack 0x5B000020 [(d.val, 18), (e.val, 0)])
  | .txstat d e => some (pack 0x5B000030 [(d.val, 18), (e.val, 0)])
  | .stepr d => some (pack 0x5B000040 [(d.val, 18)])
  | .barm b a => some (pack 0x5C000000 [(b.val, 18), (a.val, 12)])
  | .barv b a => some (pack 0x5C000001 [(b.val, 18), (a.val, 12)])
  | .bars b a => some (pack 0x5C000002 [(b.val, 18), (a.val, 12)])
  | .stepadv a => some (pack 0x5D000000 [(a.val, 12)])
  | .esc b i => some (pack 0x5E000000 [(b.val, 12), (i.toNat, 0)])
  | .qlaunch k a b => some (pack 0x5F000000 [(k.val, 18), (a.val, 12), (b.val, 6)])
  | .vadd d a b m t => some (pack 0x60000000 [(d.val, 18), (a.val, 12), (b.val, 6), (m.val, 3), (t.ctorIdx, 0)])
  | .vsub d a b m t => some (pack 0x61000000 [(d.val, 18), (a.val, 12), (b.val, 6), (m.val, 3), (t.ctorIdx, 0)])
  | .vmul d a b m t => some (pack 0x62000000 [(d.val, 18), (a.val, 12), (b.val, 6), (m.val, 3), (t.ctorIdx, 0)])
  | .vfma d a b m t => some (pack 0x63000000 [(d.val, 18), (a.val, 12), (b.val, 6), (m.val, 3), (t.ctorIdx, 0)])
  | .vmin d a b m t => some (pack 0x64000000 [(d.val, 18), (a.val, 12), (b.val, 6), (m.val, 3), (t.ctorIdx, 0)])
  | .vmax d a b m t => some (pack 0x65000000 [(d.val, 18), (a.val, 12), (b.val, 6), (m.val, 3), (t.ctorIdx, 0)])
  | .vabs d a m t => some (pack 0x66000000 [(d.val, 18), (a.val, 12), (m.val, 3), (t.ctorIdx, 0)])
  | .vneg d a m t => some (pack 0x66000040 [(d.val, 18), (a.val, 12), (m.val, 3), (t.ctorIdx, 0)])
  | .vand d a b m => some (pack 0x67000000 [(d.val, 18), (a.val, 12), (b.val, 6), (m.val, 3)])
  | .vor d a b m => some (pack 0x67000001 [(d.val, 18), (a.val, 12), (b.val, 6), (m.val, 3)])
  | .vxor d a b m => some (pack 0x67000002 [(d.val, 18), (a.val, 12), (b.val, 6), (m.val, 3)])
  | .vnot d a m => some (pack 0x67000003 [(d.val, 18), (a.val, 12), (m.val, 3)])
  | .vshl d a b m t => some (pack 0x68000000 [(d.val, 18), (a.val, 12), (b.val, 6), (m.val, 3), (t.ctorIdx, 0)])
  | .vshr d a b m t => some (pack 0x69000000 [(d.val, 18), (a.val, 12), (b.val, 6), (m.val, 3), (t.ctorIdx, 0)])
  | .vsra d a b m t => some (pack 0x6A000000 [(d.val, 18), (a.val, 12), (b.val, 6), (m.val, 3), (t.ctorIdx, 0)])
  | .vcmp v a b c t => some (pack 0x6B000000 [(v.val, 18), (a.val, 12), (b.val, 6), (c.ctorIdx, 3), (t.ctorIdx, 0)])
  | .vsel d a b m => some (pack 0x6C000000 [(d.val, 18), (a.val, 12), (b.val, 6), (m.val, 3)])
  | .vbcast d a m t => some (pack 0x6D000000 [(d.val, 18), (a.val, 12), (m.val, 3), (t.ctorIdx, 0)])
  | .vext d a n t => some (pack 0x6E000000 [(d.val, 18), (a.val, 12), (n.val, 6), (t.ctorIdx, 0)])
  | .vperm d a b m => some (pack 0x6F000000 [(d.val, 18), (a.val, 12), (b.val, 6), (m.val, 3)])
  | .vshuf d a b p t => some (pack 0x70000000 [(d.val, 18), (a.val, 12), (b.val, 6), (p.ctorIdx, 3), (t.ctorIdx, 0)])
  | .vredAdd d a p t => some (pack 0x71000000 [(d.val, 18), (a.val, 12), (p.val, 6), (t.ctorIdx, 0)])
  | .vredMax d a p t => some (pack 0x71000008 [(d.val, 18), (a.val, 12), (p.val, 6), (t.ctorIdx, 0)])
  | .vredMin d a p t => some (pack 0x71000010 [(d.val, 18), (a.val, 12), (p.val, 6), (t.ctorIdx, 0)])
  | .vscanAdd d a p t => some (pack 0x71000018 [(d.val, 18), (a.val, 12), (p.val, 6), (t.ctorIdx, 0)])
  | .vamax d a p t => some (pack 0x71000020 [(d.val, 18), (a.val, 12), (p.val, 6), (t.ctorIdx, 0)])
  | .vcvt d a u y r q m => some (pack 0x72000000 [(d.val, 18), (a.val, 12), (u.ctorIdx, 9), (y.ctorIdx, 6), (r.ctorIdx, 4), (bitOf q, 3), (m.val, 0)])
  | .vrng d a m => some (pack 0x73000000 [(d.val, 18), (a.val, 12), (m.val, 3)])
  | .vld d b i => some (pack 0x74000000 [(d.val, 18), (b.val, 12), (i.toNat, 0)])
  | .vst d b i => some (pack 0x75000000 [(d.val, 18), (b.val, 12), (i.toNat, 0)])
  | .vldg d a b m => some (pack 0x76000000 [(d.val, 18), (a.val, 12), (b.val, 6), (m.val, 3)])
  | .vsts d a b m => some (pack 0x77000000 [(d.val, 18), (a.val, 12), (b.val, 6), (m.val, 3)])
  | .syncgRelease .. | .waitkRelease .. | .fenceRelease .. | .barwRelease .. | .engineCommandStart .. | .cmdqDispatch ..
  | .streamElementTransfer .. | .ringWordWrite .. | .streamReadDone .. | .streamComplete .. | .tokDelivery .. | .tdsyncDone ..
  | .decoderAssign | .whorlFire .. | .whorlDisarm .. | .cdrainToken .. | .barrierRequestLand .. | .barrierArrivalLand ..
  | .barrierRelease .. | .asyncFaultReport .. | .freezeStop .. | .groupResume .. | .cycleAlarm .. | .headConsider ..
  | .kernelDispatch .. | .groupPlace .. | .groupStart .. | .kernelFinish .. | .commitPass .. | .sweepDone .. | .escapesPerformed ..
  | .versionSettle .. | .abandonedTicketPass .. | .kernelAbort .. | .abortDiscardDone .. | .writeInPlaceStart ..
  | .budgetExpire .. | .qlaunchAppend .. | .urgentPause .. | .pauseStop .. | .urgentReleaseResume .. | .fullSwitch ..
  | .switchSaveDone .. | .restore .. | .gatingStart .. | .gatingDone .. | .tileWake .. | .tileWakeDone .. | .ctxCreate ..
  | .ctxSeal .. | .ctxQuiesce .. | .ctxKill .. | .ctxDestroy .. | .destroyScrubDone .. | .ctxStepWrite .. | .stepWriteDone ..
  | .ctxStepRead .. | .qcfgWrite .. | .qtailWrite .. | .segpoolPush .. | .pgUpdate .. | .pgAdclear .. | .pgWake ..
  | .tqptrHeadWrite .. | .trapRecordWrite .. | .spIdkey .. | .spQuote .. | .spOwner .. | .spSecureCreate .. | .mgmtHalt ..
  | .mgmtResume .. | .startctlList .. | .startctlGo | .rankWrite .. | .portstatRetrain .. | .registerWrite .. | .hostBar2Read ..
  | .hostBar2Write .. | .ualReadRequest .. | .ualWriteRequest .. | .ualAtomicAdd .. | .ualAtomicSwap .. | .ualAtomicCas ..
  | .tokenWindowWrite .. | .remoteTokenLand .. | .remoteErrorResponse .. | .remoteResponseTimeout .. | .hostReadCompletion ..
  | .linkTrained .. | .linkTrainedDegraded .. | .linkTrainingFail .. | .linkError .. | .linkErrorDrained .. | .resetRelease
  | .firmwareVerified .. | .throttle .. | .thermalTrip .. | .powerTrip .. | .storageError .. | .completionTimeout ..
  | .remoteReadResponse .. | .resetAssert | .throttleEnd .. | .crownctlWrite .. => none

/-- The four bytes of a slot with its stop bit (R76). -/
def slotBytes (stop : Bool) (i : Instr) : Option (List Byte) :=
  (encode i).map fun w => leBytes 4 (w + bitOf stop * 2 ^ 31)

end Sys2Proof
end

