-- ==== Sys2Proof/Config.lean ====
section
/-! DEFINITION. What an implementation fixes and the free values: the spec leaves each of these open, so none has a body. -/
namespace Sys2Proof.Config

/-- A fresh value for each `n`: the model applies it to the counter `State.free` wherever the spec says that a value results and not which. -/
opaque freeNat : Nat → Nat

/-- Whether 0 × ∞ plus a quiet NaN signals invalid: R29 takes IEEE 754-2019, which leaves it to the implementation. -/
opaque fmaQuietNanInvalid : Bool

/-- What an integer conversion between types of one width gives for a value outside the destination's range, and whether it sets
SAT: a function of the width, of the destination's signedness, of .sat and of the source's bits, which R34 and R137 leave open (log 33). -/
opaque equalWidthInt : Nat → Bool → Bool → Nat → Nat × Bool

/-- What a Root's or the Crown's read of a byte address at or above 768 GiB gives in a gcy: no memory stands there (R7), and the spec
does not say (log 81). -/
opaque noMemory : Nat → Nat → Byte

/-- The word an image holds at a snapshot entry whose load has not sampled: a function of the group cycle, the tile and the entry, which R333 leaves open
(log 5). -/
opaque unsampledWord : Nat → Nat → Nat → Nat

/-- The stack on which a byte of HBM lies, modulo 12: the spec gives no map from addresses to stacks (R8, log 84). -/
opaque stackOf : Nat → Nat

/-- The 32-byte hash fused into the I/O die, against which the ROM checks the firmware's public key (R393). -/
opaque fusedKeyHash : List Byte

/-- The secret key of the identity of R394, derived from fused secrets and the firmware digest. -/
opaque identitySecret : List Byte → List Byte

/-- Whether the package is a T8-M module, whose power limit is 3,200 W in place of 3,000 W (R1, R403). -/
opaque isModule : Bool

end Sys2Proof.Config
end

