-- ==== Sys2Proof/Machine/Fp.lean ====
section
/-! DEFINITION. Number formats and arithmetic on single values (R15 to R18, R24, R25, R29 to R35), exact over dyadic rationals. -/
namespace Sys2Proof.Machine

/-- The bits of FPSTAT, R46. -/
abbrev Flags := BitVec 6

/-- FPSTAT.NX. -/
def flNX : Flags := 0x01#6
/-- FPSTAT.UF. -/
def flUF : Flags := 0x02#6
/-- FPSTAT.OF. -/
def flOF : Flags := 0x04#6
/-- FPSTAT.NV. -/
def flNV : Flags := 0x08#6
/-- FPSTAT.NB. -/
def flNB : Flags := 0x10#6
/-- FPSTAT.SAT. -/
def flSAT : Flags := 0x20#6

/-- The flag `f` when `b` holds. -/
def flagIf (b : Bool) (f : Flags) : Flags := if b then f else 0#6

/-- Which encodings of a format are special, R17. -/
inductive Special where
  /-- Infinities and NaNs with all-ones exponents (FP32, BF16, FP16, E5M2). -/
  | ieee
  /-- One NaN magnitude of all ones, no infinity (E4M3). -/
  | nanOnly
  /-- No special encodings (E2M1). -/
  | none
deriving DecidableEq, Repr

/-- A floating-point format, R16 to R18. -/
structure FFmt where
  ebits : Nat
  mbits : Nat
  bias : Nat
  special : Special
  /-- Every NaN encoding is quiet (R18, the FP8 formats). -/
  quiet : Bool
deriving DecidableEq, Repr

/-- FP32, R16. -/
def fp32 : FFmt := ⟨8, 23, 127, .ieee, false⟩
/-- BF16, R16. -/
def bf16 : FFmt := ⟨8, 7, 127, .ieee, false⟩
/-- FP16, R16. -/
def fp16 : FFmt := ⟨5, 10, 15, .ieee, false⟩
/-- FP8 E4M3, R16. -/
def e4m3 : FFmt := ⟨4, 3, 7, .nanOnly, true⟩
/-- FP8 E5M2, R16. -/
def e5m2 : FFmt := ⟨5, 2, 15, .ieee, true⟩
/-- FP4 E2M1, R16. -/
def e2m1 : FFmt := ⟨2, 1, 1, .none, true⟩

/-- An exact value: a NaN (signalling or the result of an invalid operation when `sig`), an infinity, or (−1)^neg × m × 2^e. -/
inductive FVal where
  | nan (sig : Bool)
  | inf (neg : Bool)
  | num (neg : Bool) (m : Nat) (e : Int)
deriving DecidableEq, Repr

/-- The code of a format's largest finite magnitude, R16. -/
def FFmt.maxCode (f : FFmt) : Nat :=
  match f.special with
  | .ieee => (2 ^ f.ebits - 1) * 2 ^ f.mbits - 1
  | .nanOnly => 2 ^ (f.ebits + f.mbits) - 2
  | .none => 2 ^ (f.ebits + f.mbits) - 1

/-- The canonical NaN of a format, R18; 0 for a format without one (R33 step 1). -/
def FFmt.canon (f : FFmt) : Nat :=
  match f.special with
  | .ieee => (2 ^ f.ebits - 1) * 2 ^ f.mbits + 2 ^ (f.mbits - 1)
  | .nanOnly => 2 ^ (f.ebits + f.mbits) - 1
  | .none => 0

/-- The sign bit of a format added to a magnitude code. -/
def FFmt.signed (f : FFmt) (neg : Bool) (c : Nat) : Nat := if neg then c + 2 ^ (f.ebits + f.mbits) else c

/-- The exponent of the unit in the last place of the subnormals, R16. -/
def FFmt.qmin (f : FFmt) : Int := 1 - (f.bias : Int) - (f.mbits : Int)

/-- The value an encoding holds, R16 to R18. -/
def FFmt.val (f : FFmt) (c : Nat) : FVal :=
  let neg := c / 2 ^ (f.ebits + f.mbits) % 2 == 1
  let a := c % 2 ^ (f.ebits + f.mbits)
  let m := a % 2 ^ f.mbits
  let ex := a / 2 ^ f.mbits
  if f.maxCode < a then
    if f.special == .ieee && m == 0 then .inf neg
    else .nan (!f.quiet && m < 2 ^ (f.mbits - 1))
  else if ex == 0 then .num neg m f.qmin
  else .num neg (m + 2 ^ f.mbits) (f.qmin + (ex - 1 : Nat))

/-- A magnitude m × 2^e as a count of units 2^q under a rounding mode, and whether the rounding was inexact (R32, R35). -/
def roundUnits (rm : Rm) (rw m : Nat) (e q : Int) : Nat × Bool :=
  if q ≤ e then (m * 2 ^ (e - q).toNat, false)
  else
    let d := (q - e).toNat
    let y := m / 2 ^ d
    let r := m % 2 ^ d
    if r == 0 then (y, false)
    else match rm with
      | .rz => (y, true)
      | .rne => (if 2 ^ (d - 1) < r || (r == 2 ^ (d - 1) && y % 2 == 1) then y + 1 else y, true)
      | .sr => ((m * 2 ^ 32 + rw % 2 ^ 32 * 2 ^ d) / 2 ^ (d + 32), true)

/-- The encoding of an exact value in a format and the flags of R33 (steps 1 to 4); with `.rne` and no saturation the rounding of R29 and R30. -/
def FFmt.round (f : FFmt) (rm : Rm) (sat : Bool) (rw : Nat) (v : FVal) : Nat × Flags :=
  let sat := sat || f.special == .none
  match v with
  | .nan sig => (f.canon, flagIf (sig || f.special == .none) flNV)
  | .inf neg =>
    if sat then (f.signed neg f.maxCode, flSAT)
    else if f.special == .ieee then (f.signed neg (f.maxCode + 1), 0#6)
    else (f.canon, flNV)
  | .num neg m e =>
    if m == 0 then (f.signed neg 0, 0#6)
    else
      let k : Int := (Nat.log2 m : Int) + e
      let q := max (k - f.mbits) f.qmin
      let (y, nx) := roundUnits rm rw m e q
      let c := y + (q - f.qmin).toNat * 2 ^ f.mbits
      if f.maxCode < c then
        let fl := flOF ||| flNX
        if sat then (f.signed neg f.maxCode, fl ||| flSAT)
        else if f.special == .ieee then (f.signed neg (f.maxCode + 1), fl)
        else (f.canon, fl)
      else (f.signed neg c, flagIf nx flNX ||| flagIf (nx && c != 0 && c < 2 ^ f.mbits) flUF)

/-- Rounding of a result to FP32, R15 `rne32`. -/
def rne32 (v : FVal) : Nat × Flags := fp32.round .rne false 0 v

/-- Negation of an exact value. -/
def FVal.neg : FVal → FVal
  | .nan s => .nan s
  | .inf n => .inf !n
  | .num n m e => .num (!n) m e

/-- The magnitude of an exact value. -/
def FVal.abs : FVal → FVal
  | .nan s => .nan s
  | .inf _ => .inf false
  | .num _ m e => .num false m e

/-- The signed integer of units 2^q in a finite value whose exponent is at least `q`. -/
def FVal.units (q : Int) : FVal → Int
  | .num n m e => let u := m * 2 ^ (e - q).toNat; if n then -(u : Int) else u
  | _ => 0

/-- The exact value of a signed integer of units 2^e; zero is +0. -/
def FVal.ofInt (i : Int) (e : Int) : FVal := .num (i < 0) i.natAbs e

/-- Whether a value is a NaN. -/
def FVal.isNan : FVal → Bool
  | .nan _ => true
  | _ => false

/-- Whether a value is a NaN operand that sets NV, R18. -/
def FVal.isSnan : FVal → Bool
  | .nan s => s
  | _ => false

/-- Whether a value is zero. -/
def FVal.isZero : FVal → Bool
  | .num _ m _ => m == 0
  | _ => false

/-- Whether a value is an infinity. -/
def FVal.isInf : FVal → Bool
  | .inf _ => true
  | _ => false

/-- Whether a value carries a minus sign. -/
def FVal.isNeg : FVal → Bool
  | .inf n => n
  | .num n _ _ => n
  | .nan _ => false

/-- The exact sum of two finite values; an exact zero is −0 only when both are (R29). -/
def FVal.addNum (a b : FVal) : FVal :=
  match a, b with
  | .num n m e, .num n' m' e' =>
    let q := min e e'
    let i := a.units q + b.units q
    if i == 0 then .num (n && n' && m == 0 && m' == 0) 0 q else .ofInt i q
  | _, _ => .nan true

/-- The exact sum of a list of terms as one operation: a NaN operand gives a NaN, ∞ − ∞ an invalid NaN (R29, R40, R136). -/
def sumExact (l : List FVal) : FVal :=
  if l.any FVal.isNan then .nan (l.any FVal.isSnan)
  else match l.any (fun v => v.isInf && !v.isNeg), l.any (fun v => v.isInf && v.isNeg) with
    | true, true => .nan true
    | true, false => .inf false
    | false, true => .inf true
    | false, false => match l with
      | [] => .num false 0 0
      | v :: r => r.foldl FVal.addNum v

/-- The exact sum of two values. -/
def FVal.add (a b : FVal) : FVal := sumExact [a, b]

/-- The exact product; 0 × ∞ is invalid (R29). -/
def FVal.mul (a b : FVal) : FVal :=
  if a.isNan || b.isNan then .nan (a.isSnan || b.isSnan)
  else
    let n := a.isNeg != b.isNeg
    match a, b with
    | .num _ m e, .num _ m' e' => .num n (m * m') (e + e')
    | _, _ => if a.isZero || b.isZero then .nan true else .inf n

/-- The exact sum of a term and products as one operation (R29, R40). Whether a product 0 × ∞ signals beside a quiet NaN
operand is the implementation's under IEEE 754-2019 (DESIGN CHOICE, log 12: an opaque flag). -/
def sumProducts (c : FVal) (ps : List (FVal × FVal)) : FVal :=
  let ts := ps.map fun p => p.1.mul p.2
  let operands := c :: ps.flatMap fun p => [p.1, p.2]
  if operands.any FVal.isNan && !operands.any FVal.isSnan && ts.any FVal.isSnan then .nan Config.fmaQuietNanInvalid
  else sumExact (ts ++ [c])

/-- The exact value a × b + c (R29). -/
def FVal.fma (a b c : FVal) : FVal := sumProducts c [(a, b)]

/-- Three-way order of two values that are no NaN, −0 below +0 (R31). -/
def FVal.cmp (a b : FVal) : Ordering :=
  match a, b with
  | .inf n, .inf n' => if n == n' then .eq else if n then .lt else .gt
  | .inf n, _ => if n then .lt else .gt
  | _, .inf n => if n then .gt else .lt
  | .num n m e, .num n' m' e' =>
    if m == 0 && m' == 0 then (if n == n' then .eq else if n then .lt else .gt)
    else
      let q := min e e'
      compare (a.units q) (b.units q)
  | _, _ => .eq

/-- Equality of two values, −0 equal to +0; false on a NaN. -/
def FVal.eqv (a b : FVal) : Bool := !a.isNan && !b.isNan && ((a.isZero && b.isZero) || a.cmp b == .eq)

/-- a < b; false on a NaN, −0 equal to +0. -/
def FVal.ltv (a b : FVal) : Bool := !a.isNan && !b.isNan && !(a.isZero && b.isZero) && a.cmp b == .lt

/-- Addition in a format, R29 and R30. -/
def FFmt.add (f : FFmt) (a b : Nat) : Nat × Flags := f.round .rne false 0 ((f.val a).add (f.val b))

/-- Subtraction in a format, R29 and R30. -/
def FFmt.sub (f : FFmt) (a b : Nat) : Nat × Flags := f.round .rne false 0 ((f.val a).add (f.val b).neg)

/-- Multiplication in a format, R29 and R30. -/
def FFmt.mul (f : FFmt) (a b : Nat) : Nat × Flags := f.round .rne false 0 ((f.val a).mul (f.val b))

/-- Fused a × b + c in a format, one rounding (R29, R30). -/
def FFmt.fma (f : FFmt) (a b c : Nat) : Nat × Flags := f.round .rne false 0 ((f.val a).fma (f.val b) (f.val c))

/-- Whether any of a list of encodings is a signalling NaN. -/
def FFmt.anySnan (f : FFmt) (l : List Nat) : Bool := l.any fun c => (f.val c).isSnan

/-- The encodings of a list that are no NaN. -/
def FFmt.dropNan (f : FFmt) (l : List Nat) : List Nat := l.filter fun c => !(f.val c).isNan

/-- The larger (or, with `least`, smaller) of two encodings that are no NaN. -/
def FFmt.pick (f : FFmt) (least : Bool) (a b : Nat) : Nat :=
  if (f.val a).cmp (f.val b) == (if least then .gt else .lt) then b else a

/-- Minimum or maximum of a list of encodings: NaN members are ignored unless there is nothing else (R31). -/
def FFmt.extreme (f : FFmt) (least : Bool) (l : List Nat) : Nat × Flags :=
  let fl := flagIf (f.anySnan l) flNV
  match f.dropNan l with
  | [] => (f.canon, fl)
  | c :: r => (r.foldl (f.pick least) c, fl)

/-- The largest magnitude of a list of encodings, a NaN above everything, a signalling one with NV (R18, R31); +0 for none. -/
def FFmt.maxMag (f : FFmt) (l : List Nat) : Nat × Flags :=
  (if l.any fun c => (f.val c).isNan then f.canon else l.foldl (fun m c => max m (c % 2 ^ (f.ebits + f.mbits))) 0,
   flagIf (f.anySnan l) flNV)

/-- The integer a value rounds to within lo..hi, R34: NaN gives 0, a clamp sets SAT, a rounding NX. -/
def roundInt (rm : Rm) (rw : Nat) (lo hi : Int) (v : FVal) : Int × Flags :=
  match v with
  | .nan _ => (0, flNV)
  | .inf n => (if n then lo else hi, flSAT)
  | .num n m e =>
    let (y, nx) := roundUnits rm rw m e 0
    let i : Int := if n then -(y : Int) else y
    let c := max lo (min hi i)
    (c, flagIf nx flNX ||| flagIf (c != i) flSAT)

/-- A format covers another: every value of `g` is one of `f`'s, so a conversion is exact (R33). -/
def FFmt.covers (f g : FFmt) : Bool := g.ebits ≤ f.ebits && g.mbits ≤ f.mbits

/-- Conversion between floating-point formats, R33; to a covering format it is exact and an infinity stays one. -/
def FFmt.convert (src dst : FFmt) (rm : Rm) (sat : Bool) (rw c : Nat) : Nat × Flags :=
  dst.round rm (sat && !dst.covers src) rw (src.val c)

end Sys2Proof.Machine
end

