-- ==== Sys2Proof/Machine/Blocks.lean ====
section
/-! DEFINITION. Block formats, block quantisation, block products, the forgetting factor, the counter generator and
TABLE evaluation (R19 to R23, R26 to R28, R36 to R38, R41 to R45). -/
namespace Sys2Proof.Machine

/-- The block formats of R21. -/
inductive BFmt where
  | mxfp8e4 | mxfp8e5 | mxfp4 | mxint8 | fk8 | fk4
deriving DecidableEq, Repr

/-- Whether a block format is a fork format. -/
def BFmt.fork : BFmt → Bool
  | .fk8 | .fk4 => true
  | _ => false

/-- Element width in bits, R21. -/
def BFmt.width : BFmt → Nat
  | .mxfp4 | .fk4 => 4
  | _ => 8

/-- Scale bytes for one block, R21. -/
def BFmt.scaleBytes (b : BFmt) : Nat := if b.fork then 2 else 1

/-- The element format of the MX floating-point blocks. -/
def BFmt.elem : BFmt → FFmt
  | .mxfp8e4 => e4m3
  | .mxfp8e5 => e5m2
  | _ => e2m1

/-- The value of an E8M0 scale as an exponent, R19. -/
def scaleExp (x : Nat) : Int := (x : Int) - 127

/-- Whether the scale bytes mark a NaN block, R22. -/
def nanBlock (scales : List Nat) : Bool := scales.any (· == 255)

/-- The selector of an FK element, R21. -/
def BFmt.sel (b : BFmt) (c : Nat) : Nat :=
  match b with
  | .fk8 => bits c 7 7
  | .fk4 => bits c 3 3
  | _ => 0

/-- The exact value of an element of a block with the given scale bytes, R21 and R22. -/
def BFmt.val (b : BFmt) (scales : List Nat) (c : Nat) : FVal :=
  if nanBlock scales then .nan false
  else
    let s := scaleExp (scales.getD (b.sel c) 127)
    match b with
    | .mxint8 => .ofInt (sx 8 c) (s - 6)
    | .fk8 => .ofInt (sx 7 c) (s - 6)
    | .fk4 => .ofInt (sx 3 c) (s - 2)
    | _ => (b.elem.val c).mul (.num false 1 s)

/-- The exponent of the element unit, R41. -/
def BFmt.unitExp : BFmt → Int
  | .mxfp8e4 => -9
  | .mxfp8e5 => -16
  | .mxfp4 => -1
  | .mxint8 => -6
  | .fk8 => -6
  | .fk4 => -2

/-- The integer code of an element, R41; 0 for a NaN or an infinity (R42). -/
def BFmt.elemInt (b : BFmt) (c : Nat) : Int :=
  match b with
  | .mxint8 => sx 8 c
  | .fk8 => sx 7 c
  | .fk4 => sx 3 c
  | _ => (b.elem.val c).units b.unitExp

/-- Elements taken from each side in a beat, R41. -/
def BFmt.perBeat : BFmt → Nat
  | .mxfp4 | .fk4 => 4
  | _ => 2

/-- Width of a bp entry or of one sub-sum, R41. -/
def BFmt.bpWidth : BFmt → Nat
  | .mxfp8e4 => 48
  | .mxfp8e5 => 80
  | .mxfp4 => 24
  | .mxint8 => 32
  | .fk8 => 32
  | .fk4 => 24

/-- The plane tag a block path leaves, R188. -/
def BFmt.tag : BFmt → Nat
  | .mxfp8e4 => 1
  | .mxfp8e5 => 2
  | .mxfp4 => 3
  | .mxint8 => 4
  | .fk8 => 5
  | .fk4 => 6

/-- The block format of a plane tag, R188. -/
def BFmt.ofTag : Nat → Option BFmt
  | 1 => some .mxfp8e4
  | 2 => some .mxfp8e5
  | 3 => some .mxfp4
  | 4 => some .mxint8
  | 5 => some .fk8
  | 6 => some .fk4
  | _ => none

/-- The flags one product adds to a bp entry, R42: bit 0 NaN, bit 1 +∞, bit 2 −∞. -/
def BFmt.prodFlags (b : BFmt) (x y : Nat) : Nat :=
  match b with
  | .mxfp8e4 | .mxfp8e5 =>
    match (b.elem.val x).mul (b.elem.val y) with
    | .nan _ => 1
    | .inf n => if n then 4 else 2
    | .num _ _ _ => 0
  | _ => 0

/-- One fold of a block into an accumulator entry, R43. `sums` holds S, or S[0][0], S[0][1], S[1][0], S[1][1] of a fork path. -/
def BFmt.fold (b : BFmt) (sums : List Int) (fl : Nat) (sa sb : List Nat) (acc : Nat) : Nat × Flags :=
  let a := fp32.val acc
  let nb := nanBlock sa || nanBlock sb
  let fl := if b.fork then 0 else fl
  let nan := fl % 2 == 1 || fl / 2 == 3
  if nb || nan || a.isNan then (fp32.canon, flagIf nb flNB ||| flagIf a.isSnan flNV)
  else if fl != 0 then rne32 (a.add (.inf (fl / 4 == 1)))
  else
    let term (i j k : Nat) : FVal :=
      .ofInt (sums.getD k 0) (scaleExp (sa.getD i 127) + scaleExp (sb.getD j 127) + 2 * b.unitExp)
    if b.fork then rne32 (sumExact [a, term 0 0 0, term 0 1 1, term 1 0 2, term 1 1 3])
    else rne32 (sumExact [a, term 0 0 0])

/-- floor(log2) of a magnitude that is finite and not zero. -/
def FVal.log2 : FVal → Int
  | .num _ m e => (Nat.log2 m : Int) + e
  | _ => 0

/-- A value multiplied by 2^k. -/
def FVal.scale (k : Int) : FVal → FVal
  | .num n m e => .num n m (e + k)
  | v => v

/-- x limited to lo..hi, R15 `sat`. -/
def satI (x lo hi : Int) : Int := max lo (min hi x)

/-- The flags of pairs of codes and flags together. -/
def joinFlags (l : List (Nat × Flags)) : Flags := l.foldl (fun f p => f ||| p.2) 0#6

/-- Pairs of codes and flags gathered into a list of codes and their flags together. -/
def gather (l : List (Nat × Flags)) : List Nat × Flags := (l.map (·.1), joinFlags l)

/-- One element of an FK block, R38. -/
def forkElem (w : Nat) (g : Int) (lo hi uh ul : Int) (x : FVal) : Nat × Flags :=
  let big : Int := 2 ^ 400
  let (ql, fl) := roundInt .rne 0 (-big) big (x.scale (g - ul))
  if lo ≤ ql && ql ≤ hi then (2 ^ w + narrow w ql, fl)
  else
    let (v, fh) := roundInt .rne 0 lo hi (x.scale (g - uh))
    (narrow w v, fh ||| flagIf (fh &&& flSAT != 0#6) flNX)

/-- Quantises a block of FP32 codes: each element's code with the flags it sets, and the scale bytes (R36 to R38). A NaN or an
infinity anywhere sets NV for the whole block. `rws` are the words stochastic rounding takes, in element order. -/
def BFmt.quantiseEach (b : BFmt) (rm : Rm) (rws xs : List Nat) : List (Nat × Flags) × List Nat :=
  let vs := xs.map fp32.val
  let n := b.scaleBytes
  if vs.any (fun v => v.isNan || v.isInf) then (xs.map fun _ => (0, flNV), List.replicate n 255)
  else
    let amax := (fp32.maxMag xs).1
    if amax == 0 then (xs.map fun _ => (0, 0#6), List.replicate n 127)
    else
      let l := (fp32.val amax).log2
      match b with
      | .mxint8 =>
        let e := satI l (-127) 127
        (vs.map fun v =>
          let (i, f) := roundInt .rne 0 (-127) 127 (v.scale (6 - e))
          (narrow 8 i, f), [(e + 127).toNat])
      | .fk8 =>
        let uh := satI (l + 1) (-127) 127
        let ul := max (uh - 4) (-127)
        (vs.map (forkElem 7 6 (-64) 63 uh ul), [(uh + 127).toNat, (ul + 127).toNat])
      | .fk4 =>
        let uh := satI (l + 1) (-127) 127
        let ul := max (uh - 2) (-127)
        (vs.map (forkElem 3 2 (-4) 3 uh ul), [(uh + 127).toNat, (ul + 127).toNat])
      | _ =>
        let emax : Int := match b with
          | .mxfp8e4 => 8
          | .mxfp8e5 => 15
          | _ => 2
        let x := satI (l - emax) (-127) 127 + 127
        ((vs.zip (rws ++ List.replicate vs.length 0)).map fun (v, rw) => b.elem.round rm true rw (v.scale (127 - x)), [x.toNat])

/-- A quantised block: element codes, scale bytes and all its flags (R36 to R38). -/
def BFmt.quantise (b : BFmt) (rm : Rm) (rws xs : List Nat) : List Nat × List Nat × Flags :=
  let (es, ss) := b.quantiseEach rm rws xs
  (es.map (·.1), ss, joinFlags es)

/-- The power table of a forgetting factor, R27; no flags (R256). -/
def powerTable (lam : Nat) : List Nat :=
  (List.range 13).foldl (fun l _ => let p := l.getLastD lam; l ++ [(fp32.mul p p).1]) [lam]

/-- The forgetting factor f(n) from a power table, R27. -/
def forgetting (pw : List Nat) (n : Nat) : Nat :=
  (List.range 14).foldl (fun f i => if bits n i i == 1 then (fp32.mul f (pw.getD i 0)).1 else f) 0x3F800000

/-- The decayed value of `v` at age `n` and the flags of its one rounding, R28. -/
def decayed (lam horizon v n : Nat) : Nat × Flags :=
  if horizon ≤ n then (0, 0#6) else fp32.mul v (forgetting (powerTable lam) n)

/-- One round of the counter generator. -/
def ctrRound (kc : Nat × Nat) : Nat × Nat :=
  let c := (kc.2 + kc.1) % 2 ^ 64
  let c := c ^^^ (c * 2 ^ 29 % 2 ^ 64 + c / 2 ^ 35)
  let c := c * 0x9E3779B97F4A7C15 % 2 ^ 64
  ((kc.1 + 0xD1B54A32D192ED03) % 2 ^ 64, c)

/-- The counter generator G(k, c), R44. -/
def counterGen (k c : Nat) : Nat :=
  bits ((List.range 10).foldl (fun s _ => ctrRound s) (k % 2 ^ 64, c % 2 ^ 64)).2 63 32

/-- The parameters of a TABLE unit, R45: words 0 to 5 and the coefficients of an interval. -/
structure TableParams where
  lo : Nat
  invStep : Nat
  loVal : Nat
  hiMode : Nat
  hiVal : Nat
  hiSlope : Nat
deriving DecidableEq, Repr

/-- TABLE evaluation, R45; each fma's flag for 0 × ∞ beside a quiet NaN is the implementation's (log 12). -/
def tableEval (p : TableParams) (coef : Nat → Nat × Nat × Nat) (x : Nat) : Nat × Flags :=
  let xv := fp32.val x
  if xv.isNan then (fp32.canon, flagIf xv.isSnan flNV)
  else
    let (d, f1) := fp32.sub x p.lo
    let (s, f2) := fp32.mul d p.invStep
    let sv := fp32.val s
    let fl := f1 ||| f2
    if sv.isNan then (fp32.canon, fl)
    else if sv.ltv (.num false 0 0) then (p.loVal, fl)
    else if !sv.ltv (.num false 64 0) then
      match p.hiMode with
      | 0 => (p.hiVal, fl)
      | 1 => (x, fl)
      | _ => let (y, f) := fp32.fma x p.hiSlope p.hiVal; (y, fl ||| f)
    else
      let idx := (roundInt .rz 0 0 63 sv).1.toNat
      let t := sv.add (.num true idx 0)
      let (c0, c1, c2) := coef idx
      let (y1, f3) := rne32 (t.fma (fp32.val c2) (fp32.val c1))
      let (y, f4) := rne32 (t.fma (fp32.val y1) (fp32.val c0))
      (y, fl ||| f3 ||| f4)

end Sys2Proof.Machine
end

