-- ==== Sys2Proof/Machine/Types.lean ====
section
/-! DEFINITION. The pieces of state of a tile's control core (R10, R56 to R71, R110, R307 to R333, R346). -/
namespace Sys2Proof.Machine

/-- A byte memory: pairs of an address and a byte, addresses strictly rising, no byte 0x00 listed (log 2). -/
abbrev Mem := List Host.Cell

/-- What a static access of the core reaches once R117 and R118 have passed it. -/
inductive Loc where
  /-- Scratchpad of a tile, spaces 1 and 2. -/
  | spad (tile off : Nat)
  /-- Shared scratchpad of a die, space 3. -/
  | shared (die off : Nat)
  /-- A mailbox byte offset, space 4 (R119). -/
  | mailbox (off : Nat)
  /-- A control register, space 4 (R119). -/
  | creg (cr : Nat)
  /-- The readback image of a tile, space 5 (R402). -/
  | readback (tile off : Nat)
deriving DecidableEq, Repr

/-- The members of the atomics, R123. -/
inductive AtomOp where
  | add | minS | maxS | and | or | xchg | cas | fadd
deriving DecidableEq, Repr

/-- A target of a register write, R78. -/
inductive Dst where
  | x (r : Fin 64)
  | p (r : Fin 8)
  | v (r : Fin 32)
  | vm (r : Fin 8)
  | w (r : Fin 32) (o : Fin 8)
  /-- A whole walk record. -/
  | wrec (r : Fin 32)
deriving DecidableEq, Repr

/-- An effect of the core in flight: the things R321 moves into the snapshot buffer. -/
inductive EKind where
  /-- A register write; bits of a vector outside `mask` keep the value they have when it lands (R125, R137). -/
  | reg (d : Dst) (v : Wide) (mask : Wide)
  /-- A load: samples three cycles before it lands (R61). `got` holds the sampled bytes. -/
  | load (l : Loc) (ptr : Word) (size : Nat) (sgn : Bool) (d : Dst) (got : Option Wide)
  /-- A store of bytes; performs when due (R61). -/
  | store (l : Loc) (ptr : Word) (data : List Byte)
  /-- An atomic: reads three cycles before it lands, writes one cycle before (R62, R123). `old` is the value read. -/
  | atomic (l : Loc) (ptr : Word) (op : AtomOp) (w64 : Bool) (d : Fin 64) (opnd cmp : Word) (old : Option Word)
  /-- A vldg: lane i samples eighteen cycles before it lands, plus i (R61). `lanes` holds lane, offset; `got` the values sampled. -/
  | gather (tile : Nat) (d : Fin 32) (lanes : List (Nat × Nat)) (got : List (Nat × BitVec 32)) (all : List Nat)
  /-- A vsts: lane i performs fifteen cycles before it is due, plus i (R61). -/
  | scatter (tile : Nat) (lanes : List (Nat × Nat × BitVec 32)) (all : List Nat)
deriving DecidableEq, Repr

/-- An effect in flight with its cycle, its place in the issue order and the slot that made it. -/
structure Effect where
  /-- The cycle it lands in: group cycles, or global cycles for a handler's (R324). -/
  due : Nat
  /-- Place in the issue order of the tile. -/
  ord : Nat
  pc : Nat
  slot : Nat
  /-- Flags that FPSTAT takes when the result is written (R48). -/
  flags : Flags
  /-- The tile has ended: the register half is discarded (R310). -/
  noReg : Bool
  kind : EKind
deriving DecidableEq, Repr

/-- What a slot reads after every effect of its issue cycle (R48, R205, R206). -/
inductive LateRead where
  | fpstat
  | amr (p : Fin 4) (n : Fin 64)
  | amc (p : Fin 4) (n : Fin 64)
  | mstat (sel : Nat)
deriving DecidableEq, Repr

/-- Other acts a slot schedules for a later cycle; they are no effects of R321 and hold while the group is stopped. -/
inductive ActKind where
  /-- A wrc, or a store to a control register: the register takes the value (R332, R119). -/
  | wrc (cr : Nat) (v : Word)
  /-- A vcvt has popped an entry of the random-bit queue: RBIDX advances at the end of its issue cycle (R139, R140). -/
  | pop
  /-- The slot's result takes the value that its read finds at the end of its issue cycle (R48, R205, R206). -/
  | fill (r : LateRead)
  /-- srel's release of `n` words of the ring that walk record `w` names (R180). -/
  | srel (base : Nat) (n : Nat)
  /-- stepadv's addition to the pending advance (R265). -/
  | stepadv (n : Word)
  /-- esc samples its record (R312). -/
  | esc (off : Nat) (ptr : Word) (iss : Nat)
  /-- qlaunch samples its record (R287). -/
  | qlaunch (q : Nat) (k : Fin 64) (off : Nat) (iss : Nat)
  /-- cctx writes a row's context mask (R240). -/
  | cctx (row : Fin 4) (v : Word)
  /-- cparam writes a parameter word of a record (R242). -/
  | cparam (u : Fin 32) (c p : Fin 12) (v : BitVec 32)
deriving DecidableEq, Repr

/-- An act with its cycle, its place in the issue order and the slot that made it. -/
structure Act where
  due : Nat
  ord : Nat
  pc : Nat
  slot : Nat
  kind : ActKind
deriving DecidableEq, Repr

/-- An active loop, R110: its counter, the first body bundle and the slot address its last bundle contains. -/
structure LoopF where
  lc : Fin 4
  first : Nat
  last : Nat
deriving DecidableEq, Repr

/-- A pending branch, R66: the target when taken and the delay bundles still to issue. -/
structure BranchF where
  target : Option Nat
  left : Nat
deriving DecidableEq, Repr

/-- The fetch state of a program: next bundle address, pending branch and active loops, innermost first (R66, R67). -/
structure Fetch where
  pc : Nat
  br : Option BranchF
  loops : List LoopF
deriving DecidableEq, Repr

/-- A wait that holds issue, R50. -/
inductive Wait where
  | waitk (k : Fin 64) (n : Nat)
  | fence (l : List (Fin 64))
  | barw (b : Fin 64) (d0 : BitVec 16)
  /-- syncg, with the group cycle of its issue. -/
  | syncg (at_ : Nat)
  /-- txabort has issued with this code: no further bundle (R311). -/
  | stopped (code : BitVec 12)
deriving DecidableEq, Repr

/-- The control registers of R326 that hold state, one copy for each hardware context (R46, R138, R327 to R329). -/
structure CRegs where
  fpstat : Flags
  rbseed : Word
  rbidx : Word
  tvec : Word
  tcause : Word
  tpc : Word
  tcyc : Word
  tinfo : Word
  tscratch : Word
  cycalarm : Word
  dbgctl : BitVec 5
  bkpt : Word
  watch : Word
deriving DecidableEq, Repr

/-- What a tile keeps for one barrier number, R346. -/
structure BarView where
  done : BitVec 16
  out : Nat
  last : BitVec 16
  v : Bool
deriving DecidableEq, Repr

/-- The register files of a hardware context, R78. -/
structure Regs where
  x : Vector Word 64
  p : Vector Bool 8
  v : Vector Wide 32
  vm : Vector (BitVec 16) 8
  lc : Vector (BitVec 32) 4
  k : Vector (BitVec 32) 64
  w : Vector Wide 32
  mb : Vector (BitVec 32) 16
deriving DecidableEq, Repr

/-- How far a tile is in its program, R50, R310, R324. -/
structure Flow where
  /-- The main program of the context. -/
  fetch : Fetch
  /-- The handler's fetch state while in handler mode (R324). -/
  handler : Option Fetch
  /-- eret has issued and waits for the handler's effects (R325). -/
  ereting : Bool
  /-- Group cycle at which the span began (R50). -/
  spanStart : Nat
  /-- The span began after a syncg (R51). -/
  aligned : Bool
  /-- The next bundle begins a new span; true when that span is aligned (R50, R51). -/
  newSpan : Option Bool
  wait : Option Wait
  /-- The group cycle at which end issued (R310). -/
  ended : Option Nat
  /-- Number of slots issued so far: the issue order. -/
  ord : Nat
deriving DecidableEq, Repr

/-- Registers at a kernel's entry, R317, with the stack pointer and mailbox given. -/
def Regs.entry (sp : Word) (mb : Vector (BitVec 32) 16) : Regs where
  x := (Vector.replicate 64 0#64).set 62 sp
  p := (Vector.replicate 8 false).set 0 true
  v := Vector.replicate 32 0#512
  vm := (Vector.replicate 8 0#16).set 0 0xFFFF#16
  lc := Vector.replicate 4 0#32
  k := Vector.replicate 64 0#32
  w := Vector.replicate 32 0#512
  mb := mb

/-- Control registers at a kernel's entry, R326. -/
def CRegs.entry : CRegs := ⟨0#6, 0#64, 0#64, 0#64, 0#64, 0#64, 0#64, 0#64, 0#64, 0#64, 0#5, 0#64, 0#64⟩

/-- A tile's barrier values at entry, R346. -/
def BarView.entry : BarView := ⟨0#16, 0, 0#16, false⟩

/-- The state of issue at a kernel's entry: the first span begins at the entry bundle (R112). -/
def Flow.entry (pc : Nat) : Flow where
  fetch := ⟨pc, none, []⟩
  handler := none
  ereting := false
  spanStart := 0
  aligned := false
  newSpan := none
  wait := none
  ended := none
  ord := 0

end Sys2Proof.Machine
end

