-- ==== Sys2Proof/Machine/PkgTypes.lean ====
section
/-! DEFINITION. The pieces of state the Crown, the Roots, the links and the platform hold (chapters 12 to 19). -/
namespace Sys2Proof.Machine

/-- A descriptor and its companions as one command uses them for its whole run (R145, R150, R162). -/
structure TensorV where
  tid : Nat
  desc : Wide
  ring : Option Wide
  aux : Option Wide
deriving DecidableEq, Repr

/-- A pass over the ring groups of tensors, R260 and R263: the tensors as they stood when it began, the step it rebases to, and the groups it
is over with. -/
structure Pass where
  tensors : List TensorV
  goal : Nat
  past : Nat
deriving DecidableEq, Repr

/-- A trap of a group's window, R319, with what R327 and R328 record of it. -/
structure TrapRec where
  tile : Nat
  /-- The group cycle T. -/
  cyc : Nat
  cause : Cause
  /-- Address of the faulting bundle; all ones when asynchronous. -/
  fpc : Nat
  /-- Faulting slot; 0xFF when none. -/
  slot : Nat
  info : Word
deriving DecidableEq, Repr

/-- The states of a group, R318; `placing` carries its start gcy and `freezing` its stop cycle, `resuming` its resume gcy. -/
inductive GState where
  | placing (start : Nat)
  | running
  | freezing (stop : Nat)
  | frozen
  | handling
  | held
  | resuming (at_ : Nat)
  | switching
  | switchedOut
deriving DecidableEq, Repr

/-- A group of tiles that runs one kernel, R314 to R325. Its id is its kernel's. -/
structure Group where
  id : Nat
  ctx : Nat
  /-- The tiles run it in their urgent context (R11). -/
  urgent : Bool
  whole : Bool
  rows : Nat
  cols : Nat
  place : Place
  /-- The group cycle counter, R54. -/
  cnt : Nat
  st : GState
  /-- Traps of the open window, in the order they arose (R319). -/
  window : List TrapRec
  /-- Asynchronous faults kept until the group counts again (R319). -/
  pend : List TrapRec
  /-- The group cycle of an urgent pause to come (R334). -/
  pauseAt : Option Nat
  /-- Paused by an urgent group; the state kept is `st` (R318). -/
  paused : Bool
  /-- The group cycle at which an aligned span begins on every tile (R51). -/
  sync : Option Nat
  /-- Traps of the window whose records have been handed to the trap queue (R323). -/
  recorded : List TrapRec
  /-- First save slot, when switching or switched out (R337). -/
  saveSlot : Option Nat
  /-- Switch number the Crown recorded (R338). -/
  switchNo : Nat
deriving DecidableEq, Repr

/-- The states of a kernel between dispatch and its end, R289. -/
inductive KState where
  | dispatching
  | running
  | finished
  | committing
  | aborting
  | retry
deriving DecidableEq, Repr

/-- A byte on its way to the host or to another rank, with the bits of it that are written (R160, R385): none of a masked byte, half of one into which a
stream puts one 4-bit element (R23; log 87). -/
structure Piece where
  val : Byte
  mask : Byte
deriving DecidableEq, Repr

/-- A byte that is written. -/
def Piece.whole (b : Byte) : Piece := ⟨b, 0xFF#8⟩

/-- A masked byte. -/
def Piece.none : Piece := ⟨0#8, 0#8⟩

/-- What an escape does when it is performed, R305. -/
inductive EscKind where
  /-- A write to the host window or another rank (R312). -/
  | post (dest : Word) (data : List Byte)
  /-- A qlaunch record (R287), with the token a DIRECT kernel's append sends. -/
  | launch (q : Nat) (r : Wide) (k : Fin 64)
  /-- A stream staged under R172: its writes in emission order. -/
  | staged (writes : List (Word × List Piece))
deriving DecidableEq, Repr

/-- An escape in escape order (R305): issue group cycle, tile, issue order; `what` is none until the capture completes. -/
structure Escape where
  id : Nat
  cyc : Nat
  tile : Nat
  ord : Nat
  what : Option EscKind
  /-- Sampled, and waiting for the kernel to write in place before it counts as captured (R305). -/
  held : Bool
  /-- Captured before the kernel began to write in place (R304). -/
  early : Bool
deriving DecidableEq, Repr

/-- A kernel from its dispatch to its end, R289 to R313. -/
structure Kernel where
  id : Nat
  ctx : Nat
  /-- The queue and sequence number its record came from. -/
  origin : Nat × Nat
  /-- The Crown's copy of the launch record and of its mailbox block (R283). -/
  record : Wide
  mbox : Wide
  st : KState
  /-- None for a DIRECT kernel (R291). -/
  ticket : Option Nat
  /-- The dispatch gcy d of this attempt (R306). -/
  disp : Nat
  /-- Aborts of the record before this attempt (R302). -/
  aborts : Nat
  serial : Bool
  /-- Writing in place (R304). -/
  inPlace : Bool
  /-- A write or a capture holds until the kernel writes in place (R303, R305). -/
  wantsPlace : Bool
  cause : Option Cause
  /-- The code of the txabort that ended it, with the tile (R311). -/
  abortCode : Option (Nat × Nat)
  escapes : List Escape
  /-- Pending step advance, R249. -/
  advance : Nat
  /-- STEP at its dispatch for a step-dependent kernel (R251). -/
  stepView : Nat
  /-- Read and write sets of panels (R296). -/
  reads : List Nat
  writes : List Nat
  /-- The gcy in which its abort cause arose (R299, R300). -/
  abortAt : Nat
  /-- Target placement held for it (R286). -/
  target : Option Place
  /-- The sweep of its commit that is still to finish (R260). -/
  sweep : Option Pass
  /-- The record of its abort has been handed to the trap queue (R377). -/
  told : Bool
deriving DecidableEq, Repr

/-- The states of a context, R272. -/
inductive CtxtState where
  | free | building | ready | active | quiescing | faulted | destroyed
deriving DecidableEq, Repr

/-- A trap-queue record before it is written, R376 (`when` is the gcy of writing). -/
structure TqRec where
  cause : Cause
  info : Word
  fid : Nat
  ticket : Nat
  fpc : Nat
  slot : Nat
  tile : Nat
  fatal : Bool
  write : Bool
  /-- The group or kernel whose end or disposition waits until it is written (R377); 0 for none. -/
  owner : Nat
deriving DecidableEq, Repr

/-- The Crown's state of one context, R268 to R274, R376, R381. -/
structure Ctxt where
  st : CtxtState
  secure : Bool
  ttBase : Nat
  ttCount : Nat
  trapBase : Nat
  trapLen : Nat
  saveRoot : Nat
  saveFrames : Nat
  poolRoot : Nat
  poolFrames : Nat
  regions : BitVec 64
  urgent : Bool
  readback : Bool
  step : BitVec 48
  /-- The ticket counter, R291. -/
  next : BitVec 16
  ct : BitVec 16
  tqHead : BitVec 16
  tqTail : BitVec 16
  fatal : Bool
  ovf : Bool
  /-- Records waiting for room, in the order they arose (R377). -/
  waiting : List TqRec
  /-- The last fault id given (R370). -/
  fid : BitVec 32
  hwBase : BitVec 64
  hwLim : BitVec 64
deriving DecidableEq, Repr

/-- The gcy work a context has under way beside its kernels. -/
structure CtxtWork where
  /-- A STEP_WRITE pass and the value STEP takes (R263). -/
  stepWrite : Option (BitVec 48 × Pass)
  /-- A DESTROY in progress (R274). -/
  destroying : Bool
  /-- The gcy of the context's last pass: one a gcy (R292). -/
  lastPass : Option Nat
  /-- Switches of the context so far (R338). -/
  switches : Nat
  /-- Save slots in use (R337). -/
  slots : List Nat
deriving DecidableEq, Repr

/-- The states of a queue, R284. -/
inductive QState where
  | unbound | disabled | enabled | stalled
deriving DecidableEq, Repr

/-- A device append on its way to its queue, R287: the kernel and tile it came from, and the token of a DIRECT kernel. -/
structure Append where
  record : Wide
  kernel : Nat
  tile : Nat
  urgent : Bool
  k : Fin 64
deriving DecidableEq, Repr

/-- What a queue has received and not taken in yet, in order of receipt (R288): a device append, or a write to QTAIL with the slot it names. -/
inductive Push where
  | append (a : Append)
  | tail (slot : Nat)
deriving DecidableEq, Repr

/-- A selected record that waits for tiles, R286 and R336: a queue's head, or a kernel in retry, the gcy of its selection and the
placement held for it. -/
structure Selection where
  retry : Bool
  n : Nat
  since : Nat
  target : Place
deriving DecidableEq, Repr

/-- A queue, R279 to R288. -/
structure Queue where
  st : QState
  /-- The en bit of QCFG, which tells the state a stalled queue returns to. -/
  en : Bool
  /-- QCFG has been written with a context and a cap; the queue waits for its QTAIL (R280). -/
  configured : Bool
  rej : Bool
  ctx : Nat
  cap : Nat
  headSlot : Nat
  headSeq : BitVec 16
  tailSlot : Nat
  tailSeq : BitVec 16
  /-- Records dispatched and not yet at their end, the oldest first: each one's kernel and its sequence number (R282). -/
  live : List (Nat × BitVec 16)
  /-- The head has passed the checks of R283. -/
  checked : Bool
  /-- The cause with which the head is being retired: its record has been handed to the trap queue (R283, R377). -/
  retiring : Option Cause
  /-- Device appends and tail writes received and not yet made, in order (R287, R288). -/
  pushes : List Push
  /-- The gcy of the last push, which a pop of that gcy does not see (R285). -/
  pushed : Option Nat
deriving DecidableEq, Repr

/-- The states of a barrier object, R344. -/
inductive BState where
  | unbound | unarmed | armed | draining | rearmed
deriving DecidableEq, Repr

/-- A barrier object, R344; `due` is the release cycle g + F while it drains (R350). -/
structure Barrier where
  st : BState
  auto : Bool
  group : Option Nat
  phase : BitVec 16
  target : Nat
  count : Nat
  /-- Held arrivals in the order they landed: tile and weight. -/
  held : List (Nat × Nat)
  due : Nat
  /-- The gcy and the place in R348's order of the last request that took effect. -/
  last : Nat × Nat
deriving DecidableEq, Repr

/-- A barrier request on its way, R348. -/
structure BReq where
  id : Nat
  /-- Place of its instruction in the issue order of its tile, both hardware contexts of it together (R348). -/
  ord : Nat
  group : Nat
  tile : Nat
  urgent : Bool
  die : Nat
  bar : Fin 64
  /-- barm carries its target and auto; an arrival its weight. -/
  arm : Option (Nat × Bool)
  weight : Nat
  /-- Arrivals of bars are unordered with the tile's other requests (R348). -/
  queued : Bool
deriving DecidableEq, Repr

/-- Where a walk has led, R368: the tensor and the place in its page list, the leaf entry and the HBM byte address. -/
structure Spot where
  tid : Nat
  list : Nat
  v : Nat
  world : Bool
  entry : Nat
  phys : Nat
deriving DecidableEq, Repr

/-- A sapwood version of a 256-byte line, R293: the pool line it takes, how the line was reached (R368), and which of its four 64-byte words
carry a check value that does not fit them (R400). -/
structure Version where
  ctx : Nat
  ticket : Nat
  line : Nat
  data : List Byte
  slot : Nat
  spot : Spot
  bad : List Nat
deriving DecidableEq, Repr

/-- A copy of a leaf entry in the walk unit of one Root, R8 and R368: the page list and the part of v it covers, where the entry stands, the
level-1 entry above it (R373), and the word. -/
structure WalkCopy where
  root : Nat
  list : Nat
  page : Nat
  big : Bool
  entry : Nat
  parent : Option Nat
  word : Nat
deriving DecidableEq, Repr

/-- The states of a link, R390. -/
inductive LinkState where
  | down | training | up | degraded | error
deriving DecidableEq, Repr

/-- A UALink port, R391; entry 32 is the PCIe link. -/
structure Port where
  st : LinkState
  errs : Nat
  width : BitVec 3
  rate : BitVec 2
deriving DecidableEq, Repr

/-- What every UALink request carries of its sender, R386. -/
structure Sender where
  ctx : Nat
  world : Bool
  rank : Nat
  tile : Nat
deriving DecidableEq, Repr

/-- What leaves the package: host writes, MSI-X vectors, UALink requests and their responses, host read data (R379 to R388). -/
inductive Out where
  | hostWrite (addr : Nat) (data : List Piece)
  | msix (vector : Nat)
  /-- A write of one to four 64-byte words from an aligned address, with masks (R160, R385). -/
  | linkWrite (rank : Nat) (addr : Nat) (data : List Piece) (from_ : Sender) (count : Nat)
  | linkToken (rank : Nat) (addr : Nat) (amount : Nat) (from_ : Sender) (count : Nat)
  | linkRead (id rank : Nat) (addr : Nat) (len : Nat) (from_ : Sender)
  | hostRead (id : Nat) (addr : Nat) (len : Nat)
  | reply (data : List Byte)
  | errorReply
  | barData (data : List Byte)
deriving DecidableEq, Repr

/-- A remote or host request without its response, R382, R389. -/
structure Request where
  id : Nat
  /-- The stream it belongs to; none for an escape performed at commit, which then names context and ticket. -/
  stream : Option Nat
  /-- The group whose tok it carries, while that group waits for it (R297). -/
  group : Option Nat
  ctx : Nat
  ticket : Nat
  /-- UALink port used; 32 for PCIe. -/
  port : Nat
  /-- gcy of issue. -/
  sent : Nat
  /-- The issuing tile. -/
  tile : Nat
  /-- The group of the DIRECT kernel, or in bring-up, whose escape it is: a failure is a fault of the tile while the group stands (R389). -/
  direct : Option Nat
deriving DecidableEq, Repr

/-- A remote token held until its count of writes has been applied, R388. -/
structure HeldToken where
  id : Nat
  rank : Nat
  src : Nat
  tile : Nat
  counter : Fin 64
  amount : Nat
  count : Nat
  /-- The group whose counter it names. -/
  group : Nat
deriving DecidableEq, Repr

/-- What a translation hold holds up: element `e` of a stream, read or written (R370), a context's pass (R262, R263), or the settling of a
line (R368). -/
inductive Held where
  | elem (stream e : Nat) (write : Bool)
  | pass (ctx : Nat)
  | settle (line : Nat)
deriving DecidableEq, Repr

/-- A translation hold of a Root, R370, or a hold for migration without a record (R368). -/
structure Hold where
  ctx : Nat
  /-- None for a hold without a record. -/
  fid : Option Nat
  what : Held
  entry : Nat
  /-- A wake has come: what is held is retried, and walks afresh (R371). -/
  woken : Bool
  /-- It waits for no entry, but until its kernel writes in place (R303). -/
  place : Bool
deriving DecidableEq, Repr

/-- The states of power gating, R341. -/
inductive Power where
  | free (since : Nat)
  | busy
  | gating (until_ : Nat)
  | gated
  | waking (until_ : Nat)
deriving DecidableEq, Repr

/-- The security processor and boot state, R393 to R398. -/
structure Boot where
  inReset : Bool
  stage : BitVec 4
  fail : BitVec 8
  digest : List Byte
  crownEn : Bool
  rank : BitVec 10
  startList : List (Nat × Nat)
  startGcy : BitVec 64
  /-- Listed tiles start at STARTGCY. -/
  startArmed : Bool
  segs : List Nat
  segRej : Bool
  spcmd : Word
  spseq : Word
  spbuf : List Byte
  /-- The input of the command that keeps SPCMD busy, read as it started, R395. -/
  spin : List Byte
  owner : Option (List Byte)
  mgmt : Word
  ctxcmd : Word
  pgcmd : Word
  pgdata : Word
deriving DecidableEq, Repr

/-- THERMSTAT, R396 and R403. -/
structure Therm where
  trip : Bool
  throttle : Bool
  power : BitVec 16
  temp : BitVec 12
deriving DecidableEq, Repr

end Sys2Proof.Machine
end

