-- ==== Sys2Proof/Machine/StreamTypes.lean ====
section
/-! DEFINITION. The state of command queues, streams, rings and tokens in flight (chapters 7 and 8). -/
namespace Sys2Proof.Machine

/-- The stream commands of R176. -/
inductive StreamOp where
  | smov | smc | sgat2 | sexp | sdec | sport | sring
deriving DecidableEq, Repr

/-- Where a walk stands: the counters of its levels and the index values taken (R153, R154). -/
structure Cursor where
  i3 : Nat
  i2 : Nat
  i1 : Nat
  i0 : Nat
  /-- The index value of the current iteration, once consumed. -/
  idx : Option Nat
  /-- Index values consumed so far. -/
  taken : Nat
  /-- Elements formed so far, with the empty segments a port receives (R160). -/
  count : Nat
  /-- The walk has ended. -/
  fin : Bool
  /-- The prefix of the current segment has been found (R159). -/
  opened : Bool
  /-- Lengths of a recurrence read ahead for a prefix (R159). -/
  ahead : List Nat
deriving DecidableEq, Repr

/-- An element the engine has read and not yet written everywhere: its number, its bits, the length of its segment when it
begins one (an element without bits when that length is 0), the tiles still to be written (multicast), the Canopy rows of the whorl
that emitted it (R245), its destination coordinates once a stamped write has found them (R258), and whether the word it was read from carries
a check value that does not fit it (R400). -/
structure BufElem where
  n : Nat
  val : Nat
  seg : Option Nat
  left : List Nat
  rows : BitVec 8
  coord : Option (List Nat)
  bad : Bool
deriving DecidableEq, Repr

/-- Consecutive bytes a stream has for the host window or another rank and has not sent yet: its first element, the offset of the first byte, the
bytes, whether the last one has only its low nibble (R23, R160), and the Canopy rows its elements came from (R245). -/
structure Run where
  n : Nat
  off : Nat
  data : List Piece
  half : Bool
  rows : BitVec 8
deriving DecidableEq, Repr

/-- A ring group as a decayed read has seen it, whole: the coordinates of its first element, its stamp and its values (R255, R258). -/
structure GroupView where
  first : List Nat
  stamp : Nat
  vals : List Nat
deriving DecidableEq, Repr

/-- A stream from issue to completion (R151 to R178). -/
structure Stream where
  id : Nat
  tile : Nat
  urgent : Bool
  group : Nat
  op : StreamOp
  /-- The latched records (R72, R151). -/
  src : Wide
  dst : Wide
  srcT : Option TensorV
  dstT : Option TensorV
  /-- The patch list of a decoder destination (R166). -/
  patchT : Option TensorV
  /-- The index records latched with them (R410). -/
  srcIdx : Option Wide
  dstIdx : Option Wide
  kdone : Fin 64
  mode : Fin 2
  /-- Issue cycle and place in the issue order, for escape order and R161. -/
  iss : Nat
  ord : Nat
  /-- None while it stands in the command queue; the engine of R169 afterwards. -/
  engine : Option Nat
  srcCur : Cursor
  dstCur : Cursor
  /-- Element number fixed at issue or found when the walk that ends the stream ends (R158, R176). -/
  total : Option Nat
  /-- Elements read: all below `readTo` and those of `readMore`. -/
  readTo : Nat
  readMore : List Nat
  buf : List BufElem
  /-- Elements written: all below `wroteTo` and those of `wroteMore`. -/
  wroteTo : Nat
  wroteMore : List Nat
  /-- Bits packed for the ring word or the port word being filled, and its words written so far (R155, R159). -/
  pack : List Nat
  words : Nat
  /-- Into a port: elements of the open segment still to come, and the prefix of the word being filled (R159). -/
  segLeft : Nat
  pre : Option Nat
  readTok : Bool
  /-- Tiles whose completion token has landed (R171). -/
  tokens : List Nat
  /-- A request of this stream waits for a response: request id, element, write (R382, R385). -/
  req : List (Nat × Nat × Bool)
  /-- The decoder unit it holds and what it writes: tensor (page or patch list), coordinates and value (R163 to R166, R177). -/
  unit : Option Nat
  output : Option (List (Bool × Nat × Nat × Nat))
  /-- Its escape when it is staged (R172). -/
  escape : Option Nat
  staged : List (Word × List Piece)
  /-- The Canopy rows of what stands in `staged`, which no capture has taken yet (R245). -/
  stagedRows : BitVec 8
  /-- Whorls disarmed so far by out port, when it issued (R154). -/
  marks : List Nat
  /-- Its destination is the host window or another rank, and what it has for it (R172, R381, R384). -/
  away : Bool
  run : Option Run
  /-- Ring groups it has read with decay (R255). -/
  views : List GroupView
  /-- An element packed for the word being filled came from a word whose check value does not fit it (R400). -/
  foul : Bool
  /-- The Canopy rows of what stands in `pack`, and of the writes not yet acknowledged, by request (R245). -/
  tags : BitVec 8
  /-- The whorl it fed has disarmed: what it delivered counts for no later one (R232). -/
  spent : Bool
  reqRows : List (Nat × BitVec 8)
deriving DecidableEq, Repr

/-- What an sbar waits for: a stream, or a drain or cdrain command (R182). -/
inductive WRef where
  | stream (id : Nat)
  | engine (id : Nat)
deriving DecidableEq, Repr

/-- What stands in a command queue, R167. -/
inductive QKind where
  | stream (id : Nat) (kpre : Fin 64)
  /-- tok: target tile (none for another rank), rank, counter, amount (R183). -/
  | tok (tile : Nat) (rank : Option Nat) (k : Fin 64) (n : Nat)
  | tdsync (tid : Nat) (k : Fin 64)
  /-- With its place in the tile's issue order (R348). -/
  | bars (b : Fin 64) (w seq : Nat)
deriving DecidableEq, Repr

/-- A command-queue entry with the writes that hold it back (R168, R182, R353). -/
structure QCmd where
  ord : Nat
  kind : QKind
  after : List WRef
deriving DecidableEq, Repr

/-- An entry of the ring table, R179. -/
structure Ring where
  base : Word
  cap : Nat
  written : Nat
  released : Nat
deriving DecidableEq, Repr

/-- A token addition on its way, R183. -/
structure TokMsg where
  id : Nat
  /-- Issuing tile and hardware context, and its group. -/
  src : Nat
  group : Nat
  tile : Nat
  urgent : Bool
  k : Fin 64
  n : Nat
deriving DecidableEq, Repr

/-- A descriptor reload on its way, R186. -/
structure Reload where
  id : Nat
  ctx : Nat
  group : Nat
  tile : Nat
  urgent : Bool
  tid : Nat
  k : Fin 64
deriving DecidableEq, Repr

/-- A descriptor as the Roots hold it for a context, R162. -/
structure DescCopy where
  ctx : Nat
  tid : Nat
  desc : Wide
deriving DecidableEq, Repr

/-- An asynchronous fault on its way to the issuing tile, R178 and R319. -/
structure FaultMsg where
  id : Nat
  group : Nat
  tile : Nat
  cause : Cause
  info : Word
deriving DecidableEq, Repr

end Sys2Proof.Machine
end

