-- ==== Sys2Proof/Machine/MatrixTypes.lean ====
section
/-! DEFINITION. The state of the matrix array (R188) and of its commands in flight (R190 to R207). -/
namespace Sys2Proof.Machine

/-- The formats of mma, R198. -/
inductive MmaFmt where
  | bf16 | fp16 | e4m3 | e5m2
deriving DecidableEq, Repr

/-- What a matrix command does, R198 to R204. -/
inductive MOp where
  | mma (f : MmaFmt) (acc : Fin 4)
  | mmb (b : BFmt) (bp : Fin 2)
  | sac (acc : Fin 4)
  | zacc (acc : Fin 4)
  | zbp (bp : Fin 2)
  | ldacc (acc : Fin 4)
  | drain (acc : Fin 4) (rm : Rm) (sat : Bool)
deriving DecidableEq, Repr

/-- A matrix command from issue to its last effect (R69, R196). -/
structure MCmd where
  id : Nat
  ord : Nat
  pc : Nat
  slot : Nat
  /-- The start cycle, issue + delay. -/
  start : Nat
  kpre : Fin 64
  op : MOp
  wa : Wide
  wb : Wide
  /-- Beats of an mma or mmb (R198). -/
  n : Nat
  started : Bool
  /-- The cycle from which every effect is cancelled, after a fault while it runs (R191). -/
  cut : Option Nat
  /-- Bytes read by beat or row: the A side and the B side. -/
  inA : List (List Byte)
  inB : List (List Byte)
  /-- The path tag a sac found at its start (R200). -/
  tag : Nat
  /-- Values a drain has read, by row and column (R204). -/
  got : List (Nat × Nat × BitVec 32)
deriving DecidableEq, Repr

/-- An entry of a bp plane, R188: the four sub-sums and the flags of R42. -/
structure BpEntry where
  s00 : BitVec 80
  s01 : BitVec 80
  s10 : BitVec 80
  s11 : BitVec 80
  flags : BitVec 3
deriving DecidableEq, Repr

/-- The array of a tile, R188; entry (i, j) of a plane is element 64 i + j. -/
structure Matrix where
  acc : Vector (Vector (BitVec 32) 4096) 4
  bp : Vector (Vector BpEntry 4096) 2
  tag : Vector (BitVec 3) 2
  amr : Vector (Vector (BitVec 32) 64) 4
  amc : Vector (Vector (BitVec 32) 64) 4
  /-- Commands issued and not finished, in issue order. -/
  cmds : List MCmd
  /-- The random-bit words that the row written in this cycle has drawn, where a write of RBSEED or RBIDX lands in it (R56). -/
  drawn : Option (List Nat)
deriving DecidableEq, Repr

/-- An empty bp entry. -/
def BpEntry.zero : BpEntry := ⟨0#80, 0#80, 0#80, 0#80, 0#3⟩

/-- The array at a kernel's entry, R188. -/
def Matrix.entry : Matrix where
  acc := Vector.replicate 4 (Vector.replicate 4096 0#32)
  bp := Vector.replicate 2 (Vector.replicate 4096 BpEntry.zero)
  tag := Vector.replicate 2 0#3
  amr := Vector.replicate 4 (Vector.replicate 64 0#32)
  amc := Vector.replicate 4 (Vector.replicate 64 0#32)
  cmds := []
  drawn := none

end Sys2Proof.Machine
end

