-- ==== Sys2Proof/Machine/CanopyTypes.lean ====
section
/-! DEFINITION. The state of the Canopy (R208 to R235) and of its commands in flight (R238 to R245). -/
namespace Sys2Proof.Machine

/-- Sixteen lanes and their active flags, R210. -/
structure Lanes where
  val : Wide
  act : BitVec 16
deriving DecidableEq, Repr

/-- A word in a port: its lanes, the prefix it carries when it begins a segment, the gcy it landed in and the rows of the whorl that emitted it, the urgent
context's in bits 7:4; in an in port every row of the hardware context whose stream brought it (R210, R211, R159, R245, R309). -/
structure CWord where
  lanes : Lanes
  pre : Option Nat
  landed : Nat
  rows : BitVec 8
deriving DecidableEq, Repr

/-- What a reduction had so far when a slot gave it back: the terms of an exact sum, and the values of any other reduction (R215, R216, R235). -/
structure Part where
  terms : List FVal
  codes : List Nat
deriving DecidableEq, Repr

/-- A reduction that began before a full switch: the words it had read, the lanes active in them, and what it had, lane by lane or of all lanes together
(R235, R338). -/
structure Past where
  n : Nat
  act : BitVec 16
  parts : List Part
deriving DecidableEq, Repr

/-- What a unit carries from one firing to the next (R215 to R225, R231). -/
structure UState where
  /-- Words read, oldest first, with their firing and the word on input B: since the segment or repeat began, or the last ones (MXQ). -/
  hist : List (Nat × Lanes × Lanes)
  /-- The word a REPEAT or a spread holds. -/
  word : Lanes
  cnt : Nat
  /-- Live base and extent of an INDEX (R220). -/
  base : BitVec 32
  ext : BitVec 32
  /-- What the segment or repeat had before the words of `hist`, where a switch lies between. -/
  past : Past
deriving DecidableEq, Repr

/-- What a unit put out in a firing: output 0 and output 1. -/
structure UOut where
  unit : Nat
  o0 : Lanes
  o1 : Lanes
deriving DecidableEq, Repr

/-- A firing from its cycle until its words reach the out ports (R229, R230). -/
structure Firing where
  /-- Its number since arming. -/
  m : Nat
  /-- The gcy it fired in. -/
  at_ : Nat
  first : Bool
  last : Bool
  /-- Elements of the segment left before this firing: its active lanes are the first sixteen of them. -/
  left : Nat
  /-- Elements of the segment it belongs to. -/
  len : Nat
  /-- Words consumed, by in port. -/
  ins : List (Nat × Lanes)
  /-- Live base and extent of each INDEX, and whether its selector was valid (R220, R221). -/
  live : List (Nat × BitVec 32 × BitVec 32 × Bool)
  outs : List UOut
  /-- The records of its MXQ units as they read them, by unit (R229). -/
  recs : List (Nat × Wide)
deriving DecidableEq, Repr

/-- An armed whorl, R228 to R233. -/
structure Whorl where
  id : Nat
  ctx : Fin 12
  rows : BitVec 4
  /-- Depths of its units (R228). -/
  depth : List (Nat × Nat)
  /-- Segment counter: elements left, and the length of the open segment (R230). -/
  seg : Nat
  len : Nat
  /-- Rounds an INDEX of op 0 has finished, and elements it has left (R220). -/
  round : Nat
  /-- Firings since arming. -/
  fired : Nat
  units : List (Nat × UState)
  /-- Firings in flight, oldest first. -/
  flight : List Firing
  /-- Gating phases: firings left before a REPEAT of op 0 or a spread takes its next word, by unit (R231). -/
  gate : List (Nat × Nat)
  /-- A fault stopped it (R233). -/
  dead : Bool
  /-- When and how it was armed: the cwhorl's bundle, for the traps its firings raise. -/
  pc : Nat
  slot : Nat
deriving DecidableEq, Repr

/-- A cwhorl between issue and start (R241). -/
structure WCmd where
  id : Nat
  ord : Nat
  pc : Nat
  slot : Nat
  start : Nat
  kpre : Fin 64
  ctx : Fin 12
  rows : BitVec 4
deriving DecidableEq, Repr

/-- The commands of the configuration port, R239, R243, R244. -/
inductive CfgKind where
  | cld | cst | cadj | ctab (unit : Fin 32)
deriving DecidableEq, Repr

/-- A configuration command in flight: its records (stored, derived or read so far). -/
structure CfgCmd where
  ord : Nat
  pc : Nat
  slot : Nat
  iss : Nat
  kind : CfgKind
  ctx : Fin 12
  rows : BitVec 4
  base : Nat
  recs : List Wide
  /-- Cancelled from this cycle on by a collision (R63). -/
  cut : Option Nat
deriving DecidableEq, Repr

/-- A cdrain waiting for its rows (R245). -/
structure DrainReq where
  id : Nat
  urgent : Bool
  rows : BitVec 4
  k : Fin 64
  iss : Nat
deriving DecidableEq, Repr

/-- The Canopy of a tile. -/
structure Canopy where
  /-- Records by unit and context (R212). -/
  recs : Vector (Vector Wide 12) 32
  mask : Vector (BitVec 12) 4
  inp : Vector (List CWord) 8
  outp : Vector (List CWord) 8
  /-- The stream feeding an in port has delivered its last element since the port was last released (R232): one of the main context bit 0, of the urgent context
  bit 1. -/
  fed : Vector (BitVec 2) 8
  /-- A whorl that drove the out port has disarmed since the count of streams given (R154): whorls disarmed so far, by out port. -/
  closed : Vector Nat 8
  /-- TABLE images by unit (20, 28) and hardware context (R218, R244). -/
  tabs : Vector (Vector Wide 13) 4
  whorls : List Whorl
  cmds : List WCmd
  /-- Configuration command of the main and of the urgent context. -/
  cfg : Vector (Option CfgCmd) 2
  drains : List DrainReq
  /-- Firings since kernel entry, by hardware context (R246). -/
  fires : Vector Nat 2
  /-- The cycle in which the arming port was last taken (R241). -/
  armed : Option Nat
deriving DecidableEq, Repr

/-- Nothing from before a switch. -/
def Past.none : Past := ⟨0, 0#16, []⟩

/-- A word without active lanes. -/
def Lanes.none : Lanes := ⟨0#512, 0#16⟩

/-- A unit that has read nothing yet. -/
def UState.start : UState := ⟨[], Lanes.none, 0, 0#32, 0#32, Past.none⟩

/-- The Canopy at a kernel's entry, R234 and R227. -/
def Canopy.entry : Canopy where
  recs := Vector.replicate 32 (Vector.replicate 12 0#512)
  mask := Vector.replicate 4 0x001#12
  inp := Vector.replicate 8 []
  outp := Vector.replicate 8 []
  fed := Vector.replicate 8 0#2
  closed := Vector.replicate 8 0
  tabs := Vector.replicate 4 (Vector.replicate 13 0#512)
  whorls := []
  cmds := []
  cfg := Vector.replicate 2 none
  drains := []
  fires := Vector.replicate 2 0
  armed := none

end Sys2Proof.Machine
end

