-- ==== Sys2Proof/Machine/State.lean ====
section
/-! DEFINITION. The state of a package (chapters 1 to 19), the two ways a step can stop, and the state after reset. -/
namespace Sys2Proof.Machine

/-- How the machine can stop: in no way. Every trap, abort and error of the spec is an effect on the state, and an access to an HBM byte
address at or above 768 GiB goes on with a free value (log 81). -/
inductive Fault where
deriving DecidableEq, Repr

/-- Why a step has no meaning. -/
inductive Refusal where
  /-- An instruction whose arm of exec is not written yet. Raised by exec. Safe. -/
  | notModelled (mnemonic : String)
deriving DecidableEq, Repr

/-- One hardware context of a tile, R11. -/
structure TileCtx where
  regs : Regs
  flow : Flow
  cr : CRegs
  /-- Core effects in flight (R58, R321), and the snapshot buffer. -/
  inflight : List Effect
  snap : List Effect
  /-- Other scheduled acts, and those kept while the group is stopped. -/
  acts : List Act
  kept : List Act
  cmdq : List QCmd
  /-- Writes the last sbar waits for (R182). -/
  bar : List WRef
  rings : List Ring
  bars : Vector BarView 64
  /-- The group it runs. -/
  group : Option Nat
  /-- The stack floor, R120. -/
  floor : Nat
deriving DecidableEq, Repr

/-- A tile, R9 and R10. -/
structure Tile where
  spad : Mem
  /-- The 64-byte words of scratchpad whose check value does not fit them (R399, R400). -/
  spadBad : List Nat
  imem : Mem
  main : TileCtx
  urg : TileCtx
  mx : Matrix
  cn : Canopy
  power : Power
  /-- The gcy in which each engine last became free (R169). -/
  engFree : Vector Nat 16
  /-- Writes issued per destination rank (R388). -/
  sent : List (Nat × Nat)
deriving DecidableEq, Repr

/-- What the Crown holds (R14). -/
structure Crown where
  ctxs : Vector Ctxt 64
  cwork : Vector CtxtWork 64
  queues : Vector Queue 2048
  /-- Barrier b of die d is element 64 d + b (R343). -/
  barriers : Vector Barrier 256
  bReqs : List BReq
  /-- Arrivals that land in this gcy, after a later barm of their tile (R348). -/
  bound : List Nat
  groups : List Group
  kernels : List Kernel
  /-- Selected records that wait for tiles (R286). -/
  sels : List Selection
deriving DecidableEq, Repr

/-- Streams, tokens and reports on their way. -/
structure Traffic where
  streams : List Stream
  toks : List TokMsg
  reloads : List Reload
  faults : List FaultMsg
  /-- Decoder units: the stream each serves, and the gcy it became free (R177). -/
  units : Vector (Option Nat × Nat) 16
deriving DecidableEq, Repr

/-- What the twelve Roots hold (R8). -/
structure Roots where
  versions : List Version
  walks : List WalkCopy
  descs : List DescCopy
  holds : List Hold
  /-- The pool lines held, by context and ticket, newest first with the gcy from which on: as far back as R313 may look. -/
  counted : List (Nat × List (Nat × Nat))
deriving DecidableEq, Repr

/-- The links and what has crossed them (chapter 18). -/
structure Links where
  ports : Vector Port 33
  reqs : List Request
  held : List HeldToken
  /-- Writes applied, by source rank and source tile (R388). -/
  applied : List (Nat × Nat × Nat)
  /-- What has left the package, oldest first. -/
  out : List Out
deriving DecidableEq, Repr

/-- A tile's saved context with its registers' bytes in the save area (R337): what is no byte of a register or a memory. -/
structure Saved where
  group : Nat
  tile : Nat
  ctx : TileCtx
  cn : Canopy
  cmds : List MCmd
  /-- Streams suspended with the tile, and those still queued. -/
  streams : List Stream
deriving DecidableEq, Repr

/-- Which slot issues: tile, urgent context, slot number, bundle address and the address after the bundle. -/
structure Cur where
  tile : Nat
  urgent : Bool
  slot : Nat
  pc : Nat
  next : Nat
  /-- A branch of this bundle: its target when taken (R66). -/
  branch : Option (Option Nat)
  /-- A loop of this bundle: the frame to open, or the end of a body to skip (R110). -/
  loop : Option (LoopF × Bool)
deriving DecidableEq, Repr

/-- What moves next within a cycle (log 3). -/
inductive Work where
  /-- A step of the package or of its surroundings. -/
  | event (i : Instr)
  /-- Aligned spans and barrier phases whose cycle has come are released (R51, R350). -/
  | releases
  /-- Effects scheduled for this cycle land. -/
  | edge
  /-- Whorls that can fire are offered their firing. -/
  | fires
  /-- Units of the Canopy read (R229). -/
  | units
  /-- Every counting tile is given its bundle. -/
  | issues
  /-- Slot `k` of the bundle of a tile's hardware context issues. -/
  | issue (t : Nat) (u : Bool) (k : Nat)
  /-- Engine commands whose start cycle this is start. -/
  | starts
  /-- The bank accesses of the cycle take place. -/
  | banks
  /-- Captures, dispatches and waits, which follow the issue of the cycle. -/
  | late
  /-- The asynchronous steps of the device that the schedule gives this cycle. -/
  | device
  /-- Those of the host and of the surroundings, which come after the device's (R275). -/
  | host
  /-- What takes place at the end of the cycle. -/
  | close
deriving DecidableEq, Repr

/-- The state of the package. -/
structure State where
  /-- R53. -/
  gcyc : BitVec 64
  work : List Work
  /-- The schedule of asynchronous steps, one list a cycle (log 3). -/
  offers : List (List Instr)
  cur : Cur
  /-- Free values taken so far (log 5). -/
  free : Nat
  /-- The next identifier for kernels, streams, commands, escapes and requests. -/
  nextId : Nat
  /-- Banks taken in this cycle (R64). -/
  busy : List Nat
  /-- Steps whose bank requests wait for a free cycle, the oldest first (R64), and whether the running step has been turned away. -/
  asks : List Instr
  refused : Bool
  tiles : Vector Tile 480
  /-- Tokens landed in this cycle, visible from the next on: tile, urgent, counter, amount, and the group whose counter it is (R70, R171). -/
  tokIn : List (Nat × Bool × Fin 64 × Nat × Option Nat)
  hbm : Mem
  /-- The 64-byte words of HBM whose check value does not fit them (R399, R400). -/
  hbmBad : List Nat
  shared : Vector Mem 4
  /-- Those of shared scratchpad, by die. -/
  sharedBad : List (Nat × Nat)
  /-- Region q of die d is element 16 d + q: the group it is bound to (R277). -/
  regions : Vector (Option Nat) 64
  crown : Crown
  traffic : Traffic
  roots : Roots
  links : Links
  boot : Boot
  therm : Therm
  saved : List Saved
deriving DecidableEq, Repr

/-- A hardware context that runs nothing. -/
def TileCtx.idle : TileCtx where
  regs := Regs.entry 0#64 (Vector.replicate 16 0#32)
  flow := Flow.entry 0
  cr := CRegs.entry
  inflight := []
  snap := []
  acts := []
  kept := []
  cmdq := []
  bar := []
  rings := []
  bars := Vector.replicate 64 BarView.entry
  group := none
  floor := 0

/-- A tile after reset: free, its memories listing nothing. -/
def Tile.reset : Tile where
  spad := []
  spadBad := []
  imem := []
  main := TileCtx.idle
  urg := TileCtx.idle
  mx := Matrix.entry
  cn := Canopy.entry
  power := .free 0
  engFree := Vector.replicate 16 0
  sent := []

/-- A free context, R268 and R376. -/
def Ctxt.reset : Ctxt where
  st := .free
  secure := false
  ttBase := 0
  ttCount := 0
  trapBase := 0
  trapLen := 0
  saveRoot := 0
  saveFrames := 0
  poolRoot := 0
  poolFrames := 0
  regions := 0#64
  urgent := false
  readback := false
  step := 0#48
  next := 0#16
  ct := 0xFFFF#16
  tqHead := 0#16
  tqTail := 0#16
  fatal := false
  ovf := false
  waiting := []
  fid := 0#32
  hwBase := 0#64
  hwLim := 0#64

/-- An unbound queue, R280. -/
def Queue.reset : Queue := ⟨.unbound, false, false, false, 0, 0, 0, 0#16, 0, 0#16, [], false, none, [], none⟩

/-- An unbound barrier, R344. -/
def Barrier.reset : Barrier := ⟨.unbound, false, none, 0#16, 0, 0, [], 0, (0, 0)⟩

/-- The package right after power-on, before R393's first step. -/
def State.reset : State where
  gcyc := 0#64
  work := []
  offers := []
  cur := ⟨0, false, 0, 0, 0, none, none⟩
  free := 0
  nextId := 1
  busy := []
  tiles := Vector.replicate 480 Tile.reset
  tokIn := []
  hbmBad := []
  sharedBad := []
  asks := []
  refused := false
  hbm := []
  shared := Vector.replicate 4 []
  regions := Vector.replicate 64 none
  crown := {
    ctxs := Vector.replicate 64 Ctxt.reset
    cwork := Vector.replicate 64 ⟨none, false, none, 0, []⟩
    queues := Vector.replicate 2048 Queue.reset
    barriers := Vector.replicate 256 Barrier.reset
    bReqs := []
    bound := []
    groups := []
    kernels := []
    sels := [] }
  traffic := ⟨[], [], [], [], Vector.replicate 16 (none, 0)⟩
  roots := ⟨[], [], [], [], []⟩
  links := ⟨Vector.replicate 33 ⟨.down, 0, 0#3, 0#2⟩, [], [], [], []⟩
  boot := {
    inReset := true
    stage := 0#4
    fail := 0#8
    digest := []
    crownEn := false
    rank := 0#10
    startList := []
    startGcy := 0#64
    startArmed := false
    segs := []
    segRej := false
    spcmd := 0#64
    spseq := 0#64
    spbuf := List.replicate 512 0#8
    spin := []
    owner := none
    mgmt := 0#64
    ctxcmd := 0#64
    pgcmd := 0#64
    pgdata := 0#64 }
  therm := ⟨false, false, 0#16, 0#12⟩
  saved := []

end Sys2Proof.Machine
end

