-- ==== Sys2Proof/Machine/Mem.lean ====
section
/-! DEFINITION. Byte memories in canonical form (R3; log 2): strictly rising addresses, no byte 0x00 listed. -/
namespace Sys2Proof.Machine

/-- The byte at an address: an unlisted one reads 0x00. -/
def Mem.get : Mem → Nat → Byte
  | [], _ => 0#8
  | (a, b) :: r, x => if a < x then Mem.get r x else if a == x then b else 0#8

/-- The listed bytes at or above an address. -/
def Mem.upFrom (m : Mem) (lo : Nat) : Mem := m.dropWhile fun c => decide (c.1 < lo)

/-- The listed bytes below an address. -/
def Mem.below (m : Mem) (hi : Nat) : Mem := m.takeWhile fun c => decide (c.1 < hi)

/-- Bytes as entries from an address on; 0x00 is not listed. -/
def Mem.cells (a : Nat) : List Byte → Mem
  | [] => []
  | b :: r => if b == 0#8 then Mem.cells (a + 1) r else (a, b) :: Mem.cells (a + 1) r

/-- `n` bytes from an address. -/
def Mem.read : Mem → Nat → Nat → List Byte
  | _, _, 0 => []
  | m, a, n + 1 => let r := m.upFrom a; r.get a :: Mem.read r (a + 1) n

/-- Writes bytes from an address. -/
def Mem.write (m : Mem) (a : Nat) (bs : List Byte) : Mem := m.below a ++ Mem.cells a bs ++ m.upFrom (a + bs.length)

/-- Addresses above `lo` rising, no 0x00 listed. -/
def Mem.wfFrom : Option Nat → Mem → Bool
  | _, [] => true
  | lo, (a, b) :: r => (match lo with | some l => decide (l < a) | none => true) && b != 0#8 && Mem.wfFrom (some a) r

/-- The canonical form. -/
def Mem.wf (m : Mem) : Bool := Mem.wfFrom none m

/-- A little-endian number of `n` bytes (R3). -/
def Mem.num (m : Mem) (a n : Nat) : Nat := leNat (m.read a n)

/-- Writes a little-endian number of `n` bytes. -/
def Mem.putNum (m : Mem) (a n v : Nat) : Mem := m.write a (leBytes n v)

/-- Every entry below `lo` or at or above `hi`: the bytes between zeroed (R309, R274). -/
def Mem.zero (m : Mem) (lo hi : Nat) : Mem := m.filter fun c => c.1 < lo || hi ≤ c.1

end Sys2Proof.Machine
end

