-- ==== Sys2Proof/Machine/Ops.lean ====
section
/-! DEFINITION. The named operations over the state: access to tiles, groups, kernels and registers, the schedule of effects
(R58, R321), and taking a trap (R319, R320, R324), freezing (R320 to R323) and eret (R325) beside it. -/
namespace Sys2Proof.Machine

/-- The outcome of a step. -/
abbrev Out' := Host.Outcome State Fault Refusal

/-- The step answers this next state. -/
def State.done (s : State) : Out' := .next s

/-! ### Tiles, contexts, groups, kernels -/

/-- Tile `t`. -/
def State.tile (s : State) (t : Nat) : Tile := vget s.tiles t Tile.reset

/-- Changes tile `t`. -/
def State.onTile (s : State) (t : Nat) (f : Tile → Tile) : State := { s with tiles := vmod s.tiles t f }

/-- A hardware context of a tile. -/
def Tile.ctx (x : Tile) (u : Bool) : TileCtx := if u then x.urg else x.main

/-- Changes a hardware context of a tile. -/
def Tile.onCtx (x : Tile) (u : Bool) (f : TileCtx → TileCtx) : Tile :=
  if u then { x with urg := f x.urg } else { x with main := f x.main }

/-- Hardware context `u` of tile `t`. -/
def State.tctx (s : State) (t : Nat) (u : Bool) : TileCtx := (s.tile t).ctx u

/-- Changes hardware context `u` of tile `t`. -/
def State.onCtx (s : State) (t : Nat) (u : Bool) (f : TileCtx → TileCtx) : State := s.onTile t fun x => x.onCtx u f

/-- The group of an id. -/
def State.group (s : State) (g : Nat) : Option Group := s.crown.groups.find? (·.id == g)

/-- Changes the group of an id. -/
def State.onGroup (s : State) (g : Nat) (f : Group → Group) : State :=
  { s with crown.groups := s.crown.groups.map fun x => if x.id == g then f x else x }

/-- The kernel of an id. -/
def State.kernel (s : State) (k : Nat) : Option Kernel := s.crown.kernels.find? (·.id == k)

/-- Changes the kernel of an id. -/
def State.onKernel (s : State) (k : Nat) (f : Kernel → Kernel) : State :=
  { s with crown.kernels := s.crown.kernels.map fun x => if x.id == k then f x else x }

/-- Context `c`. -/
def State.ctxt (s : State) (c : Nat) : Ctxt := vget s.crown.ctxs c Ctxt.reset

/-- Changes context `c`. -/
def State.onCtxt (s : State) (c : Nat) (f : Ctxt → Ctxt) : State := { s with crown.ctxs := vmod s.crown.ctxs c f }

/-- Queue `q`. -/
def State.queue (s : State) (q : Nat) : Queue := vget s.crown.queues q Queue.reset

/-- Changes queue `q`. -/
def State.onQueue (s : State) (q : Nat) (f : Queue → Queue) : State := { s with crown.queues := vmod s.crown.queues q f }

/-- The stream of an id. -/
def State.stream (s : State) (n : Nat) : Option Stream := s.traffic.streams.find? (·.id == n)

/-- Changes the stream of an id. -/
def State.onStream (s : State) (n : Nat) (f : Stream → Stream) : State :=
  { s with traffic.streams := s.traffic.streams.map fun x => if x.id == n then f x else x }

/-- A fresh identifier. -/
def State.fresh (s : State) : Nat × State := (s.nextId, { s with nextId := s.nextId + 1 })

/-- A free value (log 5): the spec says that a value results and not which. -/
def State.freeNat (s : State) : Nat × State := (Config.freeNat s.free, { s with free := s.free + 1 })

/-- Puts work in front of what is left of the cycle. -/
def State.push (s : State) (l : List Work) : State := { s with work := l ++ s.work }

/-- The package rank, R384. -/
def State.rank (s : State) : Nat := s.boot.rank.toNat

/-! ### Groups and time -/

/-- The diameter D of R51. -/
def Group.diameter (g : Group) : Nat := if g.whole then 20 + 12 * (g.rows - 1) else (g.rows - 1) + (g.cols - 1)

/-- F = 2D + 8, R320. -/
def Group.window' (g : Group) : Nat := 2 * g.diameter + 8

/-- The tiles of a group in position order: position and tile id (R315). -/
def Group.members (g : Group) : List (Nat × Nat × Nat) :=
  let rows := if g.whole then 10 * g.rows else g.rows
  let cols := if g.whole then 12 else g.cols
  (List.range rows).flatMap fun r => (List.range cols).map fun c =>
    (r, c, if g.whole then (g.place.die + r / 10) * 120 + r % 10 * 12 + c else g.place.die * 120 + (g.place.row + r) * 12 + g.place.col + c)

/-- The tile ids of a group. -/
def Group.tiles (g : Group) : List Nat := g.members.map (·.2.2)

/-- Whether a tile belongs to a group. -/
def Group.has (g : Group) (t : Nat) : Bool :=
  let die := t / 120
  let row := t % 120 / 12
  let col := t % 12
  if g.whole then g.place.die ≤ die && die < g.place.die + g.rows
  else die == g.place.die && g.place.row ≤ row && row < g.place.row + g.rows && g.place.col ≤ col && col < g.place.col + g.cols

/-- The tile of group position (0, 0). -/
def Group.home (g : Group) : Nat := if g.whole then g.place.die * 120 else g.place.die * 120 + g.place.row * 12 + g.place.col

/-- Whether the group cycle counter advances, R54. -/
def Group.counts (g : Group) : Bool :=
  !g.paused && (match g.st with
  | .running => true
  | .freezing _ => true
  | _ => false)

/-- Whether a group has started and stands still now (R402): frozen, handling, held, paused, switching or on its way back. -/
def Group.stopped (g : Group) : Bool :=
  !g.counts && (match g.st with
  | .placing _ => false
  | _ => true)

/-- The group a hardware context runs. -/
def State.groupOf (s : State) (t : Nat) (u : Bool) : Option Group := (s.tctx t u).group.bind s.group

/-- Whether a hardware context is in handler mode, R324. -/
def TileCtx.handling (c : TileCtx) : Bool := c.flow.handler.isSome

/-- Whether a hardware context's clock advances: its group counts, or it runs a handler (R54, R324). -/
def State.live (s : State) (t : Nat) (u : Bool) : Bool :=
  match s.groupOf t u with
  | some g => g.counts || (g.st == .handling && !g.paused && (s.tctx t u).handling)
  | none => false

/-- The clock a hardware context counts its latencies on: group cycles, or global cycles in handler mode (R54, R324). -/
def State.now (s : State) (t : Nat) (u : Bool) : Nat :=
  if (s.tctx t u).handling then s.gcyc.toNat else (s.groupOf t u).elim 0 (·.cnt)

/-- The context id of the kernel a hardware context runs. -/
def State.ctxOf (s : State) (t : Nat) (u : Bool) : Nat := (s.groupOf t u).elim 0 (·.ctx)

/-- The kernel a hardware context runs; none in bring-up (R397). -/
def State.kernelOf (s : State) (t : Nat) (u : Bool) : Option Kernel := (s.tctx t u).group.bind s.kernel

/-! ### Registers (R78) -/

/-- x0 reads as zero. -/
def Regs.getX (r : Regs) (i : Fin 64) : Word := if i == 0 then 0#64 else r.x[i]

/-- p0 reads as true. -/
def Regs.getP (r : Regs) (i : Fin 8) : Bool := i == 0 || r.p[i]

/-- vm0 reads as all ones. -/
def Regs.getVm (r : Regs) (i : Fin 8) : BitVec 16 := if i == 0 then 0xFFFF#16 else r.vm[i]

/-- The 512-bit mask of the lanes a lane mask selects (R125). -/
def laneBits (mask : BitVec 16) : Wide :=
  BitVec.ofNat 512 ((List.range 16).foldl (fun a i => if mask.getLsbD i then a + (2 ^ 32 - 1) * 2 ^ (32 * i) else a) 0)

/-- The bits a mask selects from one value, the others from another (R125). -/
def mergeBits (mask new old : Wide) : Wide := (new &&& mask) ||| (old &&& ~~~mask)

/-- Every bit of a register. -/
def allBits : Wide := BitVec.allOnes 512

/-- Word `o` of a walk record replaced. -/
def putWord (w : Wide) (o : Nat) (v : Word) : Wide :=
  let m := BitVec.ofNat 512 ((2 ^ 64 - 1) * 2 ^ (64 * o))
  (w &&& ~~~m) ||| BitVec.ofNat 512 (v.toNat * 2 ^ (64 * o))

/-- Writes a register; x0, p0 and vm0 discard (R78). -/
def Regs.put (r : Regs) (d : Dst) (v mask : Wide) : Regs :=
  match d with
  | .x i => if i == 0 then r else { r with x := r.x.set i (v.setWidth 64) }
  | .p i => if i == 0 then r else { r with p := r.p.set i (v.getLsbD 0) }
  | .v i => { r with v := r.v.set i (mergeBits mask v r.v[i]) }
  | .vm i => if i == 0 then r else { r with vm := r.vm.set i (v.setWidth 16) }
  | .w i o => { r with w := r.w.set i (putWord r.w[i] o.val (v.setWidth 64)) }
  | .wrec i => { r with w := r.w.set i v }

/-- Whether a write to a register is discarded, R78. -/
def Dst.void : Dst → Bool
  | .x i => i == 0
  | .p i => i == 0
  | .vm i => i == 0
  | _ => false

/-! ### The issuing slot -/

/-- The hardware context whose slot issues. -/
def State.me (s : State) : TileCtx := s.tctx s.cur.tile s.cur.urgent

/-- Changes the hardware context whose slot issues. -/
def State.onMe (s : State) (f : TileCtx → TileCtx) : State := s.onCtx s.cur.tile s.cur.urgent f

/-- The issuing context's clock (R54, R324). -/
def State.clock (s : State) : Nat := s.now s.cur.tile s.cur.urgent

/-- x[i] at issue (R56). -/
def State.x (s : State) (i : Fin 64) : Word := s.me.regs.getX i

/-- p[i] at issue. -/
def State.p (s : State) (i : Fin 8) : Bool := s.me.regs.getP i

/-- v[i] at issue. -/
def State.v (s : State) (i : Fin 32) : Wide := s.me.regs.v[i]

/-- vm[i] at issue. -/
def State.vm (s : State) (i : Fin 8) : BitVec 16 := s.me.regs.getVm i

/-- w[i] at issue. -/
def State.w (s : State) (i : Fin 32) : Wide := s.me.regs.w[i]

/-! ### Aborts and traps -/

/-- The place of a cause in the table of R299: lower stands higher. -/
def abortRank : Cause → Nat
  | .kill => 0
  | .budget => 1
  | .integrity | .meshError => 2
  | .txConflict => 3
  | .sapFull => 4
  | .userAbort => 5
  | _ => 6

/-- Gives a kernel an abort cause (R299, R300): the first cause of a gcy starts the abort, a higher one of the same gcy replaces it, and a
KILL does so for as long as the kernel lives (R272). -/
def State.abort (s : State) (k : Nat) (c : Cause) : State :=
  match s.kernel k with
  | none => s
  | some n =>
    match n.st with
    | .aborting =>
      if c == .kill || (n.abortAt == s.gcyc.toNat && abortRank c < abortRank (n.cause.getD c)) then s.onKernel k fun n => { n with cause := some c } else s
    | .committing | .retry => s
    | _ => (s.onKernel k fun n => { n with st := .aborting, cause := some c, abortAt := s.gcyc.toNat }).push [.event (.kernelAbort k)]

/-- Adds a trap to the window of a counting group, which freezes F cycles after the first (R319, R320). -/
def Group.trap (g : Group) (r : TrapRec) : Group :=
  match g.st with
  | .running => { g with st := .freezing (r.cyc + g.window'), window := g.window ++ [r] }
  | _ => { g with window := g.window ++ [r] }

/-- A trap raised by a tile's own instruction, access or command at the current cycle (R319). In handler mode every trap ends the
kernel, with HANDLER_OP or HANDLER_FAULT (R324), whose TINFO is 0 (R328). -/
def State.raise (s : State) (t : Nat) (u : Bool) (c : Cause) (info : Word) (fpc slot : Nat) : State :=
  match s.groupOf t u with
  | none => s
  | some g =>
    if (s.tctx t u).handling then
      let c := if c == .handlerOp then Cause.handlerOp else Cause.handlerFault
      (s.onGroup g.id fun g => { g with window := g.window ++ [⟨t, g.cnt, c, fpc, slot, 0#64⟩] }).abort g.id c
    else s.onGroup g.id fun g => g.trap ⟨t, g.cnt, c, fpc, slot, info⟩

/-- A trap of the issuing slot (R74, R99): nothing of the instruction takes place. -/
def State.trap (s : State) (c : Cause) (info : Word) : State :=
  s.raise s.cur.tile s.cur.urgent c info s.cur.pc s.cur.slot

/-- An asynchronous fault that reaches a tile (R319): a trap of the window while the group counts or until its disposition, kept
pending afterwards. -/
def State.raiseAsync (s : State) (gid t : Nat) (c : Cause) (info : Word) : State :=
  s.onGroup gid fun g =>
    let r : TrapRec := ⟨t, g.cnt, c, 0x3FFFF, 0xFF, info⟩
    if g.counts then g.trap r
    else match g.st with
      | .frozen => { g with window := g.window ++ [r] }
      | _ => { g with pend := g.pend ++ [r] }

/-- The causes a handler may take, R323. -/
def handleable : Cause → Bool
  | .timingMiss | .slotReuse | .tchkMismatch | .debugStep | .debugBreak | .debugHalt | .cycleAlarm | .halt | .softTrap | .debugWatch => true
  | _ => false

/-! ### The schedule of effects (R58, R321) -/

/-- Effects of a context that count toward the snapshot buffer's 64 entries (R321). -/
def TileCtx.full (c : TileCtx) : Bool := 64 ≤ c.inflight.length

/-- Schedules an effect of the issuing slot `l` cycles after issue; more than 64 in flight raise INFLIGHT_LIMIT and it has no effect (R321). -/
def State.sched (s : State) (l : Nat) (fl : Flags) (k : EKind) : State :=
  if s.me.full then s.trap .inflightLimit 0#64
  else
    let e : Effect := ⟨s.clock + l, s.me.flow.ord, s.cur.pc, s.cur.slot, fl, false, k⟩
    s.onMe fun c => { c with inflight := c.inflight ++ [e] }

/-- A register result of the issuing slot, written `l` cycles after issue; a discarded register takes none (R58, R59, R78). -/
def State.result (s : State) (l : Nat) (fl : Flags) (d : Dst) (v : Wide) (mask : Wide := allBits) : State :=
  if d.void && fl == 0#6 then s else s.sched l fl (.reg d v mask)

/-- A scalar result, R58. -/
def State.resultX (s : State) (l : Nat) (d : Fin 64) (v : Word) : State := s.result l 0#6 (.x d) (v.setWidth 512)

/-- A predicate result. -/
def State.resultP (s : State) (l : Nat) (d : Fin 8) (v : Bool) : State := s.result l 0#6 (.p d) (if v then 1#512 else 0#512)

/-- What a slot does beside the write of its x register; one effect in flight too many leaves it without any effect (R321). -/
def State.ifRoom (s : State) (d : Fin 64) (o : Out') : Out' := if d != 0 && s.me.full then (s.trap .inflightLimit 0#64).done else o

/-- Schedules an act of the issuing slot. -/
def State.act (s : State) (l : Nat) (k : ActKind) : State :=
  let a : Act := ⟨s.clock + l, s.me.flow.ord, s.cur.pc, s.cur.slot, k⟩
  s.onMe fun c => { c with acts := c.acts ++ [a] }

/-- Sets FPSTAT flags of a hardware context (R47). -/
def State.flagCtx (s : State) (t : Nat) (u : Bool) (f : Flags) : State :=
  if f == 0#6 then s else s.onCtx t u fun c => { c with cr := { c.cr with fpstat := c.cr.fpstat ||| f } }

/-- A token lands on a counter of the group that runs there: visible from the next cycle on (R70, R171). Counter 63 names none. -/
def State.token (s : State) (t : Nat) (u : Bool) (k : Fin 64) (n : Nat) : State :=
  if k == 63 then s else { s with tokIn := s.tokIn ++ [(t, u, k, n, (s.tctx t u).group)] }

/-! ### Check values (R399, R400) -/

/-- The numbers of the 64-byte words that bytes a .. a + n - 1 lie in. -/
def wordSpan (a n : Nat) : List Nat := if n == 0 then [] else (List.range ((a + n + 63) / 64 - a / 64)).map (a / 64 + ·)

/-- Words of a memory that are written whole or in part: each gets the check value of what it holds then (R399). -/
def freshWords (a n : Nat) (l : List Nat) : List Nat := l.filter fun i => n == 0 || i < a / 64 || (a + n + 63) / 64 ≤ i

/-- The words a scratchpad location of `n` bytes lies in; none in space 4 and 5. -/
def Loc.words (l : Loc) (n : Nat) : List WordAt :=
  match l with
  | .spad t o => (wordSpan o n).map (.spad t)
  | .shared d o => (wordSpan o n).map (.shared d)
  | _ => []

/-- The words of HBM that bytes lie in. -/
def hbmWords (a n : Nat) : List WordAt := (wordSpan a n).map .hbm

/-- Whether a word's check value does not fit it (R400). -/
def State.badWord (s : State) : WordAt → Bool
  | .spad t i => (s.tile t).spadBad.contains i
  | .shared d i => s.sharedBad.contains (d, i)
  | .hbm i => s.hbmBad.contains i

/-- Adds an element to a list without repeats. -/
def addOnce {α : Type} [BEq α] (l : List α) (x : α) : List α := if l.contains x then l else l ++ [x]

/-- A word carries a check value that does not fit it. -/
def State.markBad (s : State) : WordAt → State
  | .spad t i => s.onTile t fun x => { x with spadBad := addOnce x.spadBad i }
  | .shared d i => { s with sharedBad := addOnce s.sharedBad (d, i) }
  | .hbm i => { s with hbmBad := addOnce s.hbmBad i }

/-- A fault on its way to tile `t` of group `gid`, where it arises asynchronously (R319). -/
def State.tileFault (s : State) (gid t : Nat) (c : Cause) : State :=
  let (id, s) := s.fresh
  { s with traffic.faults := s.traffic.faults ++ [⟨id, gid, t, c, 0#64⟩] }

/-- A consumer of group `gid` on tile `t` meets a word whose check value does not fit: the kernel aborts with INTEGRITY (R400); in bring-up, without
a kernel, it is a trap of the tile (log 73). -/
def State.spoil (s : State) (gid t : Nat) : State :=
  if (s.kernel gid).isSome then s.abort gid .integrity else s.raiseAsync gid t .integrity 0#64

/-- Takes `n` from a token counter. -/
def Regs.takeK (r : Regs) (k : Fin 64) (n : Nat) : Regs := { r with k := r.k.set k (r.k[k] - BitVec.ofNat 32 n) }

end Sys2Proof.Machine
end

