-- ==== Sys2Proof/Machine/Operands.lean ====
section
/-! DEFINITION. Operand forms: tagged pointers, the target of an access, its checks and its latency (R107, R116 to R120, R326, R402). -/
namespace Sys2Proof.Machine

/-- The space of a tagged pointer, bits 63:60 (R107). -/
def ptrSpace (p : Word) : Nat := bits p.toNat 63 60

/-- The rank of a tagged pointer, bits 59:50. -/
def ptrRank (p : Word) : Nat := bits p.toNat 59 50

/-- The tile of a tagged pointer, bits 49:41. -/
def ptrTile (p : Word) : Nat := bits p.toNat 49 41

/-- The offset of a tagged pointer, bits 40:0. -/
def ptrOff (p : Word) : Nat := bits p.toNat 40 0

/-- The pointer with its tag kept and another offset (modulo 2^41). -/
def ptrWith (p : Word) (off : Int) : Word := BitVec.ofNat 64 (bits p.toNat 63 41 * 2 ^ 41 + narrow 41 off)

/-- A space-1 pointer. -/
def ptrOwn (off : Nat) : Word := BitVec.ofNat 64 (2 ^ 60 + off)

/-- The lower end of a hardware context's part of scratchpad, R11. -/
def partLo (u : Bool) : Nat := if u then 0x1E0000 else 0

/-- The upper end of a hardware context's part of scratchpad, R11. -/
def partHi (u : Bool) : Nat := if u then 0x200000 else 0x1E0000

/-- The lower end of a hardware context's instruction memory, R11. -/
def codeLo (u : Bool) : Nat := if u then 0x3C000 else 0

/-- The upper end of a hardware context's instruction memory, R11. -/
def codeHi (u : Bool) : Nat := if u then 0x40000 else 0x3C000

/-- An access by load, store or atomic. -/
inductive Access where
  | load | store | atomic
deriving DecidableEq, Repr

/-- The control registers R326 lists; true for those of class system. -/
def cregClass : Nat → Option Bool
  | 0x000 | 0x001 | 0x002 | 0x008 | 0x009 | 0x00A | 0x010 | 0x011 | 0x012 | 0x013 | 0x014 | 0x015 | 0x018 => some false
  | 0x020 | 0x021 | 0x022 => some true
  | _ => none

/-- The read-only control registers of R326. -/
def cregReadonly : Nat → Bool
  | 0x008 | 0x009 | 0x00A | 0x011 | 0x012 | 0x013 | 0x014 => true
  | _ => false

/-- The checks of R332 on a control register, in their order. -/
def cregFault (readback write : Bool) (cr : Nat) : Option Cause :=
  match cregClass cr with
  | none => some .cregInvalid
  | some sys =>
    if sys && !readback then some .privileged
    else if write && cregReadonly cr then some .cregReadonly
    else none

/-- The group whose image context `c` reads on tile `t`, R402: its stopped group there; where it has two, that of the issuing hardware context's kind, so that a
handler reads its own. -/
def State.imaged (s : State) (c : Nat) (u : Bool) (t : Nat) : Option Group :=
  let own (u : Bool) : Option Group := (s.groupOf t u).filter fun g => g.ctx == c && g.stopped
  (own u).orElse fun _ => own (!u)

/-- Whether the issuing kernel's context has the readback right (R269). -/
def State.readback (s : State) : Bool := (s.ctxt (s.ctxOf s.cur.tile s.cur.urgent)).readback

/-- Whether tile `t` holds a stopped group of context `c` (R402). -/
def State.stoppedHere (s : State) (c t : Nat) : Bool :=
  [false, true].any fun u => match s.groupOf t u with
    | some g => g.ctx == c && g.stopped
    | none => false

/-- R117's spaces and bounds, check 2 of R118: what the offset reaches. `spaces` are those the instruction accepts. An 8-byte access between two control
registers lies in their range, and check 3 refuses it (log 34). -/
def State.reach (s : State) (spaces : List Nat) (acc : Access) (ptr : Word) (off size : Nat) : Option Loc :=
  let sp := ptrSpace ptr
  if !spaces.contains sp then none
  else match sp with
    | 1 => if off < 2 ^ 21 then some (.spad s.cur.tile off) else none
    | 2 => if off < 2 ^ 21 && ptrTile ptr < 480 && ptrRank ptr == s.rank then some (.spad (ptrTile ptr) off) else none
    | 3 => if off < 2 ^ 28 then some (.shared (off / 2 ^ 26) (off % 2 ^ 26)) else none
    | 4 =>
      if acc == .atomic then none
      else if off < 0x40 then (if size ≤ 4 then some (.mailbox off) else none)
      else if 0x8000 ≤ off && off < 2 ^ 16 && size == 8 then some (.creg ((off - 0x8000) / 8))
      else none
    | 5 => if acc == .atomic then none else if off < 0x400000 then some (.readback (ptrTile ptr) off) else none
    | _ => none

/-- Check 5 of R118. -/
def State.rightsFault (s : State) (acc : Access) : Loc → Option Cause
  | .readback _ _ => if s.readback then none else some .privileged
  | .creg cr => cregFault s.readback (acc != .load) cr
  | _ => none

/-- Check 6 of R118: PERMISSION. Check 7 never fails once it passes, for a bound region is its group's context's (R277, R278). -/
def State.permitted (s : State) (acc : Access) (size : Nat) : Loc → Bool
  | .spad t off =>
    partLo s.cur.urgent ≤ off && off + size ≤ partHi s.cur.urgent
      && (t == s.cur.tile || (s.groupOf s.cur.tile s.cur.urgent).any (·.has t))
  | .shared d off => vget s.regions (16 * d + off / 2 ^ 22) none == s.me.group && s.me.group.isSome
  | .mailbox _ => acc == .load
  | .creg _ => true
  | .readback t _ => acc == .load && s.stoppedHere (s.ctxOf s.cur.tile s.cur.urgent) t

/-- Forms and checks the target of a scalar, vector or atomic access, R116 to R118 and R276; HANDLER_OP for spaces 2 and 3 in handler mode
comes first (R324). Answers what it reaches and its pointer, or the fault with TINFO's pointer. -/
def State.target (s : State) (spaces : List Nat) (acc : Access) (viaSp : Bool) (ptr : Word) (disp : Int) (size : Nat) :
    Except (Cause × Word) (Loc × Word) :=
  let off : Int := (ptrOff ptr : Int) + disp
  let p := ptrWith ptr off
  let sp := ptrSpace ptr
  if s.me.handling && (sp == 2 || sp == 3) then .error (.handlerOp, p)
  else if off < 0 || (2 ^ 41 : Nat) ≤ off then .error (.tagOverflow, p)
  else match s.reach spaces acc ptr off.toNat size with
    | none => .error (.spaceInvalid, p)
    | some l =>
      if off.toNat % size != 0 then .error (.misaligned, p)
      else if (sp == 2 || sp == 3) && !s.me.flow.aligned then .error (.spanDesync, p)
      else match s.rightsFault acc l with
        | some c => .error (c, p)
        | none =>
          if !s.permitted acc size l then .error (.permission, p)
          else if viaSp && sp == 1 && off.toNat < s.me.floor then .error (.stackOverflow, p)
          else .ok (l, p)

/-- Where a slice of a die's shared scratchpad sits: row and column (R277). -/
def slicePlace (slice : Nat) : Nat × Nat := (slice / 8 + 1, slice % 8 + 2)

/-- Absolute difference. -/
def absDiff (a b : Nat) : Nat := (a - b) + (b - a)

/-- 2h + 24c of R60 between a tile and a mesh position of a die. -/
def meshCycles (t die row col : Nat) : Nat :=
  2 * (absDiff (t % 120 / 12) row + absDiff (t % 12) col) + 24 * absDiff (t / 120) die

/-- The load latency of a target, R60, for an access of tile `t` through space `sp`. -/
def loadLatency (t sp : Nat) : Loc → Nat
  | .spad o _ => if sp == 2 then 12 + meshCycles t (o / 120) (o % 120 / 12) (o % 12) else 5
  | .shared d off => 16 + meshCycles t d (slicePlace (off / 2 ^ 20)).1 (slicePlace (off / 2 ^ 20)).2
  | _ => 5

/-- The control register's value as rdc returns it (R46, R138, R326). -/
def State.readCreg (s : State) (t : Nat) (u : Bool) (cr : Nat) : Word :=
  let c := s.tctx t u
  let g := s.groupOf t u
  match cr with
  | 0x000 => c.cr.fpstat.setWidth 64
  | 0x001 => c.cr.rbseed
  | 0x002 => c.cr.rbidx
  | 0x008 => BitVec.ofNat 64 (t + s.rank * 2 ^ 9)
  | 0x009 => match g with
    | none => 0#64
    | some g =>
      match g.members.find? (·.2.2 == t) with
      | none => 0#64
      | some (r, col, _) =>
        let rows := if g.whole then 10 * g.rows else g.rows
        let cols := if g.whole then 12 else g.cols
        BitVec.ofNat 64 (col + r * 2 ^ 8 + rows * 2 ^ 16 + cols * 2 ^ 24 + (if g.whole then 2 ^ 32 else 0))
  | 0x00A => match g with
    | none => 0#64
    | some g =>
      let direct := (s.kernel g.id).any (·.ticket.isNone)
      BitVec.ofNat 64 (g.ctx + (if (s.ctxt g.ctx).secure then 2 ^ 6 else 0) + (if u then 2 ^ 7 else 0) + (if direct then 2 ^ 8 else 0))
  | 0x010 => c.cr.tvec
  | 0x011 => c.cr.tcause
  | 0x012 => c.cr.tpc
  | 0x013 => c.cr.tcyc
  | 0x014 => c.cr.tinfo
  | 0x015 => c.cr.tscratch
  | 0x018 => c.cr.cycalarm
  | 0x020 => c.cr.dbgctl.setWidth 64
  | 0x021 => c.cr.bkpt
  | 0x022 => c.cr.watch
  | _ => 0#64

/-- Bits hi:lo of a word kept in place, the others zero. -/
def keepBits (v : Word) (hi lo : Nat) : Word := BitVec.ofNat 64 (bits v.toNat hi lo * 2 ^ lo)

/-- A wrc takes effect: reserved bits are ignored (R4, R332); FPSTAT takes the value before the flags of the same cycle (R48); RBSEED
clears RBIDX (R138). -/
def CRegs.write (c : CRegs) (cr : Nat) (v : Word) : CRegs :=
  match cr with
  | 0x000 => { c with fpstat := v.setWidth 6 }
  | 0x001 => { c with rbseed := v, rbidx := 0#64 }
  | 0x002 => { c with rbidx := v }
  | 0x010 => { c with tvec := keepBits v 17 2 }
  | 0x015 => { c with tscratch := v }
  | 0x018 => { c with cycalarm := v }
  | 0x020 => { c with dbgctl := v.setWidth 5 }
  | 0x021 => { c with bkpt := keepBits v 17 2 }
  | 0x022 => { c with watch := keepBits v 20 6 }
  | _ => c

end Sys2Proof.Machine
end

