-- ==== Sys2Proof/Machine/Flags.lean ====
section
/-! DEFINITION. Lane arithmetic of the vector unit with its FPSTAT flags (R124 to R137), and the atomics' new values (R123). -/
namespace Sys2Proof.Machine

/-- Width of an element, R124. -/
def laneWidth : LaneT → Nat
  | .f32 | .s32 | .z32 => 32
  | .bf16 | .s16 => 16
  | .s8 => 8

/-- Whether a lane type is signed, R124 (floats count as signed). -/
def laneSigned : LaneT → Bool
  | .z32 => false
  | _ => true

/-- The format of a floating-point lane type. -/
def laneFmt : LaneT → Option FFmt
  | .f32 => some fp32
  | .bf16 => some bf16
  | _ => none

/-- The 32 bits of lane `i`. -/
def lane (v : Wide) (i : Nat) : Nat := v.toNat / 2 ^ (32 * i) % 2 ^ 32

/-- The elements of a lane's 32 bits, R124. -/
def laneElems (t : LaneT) (l : Nat) : List Nat :=
  match t with
  | .bf16 => [l / 2 ^ 16]
  | .s16 => [l % 2 ^ 16, l / 2 ^ 16]
  | .s8 => [l % 2 ^ 8, l / 2 ^ 8 % 2 ^ 8, l / 2 ^ 16 % 2 ^ 8, l / 2 ^ 24]
  | _ => [l]

/-- A lane of elements; a BF16 lane has zero in bits 15:0 (R124). -/
def packLane (t : LaneT) (es : List Nat) : Nat :=
  match t with
  | .bf16 => es.headD 0 * 2 ^ 16
  | _ => es.foldr (fun e a => e + a * 2 ^ laneWidth t) 0

/-- A register of sixteen lanes. -/
def packLanes (ls : List Nat) : Wide := BitVec.ofNat 512 (ls.foldr (fun l a => l + a * 2 ^ 32) 0)

/-- All elements of a register in register-wide order, R124. -/
def regElems (t : LaneT) (v : Wide) : List Nat := (List.range 16).flatMap fun i => laneElems t (lane v i)

/-- A register of elements in register-wide order. -/
def packElems (t : LaneT) (es : List Nat) : Wide :=
  match t with
  | .bf16 => packLanes (es.map (· * 2 ^ 16))
  | _ => BitVec.ofNat 512 (es.foldr (fun e a => e + a * 2 ^ laneWidth t) 0)

/-- The value of an integer element. -/
def elemInt (t : LaneT) (e : Nat) : Int := if laneSigned t then sx (laneWidth t) e else (e : Int)

/-- Applies an element operation to the lanes a mask selects; the others give zero lanes and no flag (R125, R127). -/
def elementwise (t : LaneT) (mask : BitVec 16) (f : Nat → Nat → Nat → Nat × Flags) (a b d : Wide) : Wide × Flags :=
  let ls := (List.range 16).map fun i =>
    if mask.getLsbD i then
      let r := ((laneElems t (lane a i)).zip ((laneElems t (lane b i)).zip (laneElems t (lane d i)))).map fun (x, y, z) => f x y z
      (packLane t (r.map (·.1)), r.foldl (fun fl p => fl ||| p.2) 0#6)
    else (0, 0#6)
  (packLanes (ls.map (·.1)), ls.foldl (fun fl p => fl ||| p.2) 0#6)

/-- An integer or floating-point sum, R127. -/
def elemAdd (t : LaneT) (a b : Nat) : Nat × Flags :=
  match laneFmt t with
  | some f => f.add a b
  | none => ((a + b) % 2 ^ laneWidth t, 0#6)

/-- A difference, R127. -/
def elemSub (t : LaneT) (a b : Nat) : Nat × Flags :=
  match laneFmt t with
  | some f => f.sub a b
  | none => (narrow (laneWidth t) ((a : Int) - b), 0#6)

/-- A product, R127. -/
def elemMul (t : LaneT) (a b : Nat) : Nat × Flags :=
  match laneFmt t with
  | some f => f.mul a b
  | none => (a * b % 2 ^ laneWidth t, 0#6)

/-- a × b + d with one rounding, R127. -/
def elemFma (t : LaneT) (a b d : Nat) : Nat × Flags :=
  match laneFmt t with
  | some f => f.fma a b d
  | none => ((a * b + d) % 2 ^ laneWidth t, 0#6)

/-- The smaller or larger element, R127 and R31. -/
def elemPick (least : Bool) (t : LaneT) (a b : Nat) : Nat × Flags :=
  match laneFmt t with
  | some f => f.extreme least [a, b]
  | none => (if (if least then elemInt t b < elemInt t a else elemInt t a < elemInt t b) then b else a, 0#6)

/-- The absolute value, R127. -/
def elemAbs (t : LaneT) (a : Nat) : Nat × Flags :=
  match laneFmt t with
  | some f => if (f.val a).isNan then (f.canon, flagIf (f.val a).isSnan flNV) else (a % 2 ^ (laneWidth t - 1), 0#6)
  | none => (narrow (laneWidth t) (elemInt t a).natAbs, 0#6)

/-- The negation, R127. -/
def elemNeg (t : LaneT) (a : Nat) : Nat × Flags :=
  match laneFmt t with
  | some f =>
    if (f.val a).isNan then (f.canon, flagIf (f.val a).isSnan flNV)
    else ((a + 2 ^ (laneWidth t - 1)) % 2 ^ laneWidth t, 0#6)
  | none => (narrow (laneWidth t) (-(a : Int)), 0#6)

/-- The shift amount of an element, R129. -/
def elemAmount (t : LaneT) (b : Nat) : Nat := b % laneWidth t

/-- Left shift, R129. -/
def elemShl (t : LaneT) (a b : Nat) : Nat := a * 2 ^ elemAmount t b % 2 ^ laneWidth t

/-- Logical right shift, R129. -/
def elemShr (t : LaneT) (a b : Nat) : Nat := a / 2 ^ elemAmount t b

/-- Arithmetic right shift, R129. -/
def elemSra (t : LaneT) (a b : Nat) : Nat := narrow (laneWidth t) (sx (laneWidth t) a / (2 ^ elemAmount t b : Nat))

/-- A compare of two floating-point codes with its flag, R130. -/
def fpCompare (f : FFmt) (c : VCond) (a b : Nat) : Bool × Flags :=
  let x := f.val a
  let y := f.val b
  let nan := x.isNan || y.isNan
  let sig := x.isSnan || y.isSnan
  match c with
  | .eq => (x.eqv y, flagIf sig flNV)
  | .ne => (!x.eqv y, flagIf sig flNV)
  | .lt => (x.ltv y, flagIf nan flNV)
  | .le => (x.ltv y || x.eqv y, flagIf nan flNV)

/-- A compare of two elements with its flag, R130. -/
def elemCompare (t : LaneT) (c : VCond) (a b : Nat) : Bool × Flags :=
  match laneFmt t with
  | some f => fpCompare f c a b
  | none =>
    let x := elemInt t a
    let y := elemInt t b
    match c with
    | .eq => (x == y, 0#6)
    | .ne => (x != y, 0#6)
    | .lt => (decide (x < y), 0#6)
    | .le => (decide (x ≤ y), 0#6)

/-- The lane mask of a compare: a bit is set when every element of the lane meets the condition (R130). -/
def compareLanes (t : LaneT) (c : VCond) (a b : Wide) : BitVec 16 × Flags :=
  let rs := (List.range 16).map fun i => ((laneElems t (lane a i)).zip (laneElems t (lane b i))).map fun (x, y) => elemCompare t c x y
  (BitVec.ofNat 16 (rs.foldr (fun r m => (if r.all (·.1) then 1 else 0) + 2 * m) 0),
   rs.foldl (fun fl r => r.foldl (fun fl p => fl ||| p.2) fl) 0#6)

/-- The elements of the lanes a mask selects. -/
def participants (t : LaneT) (mask : BitVec 16) (v : Wide) : List Nat :=
  ((List.range 16).filter fun i => mask.getLsbD i).flatMap fun i => laneElems t (lane v i)

/-- The exact sum of participants, rounded once; as an integer without wrap (R136). The result is the 32-bit lane image or the exact integer. -/
def reduceAdd (t : LaneT) (es : List Nat) : Int × Flags :=
  match laneFmt t with
  | some f => let (c, fl) := f.round .rne false 0 (sumExact (es.map f.val)); ((packLane t [c] : Nat), fl)
  | none => (es.foldl (fun a e => a + elemInt t e) 0, 0#6)

/-- The extreme of participants, R136 and R31. -/
def reducePick (least : Bool) (t : LaneT) (es : List Nat) : Int × Flags :=
  match laneFmt t with
  | some f =>
    if es.isEmpty then ((packLane t [f.signed (!least) (f.maxCode + 1)] : Nat), 0#6)
    else let (c, fl) := f.extreme least es; ((packLane t [c] : Nat), fl)
  | none =>
    let w := laneWidth t
    let lo : Int := if laneSigned t then -(2 ^ (w - 1) : Nat) else 0
    let hi : Int := if laneSigned t then (2 ^ (w - 1) : Nat) - 1 else (2 ^ w : Nat) - 1
    (es.foldl (fun a e => if least then min a (elemInt t e) else max a (elemInt t e)) (if least then hi else lo), 0#6)

/-- The largest magnitude of participants, R136 and R31's amax rule; R84 lists floating-point types only. -/
def reduceMag (t : LaneT) (es : List Nat) : Int × Flags :=
  match laneFmt t with
  | some f => let (c, fl) := f.maxMag es; ((packLane t [c] : Nat), fl)
  | none => (es.foldl (fun a e => max a (elemInt t e).natAbs) (0 : Nat), 0#6)

/-- Prefix sums over the lanes, R136. -/
def scanAdd (t : LaneT) (mask : BitVec 16) (v : Wide) : Wide × Flags :=
  let rs := (List.range 16).map fun i => reduceAdd t (participants t (mask &&& BitVec.ofNat 16 (2 ^ (i + 1) - 1)) v)
  (packLanes (rs.map fun r => narrow 32 r.1), rs.foldl (fun fl r => fl ||| r.2) 0#6)

/-- The format of a floating-point conversion type, R137. -/
def cvtFmt : CvtT → Option FFmt
  | .f32 => some fp32
  | .bf16 => some bf16
  | .e4m3 => some e4m3
  | .e5m2 => some e5m2
  | _ => none

/-- Width and signedness of an integer conversion type. -/
def cvtInt : CvtT → Nat × Bool
  | .s16 => (16, true)
  | .s8 => (8, true)
  | .z32 => (32, false)
  | _ => (32, true)

/-- The lowest bit and the width of value `i` of a conversion type, R137. -/
def cvtPlace (t : CvtT) (i : Nat) : Nat × Nat :=
  match t with
  | .f32 | .s32 | .z32 => (32 * i, 32)
  | .bf16 => (32 * i + 16, 16)
  | .s16 => (16 * i, 16)
  | .s8 | .e4m3 | .e5m2 => (8 * i, 8)

/-- The range of an integer type. -/
def intRange (w : Nat) (signed : Bool) : Int × Int :=
  if signed then (-(2 ^ (w - 1) : Nat), (2 ^ (w - 1) : Nat) - 1) else (0, (2 ^ w : Nat) - 1)

/-- An integer to integer conversion from `ws` bits to `w`. A narrowing keeps the low bits, or clamps under .sat (R34); a widening
is exact (R137), and a negative value in an unsigned type keeps its two's complement bits, with no flag (DEDUCED, log 32). Between
types of one width the spec gives no rule for a value outside the destination's range: it is the opaque one of log 33 (DESIGN CHOICE). -/
def intConvert (ws w : Nat) (signed sat : Bool) (i : Int) : Nat × Flags :=
  let (lo, hi) := intRange w signed
  if lo ≤ i && i ≤ hi || ws < w then (narrow w i, 0#6)
  else if ws == w then ((Config.equalWidthInt w signed sat (narrow w i)).1 % 2 ^ w, flagIf (Config.equalWidthInt w signed sat (narrow w i)).2 flSAT)
  else if sat then (narrow w (satI i lo hi), flSAT) else (narrow w i, 0#6)

/-- One conversion of R137. -/
def convert (src dst : CvtT) (rm : Rm) (sat : Bool) (rw c : Nat) : Nat × Flags :=
  match cvtFmt src, cvtFmt dst with
  | some f, some g => f.convert g rm sat rw c
  | some f, none =>
    let (w, signed) := cvtInt dst
    let (lo, hi) := intRange w signed
    let (i, fl) := roundInt rm rw lo hi (f.val c)
    (narrow w i, fl)
  | none, some g =>
    let (w, signed) := cvtInt src
    g.round rm sat rw (.ofInt (if signed then sx w c else c) 0)
  | none, none =>
    let (w, signed) := cvtInt src
    let (w', signed') := cvtInt dst
    intConvert w w' signed' sat (if signed then sx w c else c)

/-- Sixteen conversions under a lane mask: the result, the bits it writes and the flags (R137). -/
def convertLanes (src dst : CvtT) (rm : Rm) (sat : Bool) (mask : BitVec 16) (rws : List Nat) (v : Wide) : Wide × Wide × Flags :=
  let rs := ((List.range 16).filter fun i => mask.getLsbD i).map fun i =>
    let (lo, w) := cvtPlace src i
    let (dlo, dw) := cvtPlace dst i
    let (c, fl) := convert src dst rm sat (rws.getD i 0) (v.toNat / 2 ^ lo % 2 ^ w)
    -- a BF16 lane is written whole, with zero in bits 15:0 (R124)
    if dst == CvtT.bf16 then (c * 2 ^ dlo, (2 ^ 32 - 1) * 2 ^ (32 * i), fl) else (c * 2 ^ dlo, (2 ^ dw - 1) * 2 ^ dlo, fl)
  (BitVec.ofNat 512 (rs.foldl (fun a r => a + r.1) 0), BitVec.ofNat 512 (rs.foldl (fun a r => a + r.2.1) 0),
   rs.foldl (fun fl r => fl ||| r.2.2) 0#6)

/-- The words of entry `n` of a random-bit queue, R139. -/
def rbqEntry (seed : Word) (n : Nat) : List Nat :=
  (List.range 16).map fun i => counterGen seed.toNat (2 ^ 63 + 16 * n + i)

/-- The new value an atomic writes and its flags, R123. -/
def atomicNew (op : AtomOp) (w : Nat) (old opnd cmp : Nat) : Nat × Flags :=
  match op with
  | .add => ((old + opnd) % 2 ^ w, 0#6)
  | .minS => (if sx w opnd < sx w old then opnd else old, 0#6)
  | .maxS => (if sx w old < sx w opnd then opnd else old, 0#6)
  | .and => (old &&& opnd, 0#6)
  | .or => (old ||| opnd, 0#6)
  | .xchg => (opnd, 0#6)
  | .cas => (if old == cmp then opnd else old, 0#6)
  | .fadd => fp32.add old opnd

/-- The old value as an atomic returns it, R123. -/
def atomicOld (op : AtomOp) (w : Nat) (old : Nat) : Word :=
  match op with
  | .minS | .maxS => BitVec.ofInt 64 (sx w old)
  | _ => BitVec.ofNat 64 old

end Sys2Proof.Machine
end

