-- ==== Sys2Proof/Machine/Issue.lean ====
section
/-! DEFINITION. Fetching a bundle, the checks of R86, and the bundle that follows (R50, R55 to R57, R66 to R68, R87, R110, R111, R324, R326). -/
namespace Sys2Proof.Machine

/-- The slot at a byte address of instruction memory. -/
def slotAt (m : Mem) (a : Nat) : Nat := m.num a 4

/-- The number of slots from `a` up to the first with S set, at most `n` of them; none when all `n` have S clear (R86). -/
def bundleLen (m : Mem) (a : Nat) : Nat → Option Nat
  | 0 => none
  | n + 1 => if slotAt m a / 2 ^ 31 == 1 then some 1 else (bundleLen m (a + 4) n).map (· + 1)

/-- The number of slots a bundle spans in the sequence: eight when none of them ends it (R86). -/
def bundleSpan (m : Mem) (a : Nat) : Nat := (bundleLen m a 8).getD 8

/-- The slots of a bundle. -/
def bundleSlots (m : Mem) (a n : Nat) : List Nat := (List.range n).map fun i => slotAt m (a + 4 * i)

/-- The slot classes of R80 by OP. -/
inductive SlotClass where
  | a | m | l | v | e | b
deriving DecidableEq, Repr

/-- The slot class of an OP, R80. -/
def slotClass (op : Nat) : SlotClass :=
  if op ≤ 0x0E then .a else if op ≤ 0x11 then .m else if op ≤ 0x27 then .b else if op ≤ 0x33 then .l else if op ≤ 0x5F then .e else .v

/-- OP of a slot, bits 30:24 (R76). -/
def slotOp (w : Nat) : Nat := w / 2 ^ 24 % 128

/-- Slots of one class. -/
def classCount (c : SlotClass) (ws : List Nat) : Nat := (ws.filter fun w => slotClass (slotOp w) == c).length

/-- An instruction that pops the random-bit queue at issue (R140). -/
def popsQueue : Instr → Bool
  | .vcvt _ _ _ _ r _ _ => r == .sr
  | _ => false

/-- Check 4 of R86: R10's limits, at most one B slot and that last, at most one pop. -/
def classesFit (ws : List Nat) (is : List Instr) : Bool :=
  classCount .a ws ≤ 2 && classCount .m ws ≤ 1 && classCount .l ws ≤ 2 && classCount .v ws ≤ 2 && classCount .e ws ≤ 2
    && (ws.dropLast.all fun w => slotClass (slotOp w) != .b)
    && (is.filter popsQueue).length ≤ 1

/-- A branch, R66. -/
def isBranch : Instr → Bool
  | .br _ _ _ | .brl _ _ _ | .jr _ _ _ | .mbr _ _ _ => true
  | _ => false

/-- A loop instruction. -/
def isLoop : Instr → Bool
  | .loop _ _ _ | .loopi _ _ _ => true
  | _ => false

/-- halt. -/
def isHalt : Instr → Bool
  | .halt => true
  | _ => false

/-- end. -/
def isEnd : Instr → Bool
  | .endK => true
  | _ => false

/-- The end field of a loop names a slot after the loop's own bundle (R86 check 3). -/
def loopEndFits (n : Nat) : Instr → Bool
  | .loop _ _ e => n ≤ e.toNat
  | .loopi _ _ e => n ≤ e.toNat
  | _ => true

/-- The matrix array serves the main context alone (R189). -/
def matrixSlot (w : Nat) (i : Instr) : Bool :=
  (0x43 ≤ slotOp w && slotOp w ≤ 0x52) || (match i with
  | .mstat _ _ => true
  | _ => false)

/-- Check 3 of R86 on the slots in order, with R189's: the instructions, or the first failing slot. R189 gives its ILLEGAL_OP no place among the checks of
R86; the model takes it as a part of check 3, so that it stands before the ILLEGAL_BUNDLE of check 4 (DESIGN CHOICE, log 95). -/
def decodeSlots (u : Bool) (n : Nat) : Nat → List Nat → Except Nat (List Instr)
  | _, [] => .ok []
  | k, w :: r =>
    match decodeSlot w with
    | .error _ => .error k
    | .ok i =>
      if !loopEndFits n i || (u && matrixSlot w i) then .error k
      else match decodeSlots u n (k + 1) r with
        | .ok is => .ok (i :: is)
        | .error e => .error e

/-- The start of the bundle that contains slot address `last`, searching forward from `a`. -/
def bundleWith (m : Mem) (last : Nat) : Nat → Nat → Nat
  | 0, a => a
  | n + 1, a => let e := a + 4 * bundleSpan m a; if last < e then a else bundleWith m last n e

/-- Whether the bundle at `a` is one of the last three of a body whose last bundle contains slot address `last` (R68). -/
def nearEnd (m : Mem) (last : Nat) : Nat → Nat → Bool
  | 0, _ => false
  | n + 1, a => let e := a + 4 * bundleSpan m a; if last < e then decide (a ≤ last) else nearEnd m last n e

/-- The rules that depend on where a bundle stands: R66 (delay bundles), R68 and R111 (ends of active bodies). -/
def placeFits (m : Mem) (f : Fetch) (is : List Instr) : Bool :=
  let a := f.pc
  let e := a + 4 * bundleSpan m a
  !(f.br.isSome && is.any fun i => isBranch i || isLoop i || isHalt i)
    && !(is.any isBranch && f.loops.any fun l => l.first ≤ a && nearEnd m l.last 3 a)
    && !(is.any isLoop && f.loops.any fun l => decide (a ≤ l.last) && decide (l.last < e))

/-- A bundle as the decoder leaves it: its instructions, or its fault with the failing slot (0xFF for the bundle), R86. -/
def checkBundle (m : Mem) (u : Bool) (f : Fetch) : Except (Cause × Nat) (List Instr) :=
  let a := f.pc
  let n := bundleSpan m a
  let len := bundleLen m a 8
  if a < codeLo u || codeHi u < a + 4 * n then
    .error (.illegalOp, (List.range 8).find? (fun i => a + 4 * i < codeLo u || codeHi u ≤ a + 4 * i) |>.getD 0)
  else if len.isNone then .error (.illegalBundle, 0xFF)
  else
    let ws := bundleSlots m a n
    match decodeSlots u n 0 ws with
    | .error k => .error (.illegalOp, k)
    | .ok is =>
      if !classesFit ws is then .error (.illegalBundle, 0xFF)
      else if !placeFits m f is then .error (.illegalBundle, 0xFF)
      else .ok is

/-- The fetch state in use: the handler's in handler mode (R324). -/
def TileCtx.fetchNow (c : TileCtx) : Fetch := c.flow.handler.getD c.flow.fetch

/-- Changes the fetch state in use. -/
def TileCtx.onFetch (c : TileCtx) (f : Fetch → Fetch) : TileCtx :=
  match c.flow.handler with
  | some h => { c with flow := { c.flow with handler := some (f h) } }
  | none => { c with flow := { c.flow with fetch := f c.flow.fetch } }

/-- Whether a hardware context issues a bundle in this cycle (R55). -/
def State.issues (s : State) (t : Nat) (u : Bool) : Bool :=
  let c := s.tctx t u
  s.live t u && !c.flow.ereting
    && (match s.groupOf t u with
      | some g => if g.counts then c.flow.ended.isNone && c.flow.wait.isNone else c.handling
      | none => false)

/-- The bundle a hardware context issues next, checked. -/
def State.bundle (s : State) (t : Nat) (u : Bool) : Except (Cause × Nat) (List Instr) :=
  checkBundle (s.tile t).imem u (s.tctx t u).fetchNow

/-- What stays of an effect when its tile ends, R310: stores, the memory half of an atomic, the lanes of a vsts. -/
def Effect.afterEnd (e : Effect) : Option Effect :=
  match e.kind with
  | .store _ _ _ => some e
  | .atomic _ _ _ _ _ _ _ _ => some { e with noReg := true }
  | .scatter _ _ _ => some e
  | _ => none

/-- Whether an act survives its tile's end, R310; the pop of the random-bit queue by a slot of end's own bundle does (R139). -/
def Act.afterEnd (a : Act) : Bool :=
  match a.kind with
  | .pop => true
  | .srel _ _ => true
  | .cctx _ _ => true
  | .cparam _ _ _ _ => true
  | _ => false

/-- What the end of a hardware context's program discards, R310. -/
def TileCtx.discard (c : TileCtx) : TileCtx :=
  { c with inflight := c.inflight.filterMap Effect.afterEnd, acts := c.acts.filter Act.afterEnd }

/-- Whether a hardware context issues end in this cycle: what it has due now is discarded before it lands (R310). -/
def State.endsNow (s : State) (t : Nat) (u : Bool) : Bool :=
  let c := s.tctx t u
  !(c.inflight.isEmpty && c.acts.isEmpty) && !c.handling && s.issues t u && (match s.bundle t u with
    | .ok is => is.any isEnd
    | .error _ => false)

/-- Ends a loop pass at the issue of a bundle from `a` to `e` (R110, R111): the frames left, the counters, and where the next bundle stands.
Every active loop whose last bundle this is steps, from the innermost on, until one goes back; a loop whose body runs on stays as it is. -/
def stepLoops (a e : Nat) : List LoopF → Vector (BitVec 32) 4 → List LoopF × Vector (BitVec 32) 4 × Option Nat
  | [], lc => ([], lc, none)
  | l :: r, lc =>
    if a ≤ l.last && l.last < e then
      let lc := lc.set l.lc (lc[l.lc] - 1)
      if lc[l.lc] != 0#32 then (l :: r, lc, some l.first) else stepLoops a e r lc
    else
      let (r, lc, back) := stepLoops a e r lc
      (l :: r, lc, back)

/-- The active loops a taken branch to `t` leaves (R68): the innermost ones whose body it lies outside end. -/
def leaveLoops (t : Nat) (ls : List LoopF) : List LoopF :=
  match (ls.reverse.takeWhile fun l => decide (l.first ≤ t) && decide (t ≤ l.last)) with
  | kept => kept.reverse

/-- The fetch state after the bundle from `a` to `e` has issued, with the branch or loop it held (R66, R67, R110). -/
def nextFetch (m : Mem) (c : Cur) (f : Fetch) (lc : Vector (BitVec 32) 4) : Fetch × Vector (BitVec 32) 4 :=
  let e := c.next
  let (loops, lc, back) := stepLoops f.pc e f.loops lc
  let after := back.getD e
  match c.loop with
  | some (l, true) =>
    let b := bundleWith m l.last (2 ^ 16) e
    (⟨b + 4 * bundleSpan m b, f.br, loops⟩, lc)
  | some (l, false) => (⟨e, f.br, l :: loops⟩, lc)
  | none =>
    match f.br with
    | some ⟨tgt, left⟩ =>
      if left ≤ 1 then
        match tgt with
        | some t => (⟨t, none, leaveLoops t loops⟩, lc)
        | none => (⟨after, none, loops⟩, lc)
      else (⟨after, some ⟨tgt, left - 1⟩, loops⟩, lc)
    | none =>
      match c.branch with
      | some tgt => (⟨after, some ⟨tgt, 2⟩, loops⟩, lc)
      | none => (⟨after, none, loops⟩, lc)

/-- Moves a hardware context past its bundle. -/
def State.advance (s : State) : State :=
  let m := (s.tile s.cur.tile).imem
  s.onMe fun c =>
    let (f, lc) := nextFetch m s.cur c.fetchNow c.regs.lc
    { c.onFetch (fun _ => f) with regs := { c.regs with lc := lc } }

/-- The first bundle after a wait begins a span at span cycle 0 (R50, R51); outside handler mode only. -/
def TileCtx.openSpan (c : TileCtx) (now : Nat) : TileCtx :=
  if c.handling then c
  else match c.flow.newSpan with
    | none => c
    | some a => { c with flow := { c.flow with newSpan := none, spanStart := now, aligned := a } }

/-- The debug traps of a bundle's issue, a handler's bundles included (R324): DEBUG_STEP (R329) and DEBUG_BREAK (R326). -/
def State.debugTraps (s : State) (pc : Nat) : State :=
  let c := s.me
  let s := if c.cr.dbgctl.getLsbD 0 then s.raise s.cur.tile s.cur.urgent .debugStep 0#64 pc 0xFF else s
  if c.cr.dbgctl.getLsbD 1 && c.cr.bkpt.toNat == pc then s.raise s.cur.tile s.cur.urgent .debugBreak 0#64 pc 0xFF else s

/-- The issue order of a slot. -/
def State.count (s : State) : State := s.onMe fun c => { c with flow := { c.flow with ord := c.flow.ord + 1 } }

/-- What slot `k` of a hardware context's bundle is, after the state its issue begins in. The first slot checks the bundle, opens
the span and raises the debug traps; a bundle refused by R86 traps and the sequence moves past it. Nothing issues once the kernel has
begun to abort (R300). -/
def State.slot (s : State) (t : Nat) (u : Bool) (k : Nat) : Option Instr × State :=
  if k == 0 then
    if !s.issues t u then (none, s)
    else
      let m := (s.tile t).imem
      let pc := (s.tctx t u).fetchNow.pc
      let s := { s with cur := ⟨t, u, 0, pc, pc + 4 * bundleSpan m pc, none, none⟩ }
      let s := s.onMe fun c => c.openSpan (s.now t u)
      match s.bundle t u with
      | .error (c, j) => (none, (s.raise t u c 0#64 pc j).advance)
      | .ok is => (is.head?, (s.debugTraps pc).count)
  else if (s.kernelOf t u).any (·.st == KState.aborting) then (none, s)
  else
    let s := { s with cur := { s.cur with slot := k } }
    match decodeSlot (slotAt (s.tile t).imem (s.cur.pc + 4 * k)) with
    | .ok i => (some i, s.count)
    | .error _ => (none, s)

/-- After a slot: the next slot of the bundle, or past the bundle. -/
def State.afterSlot (s : State) (t : Nat) (u : Bool) (k : Nat) : State :=
  if s.cur.pc + 4 * (k + 1) < s.cur.next then s.push [.issue t u (k + 1)] else s.advance

end Sys2Proof.Machine
end

