-- ==== Sys2Proof/Machine/Landing.lean ====
section
/-! DEFINITION. Effects that fall on one cycle: bank accesses with their collisions (R61 to R64), register results with theirs (R59),
and the order in which they take place (R56). -/
namespace Sys2Proof.Machine

/-- Who touches a bank. -/
inductive Party where
  /-- An effect or an act of the core, by its place in the issue order. -/
  | core (ord : Nat)
  /-- A lane of a vldg or vsts. -/
  | laneOf (ord : Nat)
  /-- A matrix command. -/
  | matrix (id : Nat)
  /-- The Canopy's configuration port. -/
  | config
deriving DecidableEq, Repr

/-- What an access does with its bank: a core load, a core store, or any access that shares its bank with none. -/
inductive BankUse where
  | load | store | alone
deriving DecidableEq, Repr

/-- The part of a bank an access takes: the bank, the 64-byte word in its memory, and the bytes of the word. -/
structure Span where
  bank : Nat
  word : Nat
  lo : Nat
  len : Nat
deriving DecidableEq, Repr

/-- One access to a bank in a cycle (R121): where, what for, and who makes it. -/
structure Touch where
  at_ : Span
  use : BankUse
  tile : Nat
  urgent : Bool
  party : Party
  ord : Nat
  pc : Nat
  slot : Nat
deriving DecidableEq, Repr

/-- The number of a scratchpad bank of a tile. -/
def spadBank (t off : Nat) : Nat := t * 256 + bits off 13 6

/-- The number of a bank of a shared-scratchpad slice, beyond all tiles' banks. -/
def sharedBank (d off : Nat) : Nat := 480 * 256 + (d * 64 + off / 2 ^ 20) * 256 + bits off 13 6

/-- `n` bytes of a tile's scratchpad in their bank. -/
def spadSpan (t o n : Nat) : Span := ⟨spadBank t o, o / 64, o % 64, n⟩

/-- The place of `n` bytes at a location in their bank; none for space 4 and 5 (R119). -/
def Loc.span (l : Loc) (n : Nat) : Option Span :=
  match l with
  | .spad t o => some (spadSpan t o n)
  | .shared d o => some ⟨sharedBank d o, o / 64, o % 64, n⟩
  | _ => none

/-- The lane, offset and value of the scatter lanes, or offsets of the gather lanes, due at `i` cycles after the first. -/
def lanesAt {α : Type} (i : Nat) (l : List (Nat × α)) : List (Nat × α) := l.filter (·.1 == i)

/-- What an effect touches at a cycle, R61 and R62: the place, its use, and whether it is a lane. -/
def Effect.banks (e : Effect) (now : Nat) : List (Span × BankUse × Bool) :=
  let one (l : Loc) (n : Nat) (u : BankUse) := (l.span n).toList.map fun b => (b, u, false)
  match e.kind with
  | .reg _ _ _ => []
  | .load l _ n _ _ _ => if now + 3 == e.due then one l n .load else []
  | .store l _ bs => if now == e.due then one l bs.length .store else []
  | .atomic l _ _ w64 _ _ _ _ => if now < e.due && e.due ≤ now + 3 then one l (if w64 then 8 else 4) .alone else []
  | .gather t _ ls _ _ => if e.due ≤ now + 18 then (lanesAt (now + 18 - e.due) ls).map fun x => (spadSpan t x.2 4, .alone, true) else []
  | .scatter t ls _ => if e.due ≤ now + 15 then (lanesAt (now + 15 - e.due) ls).map fun x => (spadSpan t x.2.1 4, .alone, true) else []

/-- What an act touches: the record of an esc or a qlaunch (R287, R312). -/
def Act.banks (a : Act) (t now : Nat) : List Span :=
  if a.due != now then [] else match a.kind with
  | .esc off _ _ => [spadSpan t off 64]
  | .qlaunch _ _ off _ => [spadSpan t off 64]
  | _ => []

/-- The accesses of a hardware context's core in this cycle. -/
def State.coreTouches (s : State) (t : Nat) (u : Bool) : List Touch :=
  let c := s.tctx t u
  let now := s.now t u
  (c.inflight.flatMap fun e => (e.banks now).map fun (b, use, ln) =>
      ⟨b, use, t, u, if ln then .laneOf e.ord else .core e.ord, e.ord, e.pc, e.slot⟩)
    ++ (c.acts.flatMap fun a => (a.banks t now).map fun b => ⟨b, .load, t, u, .core a.ord, a.ord, a.pc, a.slot⟩)

/-- A core store performs and a core load samples bytes it stores: the load sees them (R61, log 10). -/
def Touch.feeds (x y : Touch) : Bool :=
  x.use == .store && y.use == .load && x.at_.lo ≤ y.at_.lo && y.at_.lo + y.at_.len ≤ x.at_.lo + x.at_.len

/-- Two accesses collide: one bank, and neither two core loads of one word nor a store and a load of bytes it stores (R61, R63, log 10). -/
def Touch.clash (x y : Touch) : Bool :=
  x.at_.bank == y.at_.bank
    && !(x.at_.word == y.at_.word && (x.use == .load && y.use == .load || x.feeds y || y.feeds x))

/-- The accesses that clash with another of the list. -/
def clashing : List Touch → List Touch → List Touch
  | _, [] => []
  | before, x :: after =>
    if (before ++ after).any x.clash then x :: clashing (before ++ [x]) after else clashing (before ++ [x]) after

/-- The accesses a collision cancels, R63: every one of the cycle on a bank on which two clash. -/
def struck (l : List Touch) : List Touch :=
  let hit := clashing [] l
  l.filter fun x => hit.any (·.at_.bank == x.at_.bank)

/-- The banks that occur in a list of accesses, each once. -/
def banksOf (l : List Touch) : List Nat := (l.map (·.at_.bank)).eraseDups

/-- The tile and context that raise BANK_COLLIDE for a bank: the owner, or every tile of the collision for shared scratchpad (R121). -/
def raisers (b : Nat) (l : List Touch) : List (Nat × Bool) :=
  if b < 480 * 256 then [(b / 256, l.head?.any (·.urgent))] else (l.map fun x => (x.tile, x.urgent)).eraseDups

/-- The access of a collision a trap is laid to: the earliest issued of the raising tile, or of all (log 11). -/
def blame (t : Nat) (l : List Touch) : Option Touch :=
  let own := l.filter (·.tile == t)
  (if own.isEmpty then l else own).foldl (fun m x => match m with
    | none => some x
    | some y => if x.ord < y.ord then some x else some y) none

/-- The pointer TINFO holds for a collision on a bank (log 11). -/
def clashInfo (b : Nat) (x : Touch) : Word :=
  if b < 480 * 256 then ptrOwn (x.at_.word * 64)
  else BitVec.ofNat 64 (3 * 2 ^ 60 + (b - 480 * 256) / 256 / 64 * 2 ^ 26 + x.at_.word * 64)

/-- Raises BANK_COLLIDE for every bank of the collisions of a cycle (R63, R121). -/
def State.raiseClashes (s : State) (bad : List Touch) : State :=
  (banksOf bad).foldl (fun s b =>
    let l := bad.filter (·.at_.bank == b)
    (raisers b l).foldl (fun s (t, u) => match blame t l with
      | some x => s.raise t u .bankCollide (clashInfo b x) x.pc x.slot
      | none => s) s) s

/-- Cancels the core's parties of a collision (R63): a load, store, atomic, esc or qlaunch is dropped whole; a gather is dropped; a
scatter keeps no lane from the colliding one on. -/
def State.cancelCore (s : State) (x : Touch) : State :=
  s.onCtx x.tile x.urgent fun c =>
    { c with inflight := c.inflight.filter fun e => e.ord != x.ord, acts := c.acts.filter fun a => a.ord != x.ord || a.kind == .pop }

/-- Bytes at a scratchpad location. -/
def State.readLoc (s : State) (l : Loc) (n : Nat) : List Byte :=
  match l with
  | .spad t o => (s.tile t).spad.read o n
  | .shared d o => (vget s.shared d []).read o n
  | _ => []

/-- Writes bytes at a scratchpad location; every word written gets its check value (R399). -/
def State.writeLoc (s : State) (l : Loc) (bs : List Byte) : State :=
  match l with
  | .spad t o => s.onTile t fun x => { x with spad := x.spad.write o bs, spadBad := freshWords o bs.length x.spadBad }
  | .shared d o => { s with
      shared := vmod s.shared d fun m => m.write o bs
      sharedBad := s.sharedBad.filter fun x => x.1 != d || bs.isEmpty || x.2 < o / 64 || (o + bs.length + 63) / 64 ≤ x.2 }
  | _ => s

/-- The hardware contexts whose clock advances, in tile order. -/
def State.liveCtxs (s : State) : List (Nat × Bool) :=
  (s.crown.groups.flatMap fun g => g.tiles.map fun t => (t, g.urgent)).filter fun (t, u) => s.live t u && (s.tctx t u).group.isSome

/-- Whether WATCH matches an access of a context (R326, R329). -/
def TileCtx.watches (c : TileCtx) (ptr : Word) (read write : Bool) : Bool :=
  ptrSpace ptr == 1 && ptrOff ptr / 64 == bits c.cr.watch.toNat 20 6
    && ((read && c.cr.dbgctl.getLsbD 2) || (write && c.cr.dbgctl.getLsbD 3))

/-- Raises DEBUG_WATCH for an effect at its bank cycle; the access takes effect (R326). -/
def State.watch (s : State) (t : Nat) (u : Bool) (e : Effect) (ptr : Word) (read write : Bool) : State :=
  if (s.tctx t u).watches ptr read write then s.raise t u .debugWatch ptr e.pc e.slot else s

/-- The writing half of an effect at this cycle: stores, the write of an atomic, a lane of a vsts (R61, R62, R123). -/
def State.performWrite (s : State) (t : Nat) (u : Bool) (now : Nat) (e : Effect) : State :=
  match e.kind with
  | .store l p bs =>
    if e.due != now then s
    else match l with
      | .creg cr =>
        s.onCtx t u fun c => { c with acts := c.acts ++ [⟨now + 1, e.ord, e.pc, e.slot, .wrc cr (BitVec.ofNat 64 (leNat bs))⟩] }
      | _ => (s.watch t u e p false true).writeLoc l bs
  | .atomic l _ op w64 _ opnd cmp (some old) =>
    if e.due != now + 1 then s
    else
      let w := if w64 then 64 else 32
      let (v, fl) := atomicNew op w old.toNat (opnd.toNat % 2 ^ w) (cmp.toNat % 2 ^ w)
      (s.writeLoc l (leBytes (w / 8) v)).flagCtx t u fl
  | .scatter ti ls _ =>
    if now + 15 < e.due then s
    else (lanesAt (now + 15 - e.due) ls).foldl (fun s x => (s.watch t u e (ptrOwn x.2.1) false true).writeLoc (.spad ti x.2.1) (leBytes 4 x.2.2.toNat)) s
  | _ => s

/-- The value a load of anything but a control register finds, R119 and R402. `image` is the readback of a tile for a context. -/
def State.loadVal (s : State) (image : State → Nat → Bool → Nat → Nat → Nat → Nat) (t : Nat) (u : Bool) (l : Loc) (n : Nat) : Nat :=
  match l with
  | .mailbox o => (packLanes ((s.tctx t u).regs.mb.toList.map (·.toNat))).toNat / 2 ^ (8 * o) % 2 ^ (8 * n)
  | .readback o off => image s (s.ctxOf t u) u o off n
  | _ => leNat (s.readLoc l n)

/-- The scratchpad that a location in the main or urgent scratchpad part of a tile's image shows (R402, R337). -/
def State.imagedSpad (s : State) (t : Nat) (u : Bool) (l : Loc) : Loc :=
  match l with
  | .readback o off => match s.imaged (s.ctxOf t u) u o with
    | some g => if off < 0x1E0000 && !(g.urgent && 0x20000 ≤ off) then .spad o (partLo g.urgent + off) else l
    | none => l
  | l => l

/-- Whether bytes at a location carry check values that do not fit them (R400). -/
def State.badLoc (s : State) (l : Loc) (n : Nat) : Bool := (l.words n).any s.badWord

/-- A core access that reads a word whose check value does not fit samples nothing: the kernel aborts (R400). -/
def State.spoilCore (s : State) (t : Nat) (u : Bool) : State := (s.tctx t u).group.elim s fun g => s.spoil g t

/-- The reading half of an effect at this cycle: it keeps what it sampled (R61, R62). -/
def State.sample (s : State) (image : State → Nat → Bool → Nat → Nat → Nat → Nat) (t : Nat) (u : Bool) (now : Nat) (e : Effect) : Effect × State :=
  match e.kind with
  | .load (.creg _) _ _ _ _ none => (e, s)
  | .load l p n sg d none =>
    if e.due != now + 3 then (e, s)
    else if s.badLoc (s.imagedSpad t u l) n then (e, s.spoilCore t u)
    else ({ e with kind := .load l p n sg d (some (BitVec.ofNat 512 (s.loadVal image t u l n))) }, s.watch t u e p true false)
  | .atomic l p op w64 d a b none =>
    if e.due != now + 3 then (e, s)
    else if s.badLoc l (if w64 then 8 else 4) then (e, s.spoilCore t u)
    else
      let v := BitVec.ofNat 64 (leNat (s.readLoc l (if w64 then 8 else 4)))
      ({ e with kind := .atomic l p op w64 d a b (some v) }, s.watch t u e p true true)
  | .gather ti d ls got all =>
    if now + 18 < e.due then (e, s)
    else
      let xs := lanesAt (now + 18 - e.due) ls
      if xs.any fun x => s.badLoc (.spad ti x.2) 4 then (e, s.spoilCore t u)
      else
        let s := xs.foldl (fun s x => s.watch t u e (ptrOwn x.2) true false) s
        ({ e with kind := .gather ti d ls (got ++ xs.map fun x => (x.1, BitVec.ofNat 32 (leNat (s.readLoc (.spad ti x.2) 4)))) all }, s)
  | _ => (e, s)

/-- Samples every effect of a context. -/
def State.sampleAll (s : State) (image : State → Nat → Bool → Nat → Nat → Nat → Nat) (t : Nat) (u : Bool) : State :=
  let now := s.now t u
  let (es, s) := (s.tctx t u).inflight.foldl (fun (l, s) e => let (e, s) := s.sample image t u now e; (l ++ [e], s)) ([], s)
  s.onCtx t u fun c => { c with inflight := es }

/-- Loads of control registers sample as an rdc of this cycle does (R119): FPSTAT (`late`) after the flags of the cycle (R48), every other
before the pops at the cycle's end (R139). -/
def State.sampleCregs (s : State) (t : Nat) (u late : Bool) : State :=
  let now := s.now t u
  let got (e : Effect) : Effect := match e.kind with
    | .load (.creg cr) p n sg d none =>
      if e.due == now + 3 && (cr == 0) == late then { e with kind := .load (.creg cr) p n sg d (some ((s.readCreg t u cr).setWidth 512)) } else e
    | _ => e
  s.onCtx t u fun c => { c with inflight := c.inflight.map got }

/-- The register an effect writes when it lands, with the value and the bits it writes (R58, R121, R123, R143). -/
def Effect.write (e : Effect) : Option (Dst × Wide × Wide) :=
  if e.noReg then none else match e.kind with
  | .reg d v m => some (d, v, m)
  | .load _ _ n sg d (some v) =>
    some (d, if sg then BitVec.ofInt 512 (sx (8 * n) v.toNat) else v, allBits)
  | .atomic _ _ op w64 d _ _ (some old) => some (.x d, (atomicOld op (if w64 then 64 else 32) old.toNat).setWidth 512, allBits)
  | .gather _ d _ got all =>
    let val := got.foldl (fun a x => a + x.2.toNat * 2 ^ (32 * x.1)) 0
    some (.v d, BitVec.ofNat 512 val, laneBits (BitVec.ofNat 16 (all.foldl (fun a i => a + 2 ^ i) 0)))
  | _ => none

/-- An effect whose last cycle is a bank access: it has no landing. -/
def Effect.storing (e : Effect) : Bool :=
  match e.kind with
  | .store _ _ _ | .scatter _ _ _ => true
  | _ => false

/-- Whether two results write one architectural register (R59, R173, R174). -/
def Dst.same (a b : Dst) : Bool :=
  match a, b with
  | .w r _, .wrec q => r == q
  | .wrec r, .w q _ => r == q
  | _, _ => a == b

/-- The writes of one cycle that reach a register another of them reaches too (R59); `same` says whether two writes do. -/
def meeting {α : Type} (same : α → α → Bool) : List α → List α → List α
  | _, [] => []
  | before, x :: after => if (before ++ after).any (same x) then x :: meeting same (before ++ [x]) after else meeting same (before ++ [x]) after

/-- Of writes that meet, the first for each register (R59). -/
def firstOfEach {α : Type} (same : α → α → Bool) : List α → List α
  | [] => []
  | x :: l => x :: (firstOfEach same l).filter fun y => !same x y

/-- A write of a register by an effect as it lands. -/
structure Landing where
  eff : Effect
  dst : Dst
  val : Wide
  mask : Wide
deriving DecidableEq, Repr

/-- The write of an effect, none where the register discards it (R59, R78). -/
def Effect.landing (e : Effect) : Option Landing :=
  e.write.bind fun (d, v, m) => if d.void then none else some ⟨e, d, v, m⟩

/-- Two landings of different slots on one register. -/
def Landing.meets (x y : Landing) : Bool := x.eff.ord != y.eff.ord && x.dst.same y.dst

/-- Lands the results of a context due in this cycle: WAW_COLLIDE once for each register that two write, in landing order otherwise (R56, R59);
FPSTAT takes their flags (R48). Effects whose last cycle this is leave the list. -/
def State.landRegs (s : State) (t : Nat) (u : Bool) : State :=
  let now := s.now t u
  let due := (s.tctx t u).inflight.filter (·.due == now)
  let ws := due.filterMap Effect.landing
  let met := meeting Landing.meets [] ws
  let s := s.onCtx t u fun c => { c with inflight := c.inflight.filter fun e => e.due != now || e.storing }
  let s := (firstOfEach Landing.meets met).foldl (fun s x => s.raise t u .wawCollide 0#64 x.eff.pc x.eff.slot) s
  let s := ws.foldl (fun s x => if met.contains x then s else s.onCtx t u fun c => { c with regs := c.regs.put x.dst x.val x.mask }) s
  (due.filter fun e => !e.storing).foldl (fun s e => if met.any (·.eff.ord == e.ord) then s else s.flagCtx t u e.flags) s

/-- The write of a control register an act makes in this cycle: the act, the register and the value. -/
def Act.cregWrite (now : Nat) (a : Act) : Option (Act × Nat × Word) :=
  match a.kind with
  | .wrc cr v => if a.due == now then some (a, cr, v) else none
  | _ => none

/-- Two writes of different slots reach one control register: a write of RBSEED clears RBIDX too (R59, R138). -/
def cregMeet (x y : Act × Nat × Word) : Bool :=
  x.1.ord != y.1.ord && (x.2.1 == y.2.1 || (x.2.1 == 1 || x.2.1 == 2) && (y.2.1 == 1 || y.2.1 == 2))

/-- Whether a write of RBSEED or RBIDX takes place in this cycle: no other one meets it (R59). -/
def State.reseeds (s : State) (t : Nat) (u : Bool) : Bool :=
  let ws := (s.tctx t u).acts.filterMap (Act.cregWrite (s.now t u))
  ws.any fun x => (x.2.1 == 1 || x.2.1 == 2) && !(meeting cregMeet [] ws).contains x

/-- wrc writes due in this cycle, stores to control registers among them (R119, R332): two of one register raise WAW_COLLIDE and neither
writes (R59). -/
def State.landWrc (s : State) (t : Nat) (u : Bool) : State :=
  let ws := (s.tctx t u).acts.filterMap (Act.cregWrite (s.now t u))
  let met := meeting cregMeet [] ws
  let s := (firstOfEach cregMeet met).foldl (fun s x => s.raise t u .wawCollide 0#64 x.1.pc x.1.slot) s
  ws.foldl (fun s x => if met.contains x then s else s.onCtx t u fun c => { c with cr := c.cr.write x.2.1 x.2.2 }) s

end Sys2Proof.Machine
end

