-- ==== Sys2Proof/Machine/Scalar.lean ====
section
/-! DEFINITION. Scalar arithmetic, predicates, constants and pointers (R99 to R107, R115; R266). -/
namespace Sys2Proof.Machine

/-- A slot of class E, or another that may not issue in a handler: HANDLER_OP there (R324). -/
def State.notInHandler (s : State) (k : Out') : Out' := if s.me.handling then (s.trap .handlerOp 0#64).done else k

/-- The immediate of class RI, sign-extended (R77). -/
def imm12 (i : BitVec 12) : Word := i.signExtend 64

/-- Leading zero bits, R100. -/
def clz64 (x : Word) : Nat := if x == 0#64 then 64 else 63 - Nat.log2 x.toNat

/-- Trailing zero bits, R100. -/
def ctz64 (x : Word) : Nat := ((List.range 64).find? fun i => x.getLsbD i).getD 64

/-- One bits, R100. -/
def popc64 (x : Word) : Nat := ((List.range 64).filter fun i => x.getLsbD i).length

/-- nop, R115. -/
def execNop (s : State) : Out' := s.done

/-- add, R100. -/
def execAdd (d a b : Fin 64) (s : State) : Out' := (s.resultX 1 d (s.x a + s.x b)).done

/-- sub, R100. -/
def execSub (d a b : Fin 64) (s : State) : Out' := (s.resultX 1 d (s.x a - s.x b)).done

/-- and, R100. -/
def execAnd (d a b : Fin 64) (s : State) : Out' := (s.resultX 1 d (s.x a &&& s.x b)).done

/-- or, R100. -/
def execOr (d a b : Fin 64) (s : State) : Out' := (s.resultX 1 d (s.x a ||| s.x b)).done

/-- xor, R100. -/
def execXor (d a b : Fin 64) (s : State) : Out' := (s.resultX 1 d (s.x a ^^^ s.x b)).done

/-- shl, R100: by bits 5:0 of x[b]. -/
def execShl (d a b : Fin 64) (s : State) : Out' := (s.resultX 1 d (s.x a <<< (bits (s.x b).toNat 5 0))).done

/-- shr, R100. -/
def execShr (d a b : Fin 64) (s : State) : Out' := (s.resultX 1 d (s.x a >>> (bits (s.x b).toNat 5 0))).done

/-- sra, R100. -/
def execSra (d a b : Fin 64) (s : State) : Out' := (s.resultX 1 d ((s.x a).sshiftRight (bits (s.x b).toNat 5 0))).done

/-- min.s, R100. -/
def execMinS (d a b : Fin 64) (s : State) : Out' := (s.resultX 1 d (if (s.x b).slt (s.x a) then s.x b else s.x a)).done

/-- min.z, R100. -/
def execMinZ (d a b : Fin 64) (s : State) : Out' := (s.resultX 1 d (if s.x b < s.x a then s.x b else s.x a)).done

/-- max.s, R100. -/
def execMaxS (d a b : Fin 64) (s : State) : Out' := (s.resultX 1 d (if (s.x a).slt (s.x b) then s.x b else s.x a)).done

/-- max.z, R100. -/
def execMaxZ (d a b : Fin 64) (s : State) : Out' := (s.resultX 1 d (if s.x a < s.x b then s.x b else s.x a)).done

/-- clz, R100. -/
def execClz (d a : Fin 64) (s : State) : Out' := (s.resultX 1 d (BitVec.ofNat 64 (clz64 (s.x a)))).done

/-- ctz, R100. -/
def execCtz (d a : Fin 64) (s : State) : Out' := (s.resultX 1 d (BitVec.ofNat 64 (ctz64 (s.x a)))).done

/-- popc, R100. -/
def execPopc (d a : Fin 64) (s : State) : Out' := (s.resultX 1 d (BitVec.ofNat 64 (popc64 (s.x a)))).done

/-- cmp.eq, R103. -/
def execCmpEq (p : Fin 8) (a b : Fin 64) (s : State) : Out' := (s.resultP 1 p (s.x a == s.x b)).done

/-- cmp.ne, R103. -/
def execCmpNe (p : Fin 8) (a b : Fin 64) (s : State) : Out' := (s.resultP 1 p (s.x a != s.x b)).done

/-- cmp.lt.s, R103. -/
def execCmpLtS (p : Fin 8) (a b : Fin 64) (s : State) : Out' := (s.resultP 1 p ((s.x a).slt (s.x b))).done

/-- cmp.lt.z, R103. -/
def execCmpLtZ (p : Fin 8) (a b : Fin 64) (s : State) : Out' := (s.resultP 1 p ((s.x a).ult (s.x b))).done

/-- cmp.le.s, R103. -/
def execCmpLeS (p : Fin 8) (a b : Fin 64) (s : State) : Out' := (s.resultP 1 p ((s.x a).sle (s.x b))).done

/-- cmp.le.z, R103. -/
def execCmpLeZ (p : Fin 8) (a b : Fin 64) (s : State) : Out' := (s.resultP 1 p ((s.x a).ule (s.x b))).done

/-- cmp.eq with an immediate, R103. -/
def execCmpEqImm (p : Fin 8) (a : Fin 64) (i : BitVec 12) (s : State) : Out' := (s.resultP 1 p (s.x a == imm12 i)).done

/-- cmp.ne with an immediate, R103. -/
def execCmpNeImm (p : Fin 8) (a : Fin 64) (i : BitVec 12) (s : State) : Out' := (s.resultP 1 p (s.x a != imm12 i)).done

/-- cmp.lt.s with an immediate, R103. -/
def execCmpLtSImm (p : Fin 8) (a : Fin 64) (i : BitVec 12) (s : State) : Out' := (s.resultP 1 p ((s.x a).slt (imm12 i))).done

/-- cmp.lt.z with an immediate, R103. -/
def execCmpLtZImm (p : Fin 8) (a : Fin 64) (i : BitVec 12) (s : State) : Out' := (s.resultP 1 p ((s.x a).ult (imm12 i))).done

/-- cmp.le.s with an immediate, R103. -/
def execCmpLeSImm (p : Fin 8) (a : Fin 64) (i : BitVec 12) (s : State) : Out' := (s.resultP 1 p ((s.x a).sle (imm12 i))).done

/-- cmp.le.z with an immediate, R103. -/
def execCmpLeZImm (p : Fin 8) (a : Fin 64) (i : BitVec 12) (s : State) : Out' := (s.resultP 1 p ((s.x a).ule (imm12 i))).done

/-- pand, R104. -/
def execPand (p q r : Fin 8) (s : State) : Out' := (s.resultP 1 p (s.p q && s.p r)).done

/-- por, R104. -/
def execPor (p q r : Fin 8) (s : State) : Out' := (s.resultP 1 p (s.p q || s.p r)).done

/-- pxor, R104. -/
def execPxor (p q r : Fin 8) (s : State) : Out' := (s.resultP 1 p (s.p q != s.p r)).done

/-- pnot, R104. -/
def execPnot (p q : Fin 8) (s : State) : Out' := (s.resultP 1 p (!s.p q)).done

/-- sel, R105. -/
def execSel (d a b : Fin 64) (p : Fin 8) (s : State) : Out' := (s.resultX 1 d (if s.p p then s.x a else s.x b)).done

/-- ptag, R107. -/
def execPtag (d a b : Fin 64) (s : State) : Out' :=
  (s.resultX 1 d (BitVec.ofNat 64 (bits (s.x b).toNat 22 0 * 2 ^ 41 + bits (s.x a).toNat 40 0))).done

/-- pspace, R107. -/
def execPspace (d a b : Fin 64) (s : State) : Out' :=
  (s.resultX 1 d (BitVec.ofNat 64 (bits (s.x b).toNat 3 0 * 2 ^ 60 + bits (s.x a).toNat 59 0))).done

/-- A pointer with a new exact offset, or TAG_OVERFLOW when it leaves 0..2^41 - 1 (R107). -/
def State.putOffset (s : State) (d : Fin 64) (p : Word) (off : Int) : Out' :=
  if off < 0 || (2 ^ 41 : Nat) ≤ off then (s.trap .tagOverflow (ptrWith p off)).done
  else (s.resultX 1 d (ptrWith p off)).done

/-- poff, R107. -/
def execPoff (d a b : Fin 64) (s : State) : Out' := s.putOffset d (s.x a) (s.x b).toNat

/-- padd, R107. -/
def execPadd (d a b : Fin 64) (s : State) : Out' := s.putOffset d (s.x a) ((ptrOff (s.x a) : Int) + (s.x b).toInt)

/-- addi, R100. -/
def execAddi (d a : Fin 64) (i : BitVec 12) (s : State) : Out' := (s.resultX 1 d (s.x a + imm12 i)).done

/-- andi, R100. -/
def execAndi (d a : Fin 64) (i : BitVec 12) (s : State) : Out' := (s.resultX 1 d (s.x a &&& imm12 i)).done

/-- ori, R100. -/
def execOri (d a : Fin 64) (i : BitVec 12) (s : State) : Out' := (s.resultX 1 d (s.x a ||| imm12 i)).done

/-- xori, R100. -/
def execXori (d a : Fin 64) (i : BitVec 12) (s : State) : Out' := (s.resultX 1 d (s.x a ^^^ imm12 i)).done

/-- shli, R100. -/
def execShli (d a h : Fin 64) (s : State) : Out' := (s.resultX 1 d (s.x a <<< h.val)).done

/-- shri, R100. -/
def execShri (d a h : Fin 64) (s : State) : Out' := (s.resultX 1 d (s.x a >>> h.val)).done

/-- srai, R100. -/
def execSrai (d a h : Fin 64) (s : State) : Out' := (s.resultX 1 d ((s.x a).sshiftRight h.val)).done

/-- limm, R106. -/
def execLimm (d : Fin 64) (i : BitVec 18) (s : State) : Out' := (s.resultX 1 d (i.signExtend 64)).done

/-- lsh18, R106. -/
def execLsh18 (d : Fin 64) (i : BitVec 18) (s : State) : Out' := (s.resultX 1 d ((s.x d <<< 18) ||| i.setWidth 64)).done

/-- mul, R101. -/
def execMul (d a b : Fin 64) (s : State) : Out' := (s.resultX 3 d (s.x a * s.x b)).done

/-- mulh.s, R101. -/
def execMulhS (d a b : Fin 64) (s : State) : Out' :=
  (s.resultX 4 d (BitVec.ofInt 64 ((s.x a).toInt * (s.x b).toInt / (2 ^ 64 : Nat)))).done

/-- mulh.z, R101. -/
def execMulhZ (d a b : Fin 64) (s : State) : Out' := (s.resultX 4 d (BitVec.ofNat 64 ((s.x a).toNat * (s.x b).toNat / 2 ^ 64))).done

/-- div.s, R101 and R25. -/
def execDivS (d a b : Fin 64) (s : State) : Out' :=
  (s.resultX 18 d (if s.x b == 0#64 then BitVec.allOnes 64 else BitVec.ofInt 64 ((s.x a).toInt.tdiv (s.x b).toInt))).done

/-- div.z, R101 and R25. -/
def execDivZ (d a b : Fin 64) (s : State) : Out' :=
  (s.resultX 18 d (if s.x b == 0#64 then BitVec.allOnes 64 else s.x a / s.x b)).done

/-- rem.s, R101 and R25. -/
def execRemS (d a b : Fin 64) (s : State) : Out' :=
  (s.resultX 18 d (if s.x b == 0#64 then s.x a else BitVec.ofInt 64 ((s.x a).toInt.tmod (s.x b).toInt))).done

/-- rem.z, R101 and R25. -/
def execRemZ (d a b : Fin 64) (s : State) : Out' := (s.resultX 18 d (if s.x b == 0#64 then s.x a else s.x a % s.x b)).done

end Sys2Proof.Machine
end

