-- ==== Sys2Proof/Machine/Control.lean ====
section
/-! DEFINITION. Branches, loops, waits, timing and group control, traps and control registers (R73, R108 to R115, R184, R185,
R310, R311, R325, R330 to R333). -/
namespace Sys2Proof.Machine

/-- tchk, R73: the span cycle counts group cycles from the span's first bundle (R50). -/
def execTchk (n : BitVec 12) (s : State) : Out' :=
  let cnt := (s.groupOf s.cur.tile s.cur.urgent).elim 0 (·.cnt)
  if cnt == s.me.flow.spanStart + n.toNat then s.done else (s.trap .tchkMismatch 0#64).done

/-- A branch that issues, R66: its target when taken. -/
def State.branch (s : State) (taken : Bool) (target : Nat) : State :=
  { s with cur := { s.cur with branch := some (if taken then some target else none) } }

/-- The target of br and brl: bundle start + sext(off20) × 4 (R87, R108). -/
def State.relTarget (s : State) (o : BitVec 20) : Nat := narrow 32 ((s.cur.pc : Int) + o.toInt * 4)

/-- The return address of brl: the bundle after the second delay bundle (R108). -/
def State.returnAddr (s : State) : Nat :=
  let m := (s.tile s.cur.tile).imem
  let e := s.cur.next + 4 * bundleSpan m s.cur.next
  e + 4 * bundleSpan m e

/-- br, R108. -/
def execBr (p : Fin 8) (g : Bool) (o : BitVec 20) (s : State) : Out' := (s.branch (s.p p != g) (s.relTarget o)).done

/-- brl, R108: writes x63 when taken; one too many in flight has no effect (R321). -/
def execBrl (p : Fin 8) (g : Bool) (o : BitVec 20) (s : State) : Out' :=
  let taken := s.p p != g
  if taken && s.me.full then (s.trap .inflightLimit 0#64).done
  else
    let b := s.branch taken (s.relTarget o)
    (if taken then b.resultX 1 63 (BitVec.ofNat 64 s.returnAddr) else b).done

/-- A branch to an absolute address, R108: ILLEGAL_OP when a taken target is no slot address. -/
def State.absBranch (s : State) (taken : Bool) (target : Nat) : Out' :=
  if taken && (target % 4 != 0 || 2 ^ 18 ≤ target) then (s.trap .illegalOp 0#64).done else (s.branch taken target).done

/-- jr, R108. -/
def execJr (p : Fin 8) (g : Bool) (a : Fin 64) (s : State) : Out' := s.absBranch (s.p p != g) (s.x a).toNat

/-- mbr, R108. -/
def execMbr (p : Fin 8) (g : Bool) (m : Fin 16) (s : State) : Out' := s.absBranch (s.p p != g) s.me.regs.mb[m].toNat

/-- Opens a loop of `n` passes whose last bundle contains the slot `e` slots after the loop's bundle (R110); LOOP_NEST of R68. -/
def State.openLoop (s : State) (c : Fin 4) (n : BitVec 32) (e : Nat) : Out' :=
  s.notInHandler <|
    let loops := s.me.flow.fetch.loops
    if 4 ≤ loops.length || loops.any (·.lc == c) then (s.trap .loopNest 0#64).done
    else
      let f : LoopF := ⟨c, s.cur.next, s.cur.pc + 4 * e⟩
      let s := s.onMe fun x => { x with regs := { x.regs with lc := x.regs.lc.set c n } }
      State.done { s with cur := { s.cur with loop := some (f, n == 0#32) } }

/-- loop, R110. -/
def execLoop (c : Fin 4) (a : Fin 64) (e : BitVec 16) (s : State) : Out' := s.openLoop c ((s.x a).setWidth 32) e.toNat

/-- loopi, R110. -/
def execLoopi (c : Fin 4) (n : BitVec 12) (e : BitVec 10) (s : State) : Out' := s.openLoop c (n.setWidth 32) e.toNat

/-- halt, R113. -/
def execHalt (s : State) : Out' := s.notInHandler (s.trap .halt 0#64).done

/-- Holds issue on a wait and ends the span (R50): the next bundle begins a span, aligned after syncg (R51). -/
def State.hold (s : State) (w : Wait) (aligned : Bool) : State :=
  s.onMe fun c => { c with flow := { c.flow with wait := some w, newSpan := some aligned } }

/-- syncg, R51. -/
def execSyncg (s : State) : Out' := s.notInHandler (s.hold (.syncg s.clock) true).done

/-- The escape an act is to capture. -/
def Act.escape (a : Act) : Option Nat :=
  match a.kind with
  | .esc _ _ id => some id
  | .qlaunch _ _ _ id => some id
  | _ => none

/-- The escapes a hardware context has not sampled yet are discarded, R310. -/
def State.dropSamples (s : State) (t : Nat) (u : Bool) : State :=
  let ids := (s.tctx t u).acts.filterMap Act.escape
  (s.tctx t u).group.elim s fun k => s.onKernel k fun n => { n with escapes := n.escapes.filter fun e => !ids.contains e.id }

/-- end, R310. -/
def execEndK (s : State) : Out' :=
  s.notInHandler
    ((s.dropSamples s.cur.tile s.cur.urgent).onMe fun c => { c.discard with flow := { c.flow with ended := some s.clock } }).done

/-- eret, R325: holds issue until the handler's effects have landed. -/
def execEret (s : State) : Out' :=
  if s.me.handling then (s.onMe fun c => { c with flow := { c.flow with ereting := true } }).done
  else (s.trap .eretOutside 0#64).done

/-- cyc, R113 and R54. -/
def execCyc (d : Fin 64) (s : State) : Out' :=
  (s.resultX 1 d (BitVec.ofNat 64 ((s.groupOf s.cur.tile s.cur.urgent).elim 0 (·.cnt)))).done

/-- gcyc, R113 and R54. -/
def execGcyc (d : Fin 64) (s : State) : Out' := (s.resultX 1 d s.gcyc).done

/-- trap, R330. -/
def execTrap (n : BitVec 8) (s : State) : Out' := s.notInHandler (s.trap .softTrap (n.setWidth 64)).done

/-- txabort, R311: the group stops as for a trap whose record carries the code; in a handler the kernel aborts at once (R324). The tile
keeps the code until the group's disposition: TINFO reads 0 (R328). -/
def execTxabort (c : BitVec 12) (s : State) : Out' :=
  let stop := s.onMe fun x => { x with flow := { x.flow with wait := some (.stopped c) } }
  if s.me.handling then
    let id := s.me.group.getD 0
    let r (g : Group) : TrapRec := ⟨s.cur.tile, g.cnt, .userAbort, s.cur.pc, s.cur.slot, 0#64⟩
    let s := stop.onGroup id fun g => { g with window := g.window ++ [r g] }
    ((s.onKernel id fun n => { n with abortCode := some (c.toNat, s.cur.tile) }).abort id .userAbort).done
  else (stop.trap .userAbort 0#64).done

/-- rdc, R332; FPSTAT is read after the flags of its issue cycle (R48). -/
def execRdc (d : Fin 64) (r : BitVec 12) (s : State) : Out' :=
  match cregFault s.readback false r.toNat with
  | some c => (s.trap c 0#64).done
  | none =>
    let t := s.resultX 1 d (s.readCreg s.cur.tile s.cur.urgent r.toNat)
    s.ifRoom d (if r == 0#12 then t.act 0 (.fill .fpstat) else t).done

/-- wrc, R332. -/
def execWrc (a : Fin 64) (r : BitVec 12) (s : State) : Out' :=
  match cregFault s.readback true r.toNat with
  | some c => (s.trap c 0#64).done
  | none => (s.act 1 (.wrc r.toNat (s.x a))).done

/-- A header of R333. -/
def snapHeader (kind remaining target : Nat) : Nat := 2 ^ 63 + kind * 2 ^ 60 + remaining % 2 ^ 12 * 2 ^ 48 + target

/-- The kind and target bits of a register in a snapshot header, R333. -/
def Dst.snap : Dst → Nat × Nat
  | .x r => (0, r.val)
  | .v r => (1, r.val)
  | .p r => (2, r.val)
  | .vm r => (3, r.val)
  | .w r o => (4, r.val * 2 ^ 9 + o.val * 2 ^ 6)
  | .wrec r => (4, r.val * 2 ^ 9)

/-- The code of an atomic's member, fn 5:3 (R123). -/
def AtomOp.code (o : AtomOp) : Nat := o.ctorIdx

/-- Doublewords of a value, lowest first. -/
def dwords (v n : Nat) : List Nat := (List.range n).map fun i => v / 2 ^ (64 * i) % 2 ^ 64

/-- The sixteen doublewords of a snapshot entry, R333: header first; `stop` is the stop cycle and `unsampled` stands for the value of
a load that has not sampled (a free value, log 5). -/
def Effect.snapWords (e : Effect) (stop unsampled : Nat) : List Nat :=
  let m := e.due - stop
  match e.kind with
  | .reg d v _ => let (k, t) := d.snap; snapHeader k m t :: dwords v.toNat 8
  | .load _ _ n sg d got =>
    let (k, t) := d.snap
    snapHeader k m t :: (match got with
      | some v => dwords (if sg then narrow 64 (sx (8 * n) v.toNat) else v.toNat) 8
      | none => dwords unsampled 1)
  | .store _ p bs => snapHeader 5 m bs.length :: p.toNat :: dwords (leNat bs) 8
  | .atomic _ p op w64 d a b old =>
    let next := match old with
      | none => e.due - 3 - stop
      | some _ => e.due - 1 - stop
    let w := if w64 then 64 else 32
    snapHeader 6 next (w / 8 + op.code * 2 ^ 4 + (if old.isSome then 2 ^ 7 else 0) + d.val * 2 ^ 8)
      :: [p.toNat, a.toNat % 2 ^ w, if op == .cas then b.toNat % 2 ^ w else 0, (old.getD 0#64).toNat, m]
  | .gather _ d ls got _ =>
    let todo := ls.filter fun x => stop ≤ e.due - 18 + x.1
    let next := match todo with
      | x :: _ => e.due - 18 + x.1 - stop
      | [] => m
    let offs := ls.foldl (fun a x => a + x.2 * 2 ^ (21 * x.1)) 0
    let vals := got.foldl (fun a x => a + x.2.toNat * 2 ^ (32 * x.1)) 0
    snapHeader 7 next (todo.foldl (fun a x => a + 2 ^ x.1) 0 + got.foldl (fun a x => a + 2 ^ (16 + x.1)) 0 + d.val * 2 ^ 32 + 2 ^ 37)
      :: dwords offs 6 ++ dwords vals 8 ++ [m]
  | .scatter _ ls _ =>
    let todo := ls.filter fun x => stop ≤ e.due - 15 + x.1
    let next := match todo with
      | x :: _ => e.due - 15 + x.1 - stop
      | [] => m
    let offs := ls.foldl (fun a x => a + x.2.1 * 2 ^ (21 * x.1)) 0
    let vals := ls.foldl (fun a x => a + x.2.2.toNat * 2 ^ (32 * x.1)) 0
    snapHeader 7 next (todo.foldl (fun a x => a + 2 ^ x.1) 0) :: dwords offs 6 ++ dwords vals 8 ++ [0]

/-- snapr, R333: entries stand in issue order (log 22). -/
def execSnapr (d a : Fin 64) (s : State) : Out' :=
  let v := (s.x a).toNat
  if v / 2 ^ 10 != 0 then (s.trap .snapRange 0#64).done
  else
    s.ifRoom d <|
      let (fv, s) := s.freeNat
      let stop := (s.groupOf s.cur.tile s.cur.urgent).elim 0 (·.cnt)
      let w := if !s.me.handling then 0
        else match s.me.snap[bits v 5 0]? with
          | some e => (e.snapWords stop (fv % 2 ^ 64)).getD (bits v 9 6) 0
          | none => 0
      (s.resultX 1 d (BitVec.ofNat 64 w)).done

/-- waitk, R184. -/
def execWaitk (k : Fin 64) (n : BitVec 12) (s : State) : Out' := s.notInHandler (s.hold (.waitk k n.toNat) false).done

/-- fence, R185. -/
def execFence (a b c d : Fin 64) (s : State) : Out' :=
  s.notInHandler (s.hold (.fence ([a, b, c, d].filter (· != 63))) false).done

/-- Whether a hardware context holds on a wait that is evaluated now: its group counts (R184, R354). -/
def State.waiting (s : State) (t : Nat) (u : Bool) : Option Wait :=
  if (s.groupOf t u).any (·.counts) then (s.tctx t u).flow.wait else none

/-- A wait lets the next bundle issue. -/
def TileCtx.release (c : TileCtx) : TileCtx := { c with flow := { c.flow with wait := none } }

/-- A holding waitk checks its counter, R184; k63 and n = 0 do not hold. -/
def execWaitkRelease (t : Nat) (u : Bool) (s : State) : Out' :=
  match s.waiting t u with
  | some (.waitk k n) =>
    if k == 63 || n == 0 then (s.onCtx t u TileCtx.release).done
    else if n ≤ (s.tctx t u).regs.k[k].toNat then
      (s.onCtx t u fun c => { c.release with regs := c.regs.takeK k n }).done
    else s.done
  | _ => s.done

/-- A holding fence checks every counter, R185: a counter named m times must reach m. -/
def execFenceRelease (t : Nat) (u : Bool) (s : State) : Out' :=
  match s.waiting t u with
  | some (.fence l) =>
    if l.all fun k => l.count k ≤ (s.tctx t u).regs.k[k].toNat then
      (s.onCtx t u fun c => { c.release with regs := l.foldl (fun r k => r.takeK k 1) c.regs }).done
    else s.done
  | _ => s.done

/-- The group cycle at which a group whose tiles have all issued syncg begins its aligned span (R51, R114): none while a tile has not.
An ended tile counts from the cycle after its end. -/
def State.syncAt (s : State) (g : Group) : Option Nat :=
  let cs := g.tiles.map fun t => (s.tctx t g.urgent).flow
  let ready (f : Flow) : Bool := match f.wait, f.ended with
    | some (.syncg _), _ => true
    | _, some e => e < g.cnt
    | _, _ => false
  if cs.all ready && cs.any (fun f => match f.wait with
    | some (.syncg _) => true
    | _ => false)
  then some (g.cnt + 2 * g.diameter + 8) else none

/-- The aligned span begins on every tile of a group, R51: at the release cycle every waiting syncg lets its tile issue. -/
def execSyncgRelease (g : Nat) (s : State) : Out' :=
  match s.group g with
  | some x =>
    if x.counts && x.sync == some x.cnt then
      ((x.tiles.foldl (fun s t => s.onCtx t x.urgent fun c => match c.flow.wait with
        | some (.syncg _) => c.release
        | _ => c) s).onGroup g fun x => { x with sync := none }).done
    else s.done
  | none => s.done

end Sys2Proof.Machine
end

