-- ==== Sys2Proof/Machine/Scratch.lean ====
section
/-! DEFINITION. Loads, stores, atomics and walk records in registers (R116 to R123, R142, R143, R173 to R175). -/
namespace Sys2Proof.Machine

/-- A load of `size` bytes into a register: it samples three cycles before it lands (R61, R121). -/
def State.load (s : State) (spaces : List Nat) (b : Fin 64) (disp : Int) (size : Nat) (sgn : Bool) (d : Dst) : Out' :=
  match s.target spaces .load (b == 62) (s.x b) disp size with
  | .error (c, p) => (s.trap c p).done
  | .ok (l, p) => (s.sched (loadLatency s.cur.tile (ptrSpace p) l) 0#6 (.load l p size sgn d none)).done

/-- A store of bytes, performed at the cycle of R61. -/
def State.store (s : State) (spaces : List Nat) (b : Fin 64) (disp : Int) (bs : List Byte) : Out' :=
  match s.target spaces .store (b == 62) (s.x b) disp bs.length with
  | .error (c, p) => (s.trap c p).done
  | .ok (l, p) => (s.sched (loadLatency s.cur.tile (ptrSpace p) l - 3) 0#6 (.store l p bs)).done

/-- The spaces a scalar load or store accepts (R117). -/
def scalarSpaces : List Nat := [1, 2, 3, 4, 5]

/-- ld.s8, R121: a sign-extended byte. -/
def execLdS8 (d b : Fin 64) (i : BitVec 12) (s : State) : Out' :=
  s.load scalarSpaces b (i.toInt * 1) 1 true (.x d)

/-- ld.z8, R121: a zero-extended byte. -/
def execLdZ8 (d b : Fin 64) (i : BitVec 12) (s : State) : Out' :=
  s.load scalarSpaces b (i.toInt * 1) 1 false (.x d)

/-- ld.s16, R121: a sign-extended halfword. -/
def execLdS16 (d b : Fin 64) (i : BitVec 12) (s : State) : Out' :=
  s.load scalarSpaces b (i.toInt * 2) 2 true (.x d)

/-- ld.z16, R121: a zero-extended halfword. -/
def execLdZ16 (d b : Fin 64) (i : BitVec 12) (s : State) : Out' :=
  s.load scalarSpaces b (i.toInt * 2) 2 false (.x d)

/-- ld.s32, R121: a sign-extended word. -/
def execLdS32 (d b : Fin 64) (i : BitVec 12) (s : State) : Out' :=
  s.load scalarSpaces b (i.toInt * 4) 4 true (.x d)

/-- ld.z32, R121: a zero-extended word. -/
def execLdZ32 (d b : Fin 64) (i : BitVec 12) (s : State) : Out' :=
  s.load scalarSpaces b (i.toInt * 4) 4 false (.x d)

/-- ld.64, R121: a doubleword. -/
def execLd64 (d b : Fin 64) (i : BitVec 12) (s : State) : Out' :=
  s.load scalarSpaces b (i.toInt * 8) 8 false (.x d)

/-- st.8, R121. -/
def execSt8 (v b : Fin 64) (i : BitVec 12) (s : State) : Out' := s.store scalarSpaces b (i.toInt * 1) (leBytes 1 (s.x v).toNat)

/-- st.16, R121. -/
def execSt16 (v b : Fin 64) (i : BitVec 12) (s : State) : Out' := s.store scalarSpaces b (i.toInt * 2) (leBytes 2 (s.x v).toNat)

/-- st.32, R121. -/
def execSt32 (v b : Fin 64) (i : BitVec 12) (s : State) : Out' := s.store scalarSpaces b (i.toInt * 4) (leBytes 4 (s.x v).toNat)

/-- st.64, R121. -/
def execSt64 (v b : Fin 64) (i : BitVec 12) (s : State) : Out' := s.store scalarSpaces b (i.toInt * 8) (leBytes 8 (s.x v).toNat)

/-- An atomic, R123: the pointer is x[a], the operand x[b], and acas compares with x[d]. -/
def State.atomic (s : State) (op : AtomOp) (w64 : Bool) (d a b : Fin 64) : Out' :=
  match s.target [1, 2, 3] .atomic (a == 62) (s.x a) 0 (if w64 then 8 else 4) with
  | .error (c, p) => (s.trap c p).done
  | .ok (l, p) => (s.sched (loadLatency s.cur.tile (ptrSpace p) l) 0#6 (.atomic l p op w64 d (s.x b) (s.x d) none)).done

/-- aadd, R123. -/
def execAadd (d a b : Fin 64) (w : Bool) (s : State) : Out' := s.atomic .add w d a b

/-- amins, R123. -/
def execAminS (d a b : Fin 64) (w : Bool) (s : State) : Out' := s.atomic .minS w d a b

/-- amaxs, R123. -/
def execAmaxS (d a b : Fin 64) (w : Bool) (s : State) : Out' := s.atomic .maxS w d a b

/-- aand, R123. -/
def execAand (d a b : Fin 64) (w : Bool) (s : State) : Out' := s.atomic .and w d a b

/-- aor, R123. -/
def execAor (d a b : Fin 64) (w : Bool) (s : State) : Out' := s.atomic .or w d a b

/-- axchg, R123. -/
def execAxchg (d a b : Fin 64) (w : Bool) (s : State) : Out' := s.atomic .xchg w d a b

/-- acas, R123. -/
def execAcas (d a b : Fin 64) (w : Bool) (s : State) : Out' := s.atomic .cas w d a b

/-- afadd, R123: FP32 only. -/
def execAfadd (d a b : Fin 64) (s : State) : Out' := s.atomic .fadd false d a b

/-- vld, R142. -/
def execVld (d : Fin 32) (b : Fin 64) (i : BitVec 12) (s : State) : Out' := s.load [1, 2, 3, 5] b (i.toInt * 64) 64 false (.v d)

/-- vst, R142: space 5 passes the bounds and raises PERMISSION. -/
def execVst (d : Fin 32) (b : Fin 64) (i : BitVec 12) (s : State) : Out' := s.store [1, 2, 3, 5] b (i.toInt * 64) (leBytes 64 (s.v d).toNat)

/-- The active lanes of a gather or scatter with their displacements (R143). -/
def activeLanes (mask : BitVec 16) (idx : Wide) : List (Nat × Nat) :=
  ((List.range 16).filter fun i => mask.getLsbD i).map fun i => (i, lane idx i)

/-- Checks a vldg or vsts: the pointer's space, then lane by lane in the order of R118; answers each active lane with its offset. A lane at
or beyond 2^21 is SPACE_INVALID whatever its distance (R143), the same cause as a pointer to another space, which is met first: TINFO then holds the
pointer without an offset (DESIGN CHOICE, log 86). -/
def State.lanesTarget (s : State) (acc : Access) (a : Fin 64) (b : Fin 32) (m : Fin 8) : Except (Cause × Word) (List (Nat × Nat)) :=
  let p := s.x a
  if s.me.handling && (ptrSpace p == 2 || ptrSpace p == 3) then .error (.handlerOp, p)
  else if ptrSpace p != 1 then .error (.spaceInvalid, p)
  else (activeLanes (s.vm m) (s.v b)).foldr (fun (i, o) r =>
    if 2 ^ 21 ≤ ptrOff p + o then .error (.spaceInvalid, ptrWith p (ptrOff p + o))
    else match s.target [1] acc (a == 62) p o 4, r with
    | .error e, _ => .error e
    | .ok _, .error e => .error e
    | .ok _, .ok ls => .ok ((i, ptrOff p + o) :: ls)) (.ok [])

/-- vldg, R143: lane i samples at issue + 2 + i, and the register is written at issue + 20. -/
def execVldg (d : Fin 32) (a : Fin 64) (b : Fin 32) (m : Fin 8) (s : State) : Out' :=
  match s.lanesTarget .load a b m with
  | .error (c, p) => (s.trap c p).done
  | .ok ls => (s.sched 20 0#6 (.gather s.cur.tile d ls [] (ls.map (·.1)))).done

/-- vsts, R143: lane i performs at issue + 2 + i. -/
def execVsts (d : Fin 32) (a : Fin 64) (b : Fin 32) (m : Fin 8) (s : State) : Out' :=
  match s.lanesTarget .store a b m with
  | .error (c, p) => (s.trap c p).done
  | .ok ls => (s.sched 17 0#6 (.scatter s.cur.tile (ls.map fun (i, o) => (i, o, BitVec.ofNat 32 (lane (s.v d) i))) (ls.map (·.1)))).done

/-- wset, R173. -/
def execWset (w : Fin 32) (a : Fin 64) (o : Fin 8) (s : State) : Out' := s.notInHandler (s.result 1 0#6 (.w w o) ((s.x a).setWidth 512)).done

/-- wld, R174: as vld, with the walk record as its destination. -/
def execWld (w : Fin 32) (b : Fin 64) (i : BitVec 12) (s : State) : Out' := s.notInHandler <| s.load [1, 2, 3, 5] b (i.toInt * 64) 64 false (.wrec w)

/-- wst, R174. -/
def execWst (w : Fin 32) (b : Fin 64) (i : BitVec 12) (s : State) : Out' := s.notInHandler <| s.store [1, 2, 3, 5] b (i.toInt * 64) (leBytes 64 (s.w w).toNat)

/-- wcopy, R175: naming one record twice has no effect. -/
def execWcopy (d e : Fin 32) (s : State) : Out' :=
  s.notInHandler (if d == e then s.done else (s.result 1 0#6 (.wrec d) (s.w e)).done)

end Sys2Proof.Machine
end

