-- ==== Sys2Proof/Machine/Vector.lean ====
section
/-! DEFINITION. The vector unit (R124 to R141). -/
namespace Sys2Proof.Machine

/-- Writes the lanes a mask selects of a vector register, with flags (R125, R126). -/
def State.resultV (s : State) (l : Nat) (d : Fin 32) (mask : BitVec 16) (r : Wide × Flags) : Out' :=
  (s.result l r.2 (.v d) r.1 (laneBits mask)).done

/-- An elementwise instruction, R127: the old v[d] is the third operand. -/
def State.elementwise (s : State) (l : Nat) (d a b : Fin 32) (m : Fin 8) (t : LaneT) (f : Nat → Nat → Nat → Nat × Flags) : Out' :=
  s.resultV l d (s.vm m) (Machine.elementwise t (s.vm m) f (s.v a) (s.v b) (s.v d))

/-- vadd, R127. -/
def execVadd (d a b : Fin 32) (m : Fin 8) (t : LaneT) (s : State) : Out' := s.elementwise 2 d a b m t (fun a b _ => elemAdd t a b)

/-- vsub, R127. -/
def execVsub (d a b : Fin 32) (m : Fin 8) (t : LaneT) (s : State) : Out' := s.elementwise 2 d a b m t (fun a b _ => elemSub t a b)

/-- vmul, R127. -/
def execVmul (d a b : Fin 32) (m : Fin 8) (t : LaneT) (s : State) : Out' := s.elementwise 2 d a b m t (fun a b _ => elemMul t a b)

/-- vfma, R127. -/
def execVfma (d a b : Fin 32) (m : Fin 8) (t : LaneT) (s : State) : Out' := s.elementwise 4 d a b m t (elemFma t)

/-- vmin, R127. -/
def execVmin (d a b : Fin 32) (m : Fin 8) (t : LaneT) (s : State) : Out' := s.elementwise 2 d a b m t (fun a b _ => elemPick true t a b)

/-- vmax, R127. -/
def execVmax (d a b : Fin 32) (m : Fin 8) (t : LaneT) (s : State) : Out' := s.elementwise 2 d a b m t (fun a b _ => elemPick false t a b)

/-- vabs, R127. -/
def execVabs (d a : Fin 32) (m : Fin 8) (t : LaneT) (s : State) : Out' := s.elementwise 2 d a a m t (fun a _ _ => elemAbs t a)

/-- vneg, R127. -/
def execVneg (d a : Fin 32) (m : Fin 8) (t : LaneT) (s : State) : Out' := s.elementwise 2 d a a m t (fun a _ _ => elemNeg t a)

/-- vand, R128. -/
def execVand (d a b : Fin 32) (m : Fin 8) (s : State) : Out' := s.resultV 2 d (s.vm m) (s.v a &&& s.v b, 0#6)

/-- vor, R128. -/
def execVor (d a b : Fin 32) (m : Fin 8) (s : State) : Out' := s.resultV 2 d (s.vm m) (s.v a ||| s.v b, 0#6)

/-- vxor, R128. -/
def execVxor (d a b : Fin 32) (m : Fin 8) (s : State) : Out' := s.resultV 2 d (s.vm m) (s.v a ^^^ s.v b, 0#6)

/-- vnot, R128. -/
def execVnot (d a : Fin 32) (m : Fin 8) (s : State) : Out' := s.resultV 2 d (s.vm m) (~~~s.v a, 0#6)

/-- vshl, R129. -/
def execVshl (d a b : Fin 32) (m : Fin 8) (t : LaneT) (s : State) : Out' := s.elementwise 2 d a b m t (fun a b _ => (elemShl t a b, 0#6))

/-- vshr, R129. -/
def execVshr (d a b : Fin 32) (m : Fin 8) (t : LaneT) (s : State) : Out' := s.elementwise 2 d a b m t (fun a b _ => (elemShr t a b, 0#6))

/-- vsra, R129. -/
def execVsra (d a b : Fin 32) (m : Fin 8) (t : LaneT) (s : State) : Out' := s.elementwise 2 d a b m t (fun a b _ => (elemSra t a b, 0#6))

/-- vcmp, R130: a whole lane mask. -/
def execVcmp (v : Fin 8) (a b : Fin 32) (c : VCond) (t : LaneT) (s : State) : Out' :=
  let (r, fl) := compareLanes t c (s.v a) (s.v b)
  (s.result 2 fl (.vm v) (r.setWidth 512)).done

/-- vsel, R131. -/
def execVsel (d a b : Fin 32) (m : Fin 8) (s : State) : Out' :=
  (s.result 2 0#6 (.v d) (mergeBits (laneBits (s.vm m)) (s.v a) (s.v b))).done

/-- vbcast, R132. -/
def execVbcast (d : Fin 32) (a : Fin 64) (m : Fin 8) (t : LaneT) (s : State) : Out' :=
  let e := (s.x a).toNat % 2 ^ laneWidth t
  s.resultV 2 d (s.vm m) (packElems t (List.replicate (t.count) e), 0#6)

/-- vext, R133: zero-extended for floats and z32, sign-extended otherwise. -/
def execVext (d : Fin 64) (a : Fin 32) (n : Fin 64) (t : LaneT) (s : State) : Out' :=
  let e := (regElems t (s.v a)).getD n.val 0
  let zero := (laneFmt t).isSome || t == LaneT.z32
  (s.resultX 2 d (if zero then BitVec.ofNat 64 e else BitVec.ofInt 64 (sx (laneWidth t) e))).done

/-- vperm, R134. -/
def execVperm (d a b : Fin 32) (m : Fin 8) (s : State) : Out' :=
  s.resultV 2 d (s.vm m) (packLanes ((List.range 16).map fun i => lane (s.v a) (lane (s.v b) i % 16)), 0#6)

/-- The element a vshuf puts at place `j` of its result, R135. -/
def shuffled (p : ShufPat) (n : Nat) (a b : List Nat) (j : Nat) : Nat :=
  match p with
  | .lo => if j % 2 == 0 then a.getD (j / 2) 0 else b.getD (j / 2) 0
  | .hi => if j % 2 == 0 then a.getD (n / 2 + j / 2) 0 else b.getD (n / 2 + j / 2) 0
  | .ev => if j < n / 2 then a.getD (2 * j) 0 else b.getD (2 * (j - n / 2)) 0
  | .od => if j < n / 2 then a.getD (2 * j + 1) 0 else b.getD (2 * (j - n / 2) + 1) 0

/-- vshuf, R135. -/
def execVshuf (d a b : Fin 32) (p : ShufPat) (t : LaneT) (s : State) : Out' :=
  let ea := regElems t (s.v a)
  let eb := regElems t (s.v b)
  (s.result 2 0#6 (.v d) (packElems t ((List.range t.count).map (shuffled p t.count ea eb)))).done

/-- A reduction's scalar result with its flags, R136. -/
def State.reduced (s : State) (d : Fin 64) (r : Int × Flags) : Out' := (s.result 4 r.2 (.x d) ((BitVec.ofInt 64 r.1).setWidth 512)).done

/-- vred.add, R136. -/
def execVredAdd (d : Fin 64) (a : Fin 32) (p : Fin 8) (t : LaneT) (s : State) : Out' :=
  s.reduced d (reduceAdd t (participants t (s.vm p) (s.v a)))

/-- vred.max, R136. -/
def execVredMax (d : Fin 64) (a : Fin 32) (p : Fin 8) (t : LaneT) (s : State) : Out' :=
  s.reduced d (reducePick false t (participants t (s.vm p) (s.v a)))

/-- vred.min, R136. -/
def execVredMin (d : Fin 64) (a : Fin 32) (p : Fin 8) (t : LaneT) (s : State) : Out' :=
  s.reduced d (reducePick true t (participants t (s.vm p) (s.v a)))

/-- vscan.add, R136: every lane is written. -/
def execVscanAdd (d a : Fin 32) (p : Fin 8) (t : LaneT) (s : State) : Out' := s.resultV 4 d 0xFFFF#16 (scanAdd t (s.vm p) (s.v a))

/-- vamax, R136: the largest magnitude, a NaN above every other (R31); +0.0 when no lane participates. -/
def execVamax (d : Fin 64) (a : Fin 32) (p : Fin 8) (t : LaneT) (s : State) : Out' :=
  s.reduced d (reduceMag t (participants t (s.vm p) (s.v a)))

/-- vcvt, R137: .sr pops an entry of the random-bit queue at issue (R139). -/
def execVcvt (d a : Fin 32) (u y : CvtT) (r : Rm) (q : Bool) (m : Fin 8) (s : State) : Out' :=
  let rws := if r == Rm.sr then rbqEntry s.me.cr.rbseed s.me.cr.rbidx.toNat else []
  let (v, mask, fl) := convertLanes u y r q (s.vm m) rws (s.v a)
  if s.me.full then (s.trap .inflightLimit 0#64).done
  else
    let s := s.result 3 fl (.v d) v mask
    (if r == Rm.sr then s.act 0 .pop else s).done

/-- vrng, R141: the queue is not touched. -/
def execVrng (d : Fin 32) (a : Fin 64) (m : Fin 8) (s : State) : Out' :=
  s.resultV 3 d (s.vm m)
    (packLanes ((List.range 16).map fun i => counterGen s.me.cr.rbseed.toNat (((s.x a).toNat + i) % 2 ^ 64)), 0#6)

end Sys2Proof.Machine
end

