-- ==== Sys2Proof/Machine/Walk.lean ====
section
/-! DEFINITION. Tensor descriptors, layouts and walk records (R144 to R160): their fields, the checks that need no state, and the
element a walk forms next. -/
namespace Sys2Proof.Machine

/-! ### Formats and descriptors -/

/-- Width of a format code, R146; none for a reserved one. -/
def fmtBits : Nat → Option Nat
  | 0 | 13 | 17 => some 32
  | 1 | 2 | 12 | 16 => some 16
  | 7 | 10 => some 4
  | 14 | 18 => some 64
  | n => if n < 19 then some 8 else none

/-- The block-scaled formats, R146. -/
def fmtBlock (f : Nat) : Bool := 5 ≤ f && f ≤ 10

/-- Bits hi:lo of a record or descriptor. -/
def fieldOf (w : Wide) (hi lo : Nat) : Nat := bits w.toNat hi lo

/-- Extent of dimension `j`, R145. -/
def descExt (d : Wide) (j : Nat) : Nat := fieldOf d (335 + 32 * j) (304 + 32 * j)

/-- The format code of a descriptor. -/
def descFmt (d : Wide) : Nat := fieldOf d 4 0

/-- The rank field: dimensions minus one. -/
def descRank (d : Wide) : Nat := fieldOf d 9 8

/-- The layout word. -/
def descLayout (d : Wide) : Nat := fieldOf d 23 16

/-- The page-list root. -/
def descRoot (d : Wide) : Nat := fieldOf d 303 264

/-- ring = 1. -/
def descRing (d : Wide) : Bool := fieldOf d 29 29 == 1

/-- aux = 1. -/
def descAux (d : Wide) : Bool := fieldOf d 28 28 == 1

/-- world = 1. -/
def descWorld (d : Wide) : Bool := fieldOf d 30 30 == 1

/-- Forgetting factor and horizon. -/
def descDecay (d : Wide) : Nat × Nat := (fieldOf d 511 480, fieldOf d 479 464)

/-- The conditions of R147 that concern one descriptor alone, with the layout word of R148. -/
def descSound (d : Wide) : Bool :=
  let r := descRank d
  let l := descLayout d
  fieldOf d 31 31 == 1 && (fmtBits (descFmt d)).isSome
    && fieldOf d 263 32 == 0 && fieldOf d 26 24 == 0 && fieldOf d 15 10 == 0 && fieldOf d 7 5 == 0
    && ((List.range 4).all fun j => j ≤ r || descExt d j == 1)
    && (if descRing d then 1 ≤ (descDecay d).2 && (descDecay d).2 ≤ 12288 else (descDecay d).2 == 0)
    && l / 8 == 0 && (r != 0 || l == 0) && (bits l 2 2 == 0 || (1 ≤ r && bits l 0 0 == 1))

/-- L of R150. -/
def descLines (d : Wide) : Nat := descExt d 3 * descExt d 2 * descExt d 1

/-- The number of blocks of a block-scaled tensor, R150. -/
def descBlocks (d : Wide) : Nat :=
  if fieldOf d 27 27 == 0 then descLines d * cdiv (descExt d 0) 32 else descExt d 3 * descExt d 2 * cdiv (descExt d 1) 32 * descExt d 0

/-- A companion array with its required format and extent, R150. -/
def companionSound (owner : Wide) (c : Option Wide) (fmt ext : Nat) : Bool :=
  match c with
  | none => false
  | some c => descSound c && descRank c == 0 && descLayout c == 0 && descWorld c == descWorld owner && !descRing c && !descAux c
      && descFmt c == fmt && descExt c 0 == ext

/-- R147 and R150 for a tensor with its companions. -/
def TensorV.sound (t : TensorV) : Bool :=
  let d := t.desc
  let f := descFmt d
  descSound d
    && (!fmtBlock f || descAux d)
    && (!descRing d || (f == 0 && companionSound d t.ring 16 (descLines d * cdiv (descExt d 0) 32)))
    && (!descAux d
        || (if fmtBlock f then companionSound d t.aux 15 (if f == 9 || f == 10 then 2 * descBlocks d else descBlocks d)
            else companionSound d t.aux 15 (descLines d * cdiv (2 * descExt d 0) 4)))

/-! ### Layout (R148, R149) -/

/-- zip of R148: bit k of `b` at bit 2k and bit k of `a` at bit 2k + 1. -/
def zipBits (a b : Nat) : Nat :=
  (List.range 32).foldl (fun z k => z + (bits b k k + 2 * bits a k k) * 4 ^ k) 0

/-- The smallest k with n ≤ 2^k. -/
def log2Up (n : Nat) : Nat := if n ≤ 1 then 0 else Nat.log2 (n - 1) + 1

/-- Bytes of a panel, R148. -/
def panelBytes (w : Nat) : Nat := 512 * w

/-- The panel number and the element index within it, R148; coordinates lowest dimension first. -/
def layoutOf (d : Wide) (c : List Nat) : Nat × Nat :=
  let l := descLayout d
  let swap := bits l 2 2 == 1
  let a0 := c.getD 0 0
  let a1 := c.getD 1 0
  let (c1, c0) := if swap then (a0, a1) else (a1, a0)
  let (e1, e0) := if swap then (descExt d 0, descExt d 1) else (descExt d 1, descExt d 0)
  let one := descRank d == 0
  let (c1, c0, e1, e0) := if one then (c0 / 64, c0 % 64, cdiv e0 64, 64) else (c1, c0, e1, e0)
  let pr := c1 / 64
  let pc := c0 / 64
  let y := c1 % 64
  let x := c0 % 64
  let rows := cdiv e1 64
  let cols := cdiv e0 64
  let o := if one then 0 else c.getD 3 0 * descExt d 2 + c.getD 2 0
  let p := if bits l 1 1 == 0 then o * rows * cols + pr * cols + pc else o * 4 ^ log2Up (max rows cols) + zipBits pr pc
  let i := if bits l 0 0 == 0 then y * 64 + x else zipBits (y / 4) (x / 4) * 16 + y % 4 * 4 + x % 4
  (p, i)

/-- The tensor byte address v of R366, and whether a 4-bit element stands in bits 7:4 (R23). -/
def tensorAddr (d : Wide) (c : List Nat) : Nat × Bool :=
  let w := (fmtBits (descFmt d)).getD 8
  let (p, i) := layoutOf d c
  (p * panelBytes w + i * w / 8, w == 4 && i % 2 == 1)

/-- The logical line of an element: L's row-major index (R26, R150). -/
def lineOf (d : Wide) (c : List Nat) : Nat := (c.getD 3 0 * descExt d 2 + c.getD 2 0) * descExt d 1 + c.getD 1 0

/-- The index of an element's ring group in the ring array, R26. -/
def ringGroupOf (d : Wide) (c : List Nat) : Nat := lineOf d c * cdiv (descExt d 0) 32 + c.getD 0 0 / 32

/-- The index of an element's metadata byte, R157: dense group g of its row. -/
def metaOf (d : Wide) (c : List Nat) : Nat := lineOf d c * cdiv (2 * descExt d 0) 4 + c.getD 0 0 / 4

/-- Whether coordinates lie within the extents, doubled in dimension 0 under expand (R157). -/
def inExtents (d : Wide) (expand : Bool) (c : List Int) : Bool :=
  (List.range 4).all fun j => 0 ≤ c.getD j 0 && c.getD j 0 < ((if expand && j == 0 then 2 * descExt d 0 else descExt d j : Nat) : Int)

/-! ### Walk records (R151, R152) -/

/-- Origin coordinate `j`. -/
def wOrigin (w : Wide) (j : Nat) : Nat := fieldOf w (415 + 32 * j) (384 + 32 * j)

/-- Base pointer of a scratchpad or host endpoint. -/
def wBase (w : Wide) : Word := BitVec.ofNat 64 (fieldOf w 511 448)

/-- Port number of a Canopy endpoint. -/
def wPort (w : Wide) : Nat := fieldOf w 450 448

/-- Patch-list tensor id of a decoder destination. -/
def wPatch (w : Wide) : Nat := fieldOf w 399 384

/-- Count `j`. -/
def wCount (w : Wide) (j : Nat) : Nat := fieldOf w (287 + 32 * j) (256 + 32 * j)

/-- Stride `j`, signed. -/
def wStride (w : Wide) (j : Nat) : Int := sx 32 (fieldOf w (159 + 32 * j) (128 + 32 * j))

/-- Tensor id. -/
def wTensor (w : Wide) : Nat := fieldOf w 127 112

/-- Multicast rectangle: first row, last row, first column, last column. -/
def wRect (w : Wide) : Nat × Nat × Nat × Nat := (fieldOf w 111 108, fieldOf w 107 104, fieldOf w 103 100, fieldOf w 99 96)

/-- aux. -/
def wAux (w : Wide) : Nat := fieldOf w 95 80

/-- pattern: 0 affine, 1 indirect, 2 recurrence, 3 gather2d, 4 ring. -/
def wPattern (w : Wide) : Nat := fieldOf w 79 76

/-- endpoint: 0 tensor, 1 scratchpad, 2 host window, 3 Canopy port, 4 decoder (R152). -/
def wEnd (w : Wide) : Nat := fieldOf w 75 72

/-- format. -/
def wFmt (w : Wide) : Nat := fieldOf w 71 67

/-- decay. -/
def wDecay (w : Wide) : Bool := fieldOf w 63 63 == 1

/-- restamp. -/
def wRestamp (w : Wide) : Bool := fieldOf w 62 62 == 1

/-- merge. -/
def wMerge (w : Wide) : Nat := fieldOf w 61 59

/-- expand. -/
def wExpand (w : Wide) : Bool := fieldOf w 58 58 == 1

/-- multicast. -/
def wMulticast (w : Wide) : Bool := fieldOf w 57 57 == 1

/-- notify. -/
def wNotify (w : Wide) : Bool := fieldOf w 56 56 == 1

/-- seg. -/
def wSeg (w : Wide) : Nat := fieldOf w 54 53

/-- A data-dependent pattern (R154). -/
def wDependent (w : Wide) : Bool := wPattern w == 1 || wPattern w == 2 || wPattern w == 3

/-- The Canopy out port a data-dependent record takes its index values from, if it takes them from one. -/
def wIndexPort (w : Wide) : Option Nat := if wDependent w && bits (wAux w) 5 5 == 1 then some (bits (wAux w) 2 0) else none

/-- A reserved field or code of one record is used: order 1 of R158 (R151; R415 for the decoder). -/
def wReserved (w : Wide) : Bool :=
  let a := wAux w
  let e := wEnd w
  fieldOf w 66 64 != 0 || fieldOf w 52 0 != 0 || 5 ≤ wPattern w || 5 ≤ e || 5 ≤ wMerge w
    || (match e with
      | 0 => false
      | 1 | 2 => fieldOf w 447 384 != 0
      | 3 => fieldOf w 511 451 != 0 || fieldOf w 447 384 != 0
      | _ => fieldOf w 511 400 != 0)
    || ((e == 1 || e == 2 || e == 3) && (fmtBits (wFmt w)).isNone)
    || (if wDependent w then a / 64 != 0 || (bits a 5 5 == 1 && bits a 4 3 != 0)
        else if wPattern w == 4 then !(1 ≤ a && a ≤ 32767)
        else if e == 4 then a == 0
        else a != 0)

/-- The element width of a side; none where order 1 of R158 makes no comparison. -/
def wWidth (w : Wide) (t : Option TensorV) : Option Nat :=
  match wEnd w with
  | 0 => t.bind fun t => fmtBits (descFmt t.desc)
  | 4 => none
  | _ => fmtBits (wFmt w)

/-- A 4-bit side meets R158: s0 = 1, even n0, even origin and higher strides. Of a tensor side's origins the model asks it of o0 alone, the one along which
elements share a byte (DESIGN CHOICE, log 93). -/
def wNibbles (w : Wide) : Bool :=
  wStride w 0 == 1 && wCount w 0 % 2 == 0 && wStride w 1 % 2 == 0 && wStride w 2 % 2 == 0 && wStride w 3 % 2 == 0
    && (wEnd w != 0 || wOrigin w 0 % 2 == 0)

/-- An index source is as R154 and R410 require; attribute bits in an index record have no effect (DESIGN CHOICE, log 93). -/
def wIndexSound (w : Wide) (idx : Option Wide) : Bool :=
  (wPattern w != 3 || wCount w 3 == 1)
    && ((wIndexPort w).isSome
      || (match idx with
        | some i => !wReserved i && wPattern i == 0 && wEnd i == 1 && ptrSpace (wBase i) == 1 && wFmt i == 17
        | none => false))

/-- Order 1 of R158 for a command's records, with the requirements of R155 to R157 that need no descriptor. -/
def recordsSound (ws wd : Wide) (st dt : Option TensorV) (si di : Option Wide) : Bool :=
  let a := wWidth ws st
  let b := wWidth wd dt
  let side (w : Wide) (n : Option Nat) (i : Option Wide) : Bool :=
    (n != some 4 || wPattern w == 4 || wEnd w == 3 || wNibbles w) && (!wDependent w || wIndexSound w i)
  !wReserved ws && !wReserved wd
    && wEnd ws != 4 && wPattern ws != 4
    && !wRestamp ws && wMerge ws == 0 && !wMulticast ws && !wNotify ws && !wDecay wd && !wExpand wd
    && (wPattern wd != 4 || (wEnd wd == 1 && ptrSpace (wBase wd) == 1 && (wBase wd).toNat % 64 == 0))
    && (!wDecay ws || wEnd ws == 0) && (!wExpand ws || wEnd ws == 0)
    && ((!wRestamp wd && wMerge wd == 0) || wEnd wd == 0)
    && (!wNotify wd || wEnd wd == 1)
    && (!wMulticast wd || (wEnd wd == 1 && (ptrSpace (wBase wd) == 1 || ptrSpace (wBase wd) == 2)))
    && (a.isNone || b.isNone || a == b)
    && side ws a si && side wd b di
    && (!wExpand ws || (wOrigin ws 0 % 4 == 0 && wCount ws 0 % 4 == 0 && wStride ws 0 == 1 && wEnd wd == 1 && ptrSpace (wBase wd) == 1))
    && !((wIndexPort ws).isSome && wIndexPort ws == wIndexPort wd)

/-- The element total of a side that is fixed at issue (R158 order 6). -/
def wTotal (w : Wide) : Option Nat :=
  if wEnd w == 3 || wEnd w == 4 || wPattern w == 2 || wPattern w == 4 then none
  else some (wCount w 0 * wCount w 1 * wCount w 2 * wCount w 3)

/-- The shape of R176 and R177; the formats and ranks are those of the source, the page tensor and the patch list. A decoder destination of another pattern
than 0 does not fit (DESIGN CHOICE, log 93). -/
def shapeFits (op : StreamOp) (ws wd : Wide) (st dt pt : Option TensorV) : Bool :=
  let plain (w : Wide) (ps : List Nat) : Bool := wEnd w ≤ 2 && ps.contains (wPattern w)
  let dep := [0, 1, 2]
  let fmt (w : Wide) (t : Option TensorV) : Nat := if wEnd w == 0 then t.elim 0 (descFmt ·.desc) else wFmt w
  (op == StreamOp.smc || !wMulticast wd) && (op == StreamOp.sexp || !wExpand ws)
    && (match op with
      | .smov => plain ws dep && plain wd dep
      | .smc => plain ws dep && wEnd wd == 1 && wPattern wd == 0 && wMulticast wd
      | .sgat2 => plain ws [0, 1, 2, 3] && plain wd [0, 1, 2, 3] && (wPattern ws == 3 || wPattern wd == 3)
      | .sexp => wEnd ws == 0 && wPattern ws == 0 && wExpand ws && wEnd wd == 1 && ptrSpace (wBase wd) == 1 && wPattern wd == 0
      | .sdec => plain ws [0] && fmt ws st == 15 && wEnd wd == 4 && wPattern wd == 0
          && (dt.any fun t => descFmt t.desc == 15 && descRank t.desc == 1) && (pt.any fun t => descFmt t.desc == 17 && descRank t.desc == 0)
      | .sport =>
        if wEnd ws == 3 then wEnd wd ≤ 2 && wPattern ws == 0 && plain wd [0]
        else wEnd wd == 3 && wPattern wd == 0 && plain ws dep
      | .sring => wPattern wd == 4 && (if wEnd ws == 3 then wPattern ws == 0 else plain ws [0, 1, 2, 3]))

/-! ### Elements (R153, R154, R159, R160) -/

/-- The terms of levels 3 to 0 at an iteration, without the origin. -/
abbrev Terms := Int × Int × Int × Int

/-- The terms of affine element number `e`. -/
def wAffine (w : Wide) (e : Nat) : Terms :=
  let n0 := wCount w 0
  let n1 := wCount w 1
  let n2 := wCount w 2
  ((e / (n0 * n1 * n2) : Nat) * wStride w 3, (e / (n0 * n1) % n2 : Nat) * wStride w 2, (e / n0 % n1 : Nat) * wStride w 1,
   (e % n0 : Nat) * wStride w 0)

/-- The coordinates of an element, lowest dimension first. -/
def wCoords (w : Wide) (t : Terms) : List Int :=
  [wOrigin w 0 + t.2.2.2, wOrigin w 1 + t.2.2.1, wOrigin w 2 + t.2.1, wOrigin w 3 + t.1]

/-- The offset of an element of width `b` of an endpoint that is no tensor, and whether a 4-bit element stands in bits 7:4. -/
def wOffset (w : Wide) (b : Nat) (t : Terms) : Int × Bool :=
  let k := t.1 + t.2.1 + t.2.2.1 + t.2.2.2
  let bit := (ptrOff (wBase w) * 8 : Nat) + k * (b : Nat)
  (bit / 8, b == 4 && bit % 8 == 4)

/-- The product of counts of levels lo..hi-1. -/
def wProduct (w : Wide) (lo hi : Nat) : Nat := ((List.range 4).filter fun j => lo ≤ j && j < hi).foldl (fun a j => a * wCount w j) 1

/-- Moves to the next iteration of level `l`, clearing the levels below; past level 3 the walk ends. -/
def Cursor.bump (w : Wide) (c : Cursor) (l : Nat) : Cursor :=
  let up3 (c : Cursor) : Cursor :=
    if c.i3 + 1 < wCount w 3 then { c with i3 := c.i3 + 1, i2 := 0, i1 := 0, i0 := 0, idx := none } else { c with fin := true, idx := none }
  let up2 (c : Cursor) : Cursor := if c.i2 + 1 < wCount w 2 then { c with i2 := c.i2 + 1, i1 := 0, i0 := 0, idx := none } else up3 c
  let up1 (c : Cursor) : Cursor :=
    if c.i1 + 1 < wCount w 1 then { c with i1 := c.i1 + 1, i0 := 0, idx := if wPattern w == 3 then c.idx else none } else up2 c
  match l with
  | 1 => up1 c
  | 2 => up2 c
  | 3 => up3 c
  | _ => { c with fin := true, idx := none }

/-- Marks a segment boundary after a move: the counters of every level up to seg stand at zero. -/
def Cursor.edge (w : Wide) (c : Cursor) : Cursor :=
  let s := wSeg w
  if c.i0 == 0 && (s < 1 || c.i1 == 0) && (s < 2 || c.i2 == 0) && (s < 3 || c.i3 == 0) then { c with opened := false } else c

/-- The walk at its start; `pre` when segment prefixes are wanted (a port destination, R159). -/
def Cursor.start (w : Wide) (pre : Bool) : Cursor :=
  let none' := (List.range 4).any fun j => wSeg w < j && wCount w j == 0
  let rows := if wPattern w == 3 then wProduct w 2 4 else wProduct w 1 4
  let empty := if pre then none' else if wPattern w == 0 then wProduct w 0 4 == 0 else rows == 0
  ⟨0, 0, 0, 0, none, 0, 0, empty, !pre, []⟩

/-- What a walk does next. -/
inductive WalkStep where
  /-- It has ended. -/
  | ended
  /-- It consumes an index value. -/
  | index
  /-- It emits an element, the first of a segment of the given length; the walk after it. -/
  | elem (t : Terms) (seg : Option Nat) (next : Cursor)
  /-- It emits a segment without elements (R160). -/
  | empty (next : Cursor)
  /-- It passes a row without elements. -/
  | skip (next : Cursor)
deriving DecidableEq, Repr

/-- The length of the current row. -/
def Cursor.rowLen (w : Wide) (c : Cursor) : Nat := if wPattern w == 2 then c.idx.getD 0 else wCount w 0

/-- The walk after its current element. -/
def Cursor.after (w : Wide) (c : Cursor) : Cursor :=
  let c := { c with count := c.count + 1 }
  if c.i0 + 1 < c.rowLen w then { c with i0 := c.i0 + 1 } else (c.bump w 1).edge w

/-- The terms of the current element. -/
def Cursor.terms (w : Wide) (c : Cursor) : Terms :=
  let s := wStride w
  match wPattern w with
  | 1 => (c.i3 * s 3, c.i2 * s 2, (c.idx.getD 0 : Nat) * s 1, c.i0 * s 0)
  | 3 =>
    let p := c.idx.getD 0
    (0, 0, (p / 2 ^ 16 : Nat) * s 2 + c.i1 * s 1, (p % 2 ^ 16 : Nat) * s 3 + c.i0 * s 0)
  | _ => (c.i3 * s 3, c.i2 * s 2, c.i1 * s 1, c.i0 * s 0)

/-- The rows of the open segment whose lengths a recurrence reads ahead (R159). -/
def segRows (w : Wide) : Nat := wProduct w 1 (wSeg w + 1)

/-- Passes a row without elements (R160). -/
def Cursor.skipRow (w : Wide) (pre : Bool) (c : Cursor) : Cursor :=
  (c.bump w (if wPattern w == 3 && (!pre || wCount w 1 == 0) then 2 else 1)).edge w

/-- Whether the current row holds no element. -/
def Cursor.rowEmpty (w : Wide) (c : Cursor) : Bool := c.rowLen w == 0 || (wPattern w == 3 && wCount w 1 == 0)

/-- The rows without elements that open a segment of a recurrence are passed, and the first other one becomes the current row; the segment's prefix goes
with its first element (R159, R160). -/
def Cursor.leading (w : Wide) : List Nat → Cursor → Cursor
  | [], c => c
  | 0 :: r, c => Cursor.leading w r ({ c with ahead := r }.bump w 1)
  | l :: r, c => { c with idx := some l, ahead := r }

/-- What a walk does next; `pre` when segment prefixes are wanted. A recurrence that opens a segment reads its lengths ahead. A prefix holds the whole count of
its segment, also one of 2^32 elements or more, which 32 bits cannot hold (DESIGN CHOICE, log 95). -/
def Cursor.step (w : Wide) (pre : Bool) (c : Cursor) : WalkStep :=
  if c.fin then .ended
  else
    let p := wPattern w
    let opening := pre && !c.opened
    if opening && p == 2 && c.ahead.length < segRows w then .index
    else
      let len := if p == 2 then c.ahead.foldl (· + ·) 0 else wProduct w 0 (wSeg w + 1)
      let rows := if p == 0 then 0 else if p == 3 then (if wSeg w < 2 then 1 else wProduct w 2 (wSeg w + 1)) else segRows w
      if opening && len == 0 then
        if p == 0 || p == 2 || rows == 0 then .empty (({ c with count := c.count + 1, ahead := [] }.bump w (wSeg w + 1)).edge w)
        else .empty { c with count := c.count + 1, opened := true }
      else
        let c := match c.idx, c.ahead with
          | none, l :: r => if p != 2 then c else if opening then c.leading w (l :: r) else { c with idx := some l, ahead := r }
          | _, _ => c
        if p != 0 && c.idx.isNone then .index
        else if c.rowEmpty w then .skip ({ c with opened := true }.skipRow w pre)
        else .elem (c.terms w) (if opening then some len else none) ({ c with opened := true }.after w)

/-- An index value has been consumed (R154): into the row, or ahead for a prefix. -/
def Cursor.take (w : Wide) (pre : Bool) (c : Cursor) (x : Nat) : Cursor :=
  let c := { c with taken := c.taken + 1 }
  if pre && !c.opened && wPattern w == 2 then { c with ahead := c.ahead ++ [x] }
  else
    let c := { c with idx := some x }
    if c.rowEmpty w then c.skipRow w pre else c

end Sys2Proof.Machine
end

