-- ==== Sys2Proof/Machine/Roots.lean ====
section
/-! DEFINITION. The Roots: HBM, descriptors (R144, R162), page lists and their copies (R366 to R375), sapwood versions and the read and
write sets (R293 to R296, R303), and records for the trap queue (R376). -/
namespace Sys2Proof.Machine

/-! ### HBM -/

/-- The end of HBM: twelve stacks of 64 GiB (R7). -/
def hbmEnd : Nat := 12 * 64 * 2 ^ 30

/-- Bytes of HBM as a Root or the Crown reads them. A byte address at or above 768 GiB names no memory (R7): what its read gives is
free (log 81). -/
def State.hbmRead (s : State) (a n : Nat) : List Byte :=
  s.hbm.read a (min n (hbmEnd - a))
    ++ (List.range (n - (hbmEnd - a))).map fun i => Config.noMemory s.gcyc.toNat (max a hbmEnd + i)

/-- A little-endian number of `n` bytes of HBM. -/
def State.hbmNum (s : State) (a n : Nat) : Nat := leNat (s.hbmRead a n)

/-- Writes heartwood, and every word written gets its check value (R399); a byte at or above 768 GiB is no memory, and its write changes
nothing (log 81). -/
def State.putHbm (s : State) (a : Nat) (bs : List Byte) : State :=
  { s with hbm := s.hbm.write a (bs.take (hbmEnd - a)), hbmBad := freshWords a bs.length s.hbmBad }

/-- The Root that serves a byte of HBM, R8: the one on its stack. -/
def rootOf (a : Nat) : Nat := Config.stackOf a % 12

/-- The compute die a Root belongs to, R8. -/
def rootDie (r : Nat) : Nat := r / 3

/-- A record for a context's trap queue, waiting for room (R377). -/
def State.record (s : State) (c : Nat) (r : TqRec) : State := s.onCtxt c fun x => { x with waiting := x.waiting ++ [r] }

/-- A record with a cause alone. -/
def TqRec.plain (cause : Cause) (info : Nat) (ticket : Option Nat) (fatal : Bool) : TqRec :=
  ⟨cause, BitVec.ofNat 64 info, 0, ticket.getD 0xFFFF, 0x3FFFF, 0xFF, 0x1FF, fatal, false, 0⟩

/-! ### Versions -/

/-- Lines of 256 bytes, R293. -/
def lineOfAddr (a : Nat) : Nat := a / 256

/-- Whether every reader may see a version: it belongs to a committed ticket (R291), or to a kernel that writes in place, whose versions settle like
those of a committed one (R304). -/
def State.committed (s : State) (v : Version) : Bool :=
  !s.crown.kernels.any fun k => k.ctx == v.ctx && k.ticket == some v.ticket && k.st != .committing && !k.inPlace

/-- The version of a line that a reader sees, R294: its own, else the newest committed one; none where it sees heartwood. -/
def State.seenVersion (s : State) (own : Option (Nat × Nat)) (line : Nat) : Option Version :=
  (s.roots.versions.find? fun v => v.line == line && own == some (v.ctx, v.ticket)).orElse fun _ =>
    (s.roots.versions.filter fun v => v.line == line && s.committed v).getLast?

/-- Whether bytes within one line carry, for a reader, check values that do not fit them (R400). -/
def State.viewBad (s : State) (own : Option (Nat × Nat)) (a n : Nat) : Bool :=
  match s.seenVersion own (lineOfAddr a) with
  | some v => (wordSpan (a % 256) n).any v.bad.contains
  | none => (wordSpan a n).any s.hbmBad.contains

/-- Bytes within one line as a reader sees them. -/
def State.viewBytes (s : State) (own : Option (Nat × Nat)) (a n : Nat) : List Byte :=
  match s.seenVersion own (lineOfAddr a) with
  | some v => (v.data.drop (a % 256)).take n
  | none => s.hbmRead a n

/-- The 256-byte lines that bytes a .. a + n - 1 lie in. -/
def linesOf (a n : Nat) : List Nat := if n == 0 then [] else (List.range ((a + n + 255) / 256 - a / 256)).map (a / 256 + ·)

/-- Bytes from an address as a reader without versions of its own sees them: a DIRECT kernel, the host, the Crown (R294, R380). -/
def State.viewRead (s : State) (a n : Nat) : List Byte :=
  (linesOf a n).flatMap fun l => let lo := max a (256 * l); s.viewBytes none lo (min (a + n) (256 * l + 256) - lo)

/-- Whether bytes that a reader without versions of its own sees carry a check value that does not fit (R400). -/
def State.spannedBad (s : State) (a n : Nat) : Bool :=
  (linesOf a n).any fun l => let lo := max a (256 * l); s.viewBad none lo (min (a + n) (256 * l + 256) - lo)

/-- A little-endian number of `n` bytes as the Crown sees it. -/
def State.viewNum (s : State) (a n : Nat) : Nat := leNat (s.viewRead a n)

/-! ### Descriptors -/

/-- A descriptor in heartwood, R144; none beyond the context's table (log 15). -/
def State.heartDesc (s : State) (c tid : Nat) : Option Wide :=
  let x := s.ctxt c
  if tid ≤ x.ttCount then some (BitVec.ofNat 512 (leNat (s.viewBytes none (x.ttBase + 64 * tid) 64))) else none

/-- The Roots' copy of a descriptor, loaded at its first use, R162. -/
def State.cachedDesc (s : State) (c tid : Nat) : Option Wide × State :=
  match s.heartDesc c tid with
  | none => (none, s)
  | some h => match s.roots.descs.find? fun d => d.ctx == c && d.tid == tid with
    | none => (some h, { s with roots.descs := s.roots.descs ++ [⟨c, tid, h⟩] })
    | some d => (some d.desc, s)

/-- The companions a descriptor names, R150: its ring array and its auxiliary array. -/
def companionIds (d : Wide) : List Nat :=
  (if descRing d then [fieldOf d 463 448] else []) ++ (if descAux d then [fieldOf d 447 432] else [])

/-- Whether a reload of a descriptor is on its way, by its own name or as a companion (R186), among those that bit i of `v` picks for the i-th. -/
def State.reloading (s : State) (c tid v : Nat) : Bool :=
  s.traffic.reloads.zipIdx.any fun (r, i) => v.testBit i && r.ctx == c && (r.tid == tid || ((s.heartDesc c r.tid).elim [] companionIds).contains tid)

/-- A descriptor with its companions (R150), each read by `get`. -/
def viewWith (get : State → Nat → Option Wide × State) (s : State) (tid : Nat) : Option TensorV × State :=
  match get s tid with
  | (none, s) => (none, s)
  | (some d, s) =>
    let (r, s) := if descRing d then get s (fieldOf d 463 448) else (none, s)
    let (a, s) := if descAux d then get s (fieldOf d 447 432) else (none, s)
    (some ⟨tid, d, r, a⟩, s)

/-- A descriptor as heartwood holds it, with its companions. -/
def State.heartView (s : State) (c tid : Nat) : Option TensorV := (viewWith (fun s t => (s.heartDesc c t, s)) s tid).1

/-- The descriptors the Roots use for a tensor, R162: the copies made at first use, but the new versions of what the tdsyncs on their way name that `v`
picks: their tensors and those tensors' companions (R186; log 5). -/
def State.tensorView (s : State) (c tid v : Nat) : Option TensorV × State :=
  let (old, s) := viewWith (fun s t => s.cachedDesc c t) s tid
  (if v == 0 then old else (viewWith (fun s t => if s.reloading c t v then (s.heartDesc c t, s) else s.cachedDesc c t) s tid).1, s)

/-- The companion of a tensor seen as a tensor of its own. -/
def companionView (c : Option Wide) (tid : Nat) : TensorV := ⟨tid, c.getD 0#512, none, none⟩

/-- Drops the Roots' copies of a descriptor and of the companions it names, which the next use loads again (R186). -/
def State.dropDesc (s : State) (c tid : Nat) : State :=
  let ids := tid :: (s.heartDesc c tid).elim [] companionIds
  { s with roots.descs := s.roots.descs.filter fun d => !(d.ctx == c && ids.contains d.tid) }

/-! ### Page lists -/

/-- Bit `i` of an entry. -/
def entryBit (w i : Nat) : Bool := bits w i i == 1

/-- Check 1 of R368 on an entry with V = 1: true when it is well formed. `level1` names the level. -/
def entrySound (w : Nat) (level1 : Bool) : Bool :=
  bits w 55 40 == 0 && bits w 9 0 == 0
    && (if entryBit w 62 then bits w 18 10 == 0 && (!level1 || bits w 25 19 == 0) else level1 && bits w 61 56 == 0)

/-- Outcome of a walk, R368: the HBM byte address with the leaf's address; a trap; a hold on an entry, with or without a record. -/
inductive Walked where
  | ok (phys entry : Nat)
  | trap (c : Cause)
  | hold (entry : Nat) (rec : Bool)
deriving DecidableEq, Repr

/-- A walk of the list at `list` in HBM: the leaf as a copy, or the outcome of checks 1 and 2 (R366, R368). The Root that keeps the copy is
the one of the byte the leaf gives for v. -/
def State.freshWalk (s : State) (list v : Nat) : Except Walked WalkCopy :=
  let a1 := list + 8 * bits v 39 26
  let w1 := s.hbmNum a1 8
  if !entryBit w1 63 then .error (.hold a1 true)
  else if !entrySound w1 true then .error (.trap .pageFormat)
  else if entryBit w1 62 then .ok ⟨rootOf (bits w1 39 19 * 2 ^ 19 + v % 2 ^ 26), list, v / 2 ^ 26, true, a1, none, w1⟩
  else
    let a2 := bits w1 39 10 * 1024 + 8 * bits v 25 19
    let w2 := s.hbmNum a2 8
    if !entryBit w2 63 then .error (.hold a2 true)
    else if !entrySound w2 false then .error (.trap .pageFormat)
    else .ok ⟨rootOf (bits w2 39 19 * 2 ^ 19 + v % 2 ^ 19), list, v / 2 ^ 19, false, a2, some a1, w2⟩

/-- An entry without its A and D bits, R375. -/
def entryCore (w : Nat) : Nat := w - bits w 59 58 * 2 ^ 58

/-- The HBM byte address a leaf gives for v, R366. -/
def WalkCopy.phys (x : WalkCopy) (v : Nat) : Nat := bits x.word 39 19 * 2 ^ 19 + v % (if x.big then 2 ^ 26 else 2 ^ 19)

/-- Whether a copy serves v in a list. -/
def WalkCopy.serves (x : WalkCopy) (list v : Nat) : Bool := x.list == list && x.page == v / (if x.big then 2 ^ 26 else 2 ^ 19)

/-- A Root's walk unit replaces its copy of an entry; the other Roots keep theirs (R8, R374). -/
def State.keepCopy (s : State) (c : WalkCopy) : State :=
  { s with roots.walks := (s.roots.walks.filter fun x => !(x.list == c.list && x.entry == c.entry && x.page == c.page && x.root == c.root)) ++ [c] }

/-- Sets A or D in an entry's word, R375. -/
def State.setEntryBit (s : State) (a i : Nat) : State :=
  let w := s.hbmNum a 8
  if entryBit w i then s else s.putHbm a (leBytes 8 (w + 2 ^ i))

/-- Checks 3 to 5 of R368 on a copy, and the byte address it gives. -/
def WalkCopy.pass (c : WalkCopy) (v : Nat) (write world : Bool) : Walked :=
  if entryBit c.word 60 != world then .trap .worldViolation
  else if write && !entryBit c.word 61 then .trap .pageWrite
  else if write && entryBit c.word 56 then .hold c.entry false
  else .ok (c.phys v) c.entry

/-- Uses a copy whose word still stands in HBM: A is set when it is filled, D at the first write through it (R375). -/
def State.useCopy (s : State) (c : WalkCopy) (v : Nat) (write world : Bool) : Walked × State :=
  let r := c.pass v write world
  let dirty := match r with
    | .ok _ _ => write
    | _ => false
  let s := s.setEntryBit c.entry 59
  let s := if dirty then s.setEntryBit c.entry 58 else s
  (r, s.keepCopy { c with word := s.hbmNum c.entry 8 })

/-- Translates v through a page list, R368: through a copy that no longer stands in HBM and that the Root of its byte keeps, or afresh (R374;
log 5). A retry after a wake walks afresh and ignores every copy, and a write does not fail on a copy without W, since raising W needs no shootdown
(R369). -/
def State.translate (s : State) (retry : Bool) (list v : Nat) (write world : Bool) : Walked × State :=
  let fresh := s.freshWalk list v
  let again (s : State) : Walked × State := match fresh with
    | .ok f => s.useCopy f v write world
    | .error e => (e, s)
  let stale := (s.roots.walks.filter (·.serves list v)).filter fun c => (match fresh with
    | .ok f => f.entry != c.entry || entryCore f.word != entryCore c.word
    | .error _ => true) && c.root == rootOf (c.phys v)
  if retry || stale.isEmpty then again s
  else
    let (k, s) := s.freeNat
    match stale[k % (stale.length + 1)]? with
    | none => again s
    | some c =>
      if entryCore (s.hbmNum c.entry 8) == entryCore c.word then s.useCopy c v write world
      else if write && !(entryBit c.word 58 && entryBit c.word 61) then again { s with roots.walks := s.roots.walks.filter (· != c) }
      else (c.pass v write world, s)

/-- Where a translated access goes: to a byte, to a trap, or it is held. -/
inductive Reached where
  | spot (p : Spot)
  | trap (c : Cause)
  | hold (entry : Nat) (rec : Bool)
deriving DecidableEq, Repr

/-- Translates an address for what a hold may hold up: a retry where a woken hold stands for it (R369, R371). -/
def State.walk (s : State) (what : Held) (tid list v : Nat) (write world : Bool) : Reached × State :=
  match s.translate (s.roots.holds.any fun h => h.what == what && h.woken) list v write world with
  | (.ok a e, s) => (.spot ⟨tid, list, v, world, e, a⟩, s)
  | (.trap c, s) => (.trap c, s)
  | (.hold e rec, s) => (.hold e rec, s)

/-- Drops the holds on something that has been retried, or that a new hold replaces (R371). -/
def State.unhold (s : State) (what : Held) : State := { s with roots.holds := s.roots.holds.filter (·.what != what) }

/-- Whether a hold stands: no wake has come, or its record waits still for room in the trap queue (R370, R377). -/
def State.stands (s : State) (h : Hold) : Bool := !h.woken || h.fid.any fun f => (s.ctxt h.ctx).waiting.any (·.fid == f)

/-- Whether something is held (R370). -/
def State.isHeld (s : State) (what : Held) : Bool := s.roots.holds.any fun h => h.what == what && s.stands h

/-- Opens a hold at a Root, R370, with its record and a new fault id, or a silent one (R368 check 5). -/
def State.openHold (s : State) (c : Nat) (what : Held) (tile ticket : Nat) (write : Bool) (entry : Nat) (rec : Bool) (v tid : Nat) : State :=
  let s := s.unhold what
  if rec then
    let fid := (s.ctxt c).fid + 1
    let s := s.onCtxt c fun y => { y with fid := fid }
    let r : TqRec := ⟨.translation, BitVec.ofNat 64 (v % 2 ^ 40 + tid * 2 ^ 48), fid.toNat, ticket, 0x3FFFF, 0xFF, tile, false, write, 0⟩
    { s.record c r with roots.holds := s.roots.holds ++ [⟨c, some fid.toNat, what, entry, false, false⟩] }
  else { s with roots.holds := s.roots.holds ++ [⟨c, none, what, entry, false, false⟩] }

/-- Opens a hold that lasts until the kernel writes in place, R303. -/
def State.holdForPlace (s : State) (c : Nat) (what : Held) : State :=
  let s := s.unhold what
  { s with roots.holds := s.roots.holds ++ [⟨c, none, what, 0, false, true⟩] }

/-- A walk of a flat list of leaves (R366), as the sapwood pool and the save area have: the frame address of entry `i`, the failing check, or a hold
on a migrating page (R368, R374). A leaf in the form of check 1 gets A, and D when the walk is that of a write (R375). -/
def State.flatWalk (s : State) (root i : Nat) (big world write : Bool) : Walked × State :=
  let e := root + 8 * i
  let w := s.hbmNum e 8
  if !entryBit w 63 then (.trap .translation, s)
  else if !(entrySound w big && entryBit w 62) then (.trap .pageFormat, s)
  else
    let s := s.setEntryBit e 59
    if entryBit w 60 != world then (.trap .worldViolation, s)
    else if write && !entryBit w 61 then (.trap .pageWrite, s)
    else if write && entryBit w 56 then (.hold e false, s)
    else (.ok (bits w 39 19 * 2 ^ 19) e, if write then s.setEntryBit e 58 else s)

/-- Puts a context into faulted: every live kernel is killed but one that writes in place (R273). -/
def State.enterFaulted (s : State) (c : Nat) : State :=
  let ks := (s.crown.kernels.filter fun k => k.ctx == c && !k.inPlace).map (·.id)
  ks.foldl (fun s k => s.abort k .kill) (s.onCtxt c fun x => { x with st := .faulted })

/-- A fatal event of a context, R273: its record (R376, R377), and faulted. -/
def State.faultContext (s : State) (c : Nat) (r : TqRec) : State :=
  match (s.ctxt c).st with
  | .faulted | .free | .destroyed => s
  | _ => (s.record c r).enterFaulted c

/-- A fatal event of which a record tells the cause and the ticket alone. -/
def State.fatalEvent (s : State) (c : Nat) (cause : Cause) (ticket : Option Nat) : State := s.faultContext c (.plain cause 0 ticket true)

/-- The copying half of settling, R295: the newest committed version of a line is put into heartwood with its check values, and all leave; nothing is
held for it any more (R371). -/
def State.putVersions (s : State) (line a : Nat) : State :=
  let s := s.unhold (.settle line)
  let vs := s.roots.versions.filter fun v => v.line == line && s.committed v
  match vs.getLast? with
  | none => s
  | some v =>
    let s := (v.bad.map fun i => WordAt.hbm (a / 64 + i)).foldl State.markBad (s.putHbm a v.data)
    { s with roots.versions := s.roots.versions.filter fun v => !vs.contains v }

/-- A pool entry that fails a check puts its context into faulted (R368); the record tells of the access that met it, by its ticket and tile, and of the
address and tensor where the cause is TRANSLATION (R376). -/
def State.poolFault (s : State) (c : Nat) (f : Cause) (v tid ticket tile : Nat) (write : Bool) : State :=
  let t := f == .translation
  s.faultContext c ⟨f, if t then BitVec.ofNat 64 (v % 2 ^ 40 + tid * 2 ^ 48) else 0#64, 0, ticket, 0x3FFFF, 0xFF, tile, true, t && write, 0⟩

/-- The walk of the pool leaf of a version that is read, R366 and R368. -/
def State.walkVersion (s : State) (v : Version) : Walked × State :=
  s.flatWalk (s.ctxt v.ctx).poolRoot (v.slot / 2048) false (s.ctxt v.ctx).secure false

/-- A read of bytes within one line walks the pool leaf of the version it sees, if it sees one; a failing check is fatal to the version's context (R368). -/
def State.seeVersion (s : State) (own : Option (Nat × Nat)) (a ticket tile : Nat) : State :=
  match s.seenVersion own (lineOfAddr a) with
  | none => s
  | some v => match s.walkVersion v with
    | (.trap f, s) => s.poolFault v.ctx f (v.spot.v + a % 256) v.spot.tid ticket tile false
    | (_, s) => s

/-- The same for every line of a host's read. -/
def State.seeLines (s : State) (a n : Nat) : State := (linesOf a n).foldl (fun s l => s.seeVersion none (256 * l) 0xFFFF 0x1FF) s

/-- What settling a line comes to. -/
inductive Settled where
  | done
  /-- The copy holds at its Root (R370). -/
  | held
  /-- The copy has failed a check, which is fatal to its context (R368). -/
  | failed (c : Cause)
deriving DecidableEq, Repr

/-- The committed version of a line that settling would copy, R295. -/
def State.toSettle (s : State) (line : Nat) : Option Version := (s.roots.versions.filter fun v => v.line == line && s.committed v).getLast?

/-- A Root settles the committed versions of a line, R295: the copy reads the version's pool line and is a write, both with the checks of R368, and a failing
one other than a hold is fatal to the context. -/
def State.settleCopy (s : State) (line : Nat) : Settled × State :=
  let what := Held.settle line
  match s.toSettle line with
  | none => (.done, s.unhold what)
  | some v =>
    if s.isHeld what then (.held, s)
    else match s.walkVersion v with
      | (.trap f, s) => (.failed f, s.poolFault v.ctx f v.spot.v v.spot.tid v.ticket 0x1FF false)
      | (_, s) => match s.walk what v.spot.tid v.spot.list v.spot.v true v.spot.world with
        | (.spot p, s) => (.done, s.putVersions line p.phys)
        | (.hold e rec, s) => (.held, s.openHold v.ctx what 0x1FF v.ticket true e rec v.spot.v v.spot.tid)
        | (.trap f, s) => (.failed f, s.fatalEvent v.ctx f (some v.ticket))

/-- Settles the committed versions of a line as far as it goes: held or failing, the copy leaves them where they are. -/
def State.settleLine (s : State) (line : Nat) : State := (s.settleCopy line).2

/-- Settles several lines in turn, as far as the first that cannot be. -/
def State.settleCopies : List Nat → State → Settled × State
  | [], s => (.done, s)
  | l :: r, s => match s.settleCopy l with
    | (.done, s) => State.settleCopies r s
    | x => x

/-- Bytes with a run replaced from an offset. -/
def patchBytes (l : List Byte) (o : Nat) (bs : List Byte) : List Byte := l.take o ++ bs ++ l.drop (o + bs.length)

/-- Bytes of the Crown or of the host land: on heartwood, and on each committed version that stands above one of their lines still because its copy is held
or has failed, so that readers see them and no later copy takes them back (R295, R380; DESIGN CHOICE, log 89). -/
def State.landHbm (s : State) (a : Nat) (bs : List Byte) : State :=
  let patched (v : Version) : Version :=
    let lo := max a (256 * v.line)
    let n := min (a + bs.length) (256 * v.line + 256) - lo
    if n == 0 || !s.committed v then v
    else { v with
      data := patchBytes v.data (lo % 256) ((bs.drop (lo - a)).take n)
      bad := v.bad.filter fun i => !(wordSpan (lo % 256) n).contains i }
  { s.putHbm a bs with roots.versions := s.roots.versions.map patched }

/-! ### A kernel's writes -/

/-- The key under which a kernel's own versions stand; none for a DIRECT kernel and one that writes in place (R294, R304). -/
def Kernel.key (k : Kernel) : Option (Nat × Nat) := if k.inPlace then none else k.ticket.map fun t => (k.ctx, t)

/-- Adds a panel to a set, R296. -/
def addPanel (l : List Nat) (p : Nat) : List Nat := if l.contains p then l else l ++ [p]

/-- Puts a panel in a kernel's read set; a DIRECT kernel has no sets. -/
def State.noteRead (s : State) (k : Nat) (p : Nat) : State :=
  s.onKernel k fun n => if n.ticket.isSome then { n with reads := addPanel n.reads p } else n

/-- Puts a panel in a kernel's write set. -/
def State.noteWrite (s : State) (k : Nat) (p : Nat) : State :=
  s.onKernel k fun n => if n.ticket.isSome then { n with writes := addPanel n.writes p } else n

/-- The pool lines of a context, R293. -/
def State.poolLines (s : State) (c : Nat) : Nat := (s.ctxt c).poolFrames * 2048

/-- The `n` lowest pool lines of a context that no version takes, as far as there are so many (log 16). -/
def State.freeLines (s : State) (c n : Nat) : List Nat :=
  let used := s.roots.versions.filterMap fun v => if v.ctx == c then some v.slot else none
  ((List.range (used.length + n)).filter fun i => !used.contains i && i < s.poolLines c).take n

/-- The walks of the pool's leaves for writes to lines of a context's pool (R366, R368): the first that does not pass decides. -/
def State.walkPool (c : Nat) : List Nat → State → Walked × State
  | [], s => (.ok 0 0, s)
  | n :: r, s => match s.flatWalk (s.ctxt c).poolRoot (n / 2048) false (s.ctxt c).secure true with
    | (.ok _ _, s) => State.walkPool c r s
    | x => x

/-- Bits hi:lo of a kernel's launch record, R282. -/
def Kernel.field (k : Kernel) (hi lo : Nat) : Nat := fieldOf k.record hi lo

/-- The step-dependency flag (R251). -/
def Kernel.stepdep (k : Kernel) : Bool := k.field 150 150 == 1

/-- Whether a write that finds no pool line holds, R303: policy SERIAL, or serial mode. -/
def Kernel.waitsForPlace (k : Kernel) : Bool := k.serial || k.field 148 148 == 1

/-- The lines of its own a kernel with a key has, of some lines; none is missing to a kernel that writes heartwood. -/
def State.ownVersion (s : State) (c t line : Nat) : Option Version :=
  s.roots.versions.find? fun v => v.ctx == c && v.ticket == t && v.line == line

/-- Puts bytes that lie within one line into a kernel's own version of it, which begins in pool line `slot` as a copy of what the kernel reads where the
kernel has none (R293, R294). `bad` says whether the words written come with check values that do not fit (R400). -/
def State.versionWrite (s : State) (c t slot : Nat) (p : Spot) (bs : List Byte) (bad : Bool) : State :=
  let a := p.phys
  let line := lineOfAddr a
  let here := wordSpan (a % 256) bs.length
  let mark (l : List Nat) : List Nat := if bad then here ++ l.filter (!here.contains ·) else l.filter (!here.contains ·)
  if (s.ownVersion c t line).isSome then
    { s with roots.versions := s.roots.versions.map fun v =>
      if v.ctx == c && v.ticket == t && v.line == line then { v with data := patchBytes v.data (a % 256) bs, bad := mark v.bad } else v }
  else
    let data := patchBytes (s.viewBytes none (256 * line) 256) (a % 256) bs
    let old := (List.range 4).filter fun i => s.viewBad none (256 * line + 64 * i) 64
    { s with roots.versions := s.roots.versions ++ [⟨c, t, line, data, slot, { p with v := p.v - a % 256, phys := 256 * line }, mark old⟩] }

/-- Puts bytes into heartwood; `bad` as for `versionWrite`. -/
def State.heartWrite (s : State) (p : Spot) (bs : List Byte) (bad : Bool) : State :=
  (if bad then hbmWords p.phys bs.length else []).foldl State.markBad (s.putHbm p.phys bs)

end Sys2Proof.Machine
end

