-- ==== Sys2Proof/Machine/StreamCmd.lean ====
section
/-! DEFINITION. Stream instructions at issue: the checks of R158 and R176, the command queue (R167), rings (R179, R180), sbar, tok, tdsync,
sstat (R182, R183, R186, R187), and qlaunch and esc, which sample a record (R287, R312). -/
namespace Sys2Proof.Machine

/-- Command-queue entries of a hardware context, R167. -/
def queueCap (u : Bool) : Nat := if u then 16 else 64

/-- Takes a command-queue entry, R167: CMDQ_FULL when none is free. -/
def State.enqueue (s : State) (k : QKind) (after : List WRef) : State :=
  let e : QCmd := ⟨s.me.flow.ord, k, after⟩
  s.onMe fun c => { c with cmdq := c.cmdq ++ [e] }

/-- The streams a hardware context has issued and that have neither completed nor stopped. -/
def State.streamsOf (s : State) (t : Nat) (u : Bool) : List Stream := s.traffic.streams.filter fun x => x.tile == t && x.urgent == u

/-- The group the issuing context runs, if any. -/
def State.myGroup (s : State) : Option Group := s.groupOf s.cur.tile s.cur.urgent

/-- The kernel the issuing context runs. -/
def State.myKernel (s : State) : Option Kernel := s.kernelOf s.cur.tile s.cur.urgent

/-- Whether the issuing kernel is step-dependent; no other may see the step view or a ringed tensor (R251, R252). -/
def State.stepDependent (s : State) : Bool := s.myKernel.any (·.stepdep)

/-- Whether a space-2 base names another package. A multicast base never does: its rectangle lies on the issuing tile's die, and the model takes
the base's rank to be ignored with its tile (DESIGN CHOICE, log 35). -/
def State.foreign (s : State) (w : Wide) : Bool := wEnd w == 1 && ptrSpace (wBase w) == 2 && ptrRank (wBase w) != s.rank && !wMulticast w

/-- The tiles of a multicast rectangle on the issuing tile's die, R156 and R405. -/
def rectTiles (t : Nat) (w : Wide) : List Nat :=
  let (rl, rh, cl, ch) := wRect w
  (List.range (rh + 1 - rl)).flatMap fun r => (List.range (ch + 1 - cl)).map fun c => t / 120 * 120 + (rl + r) * 12 + cl + c

/-- Whether a multicast rectangle lies within the group, R156 and R405. -/
def State.rectFits (s : State) (w : Wide) : Bool :=
  let (rl, rh, cl, ch) := wRect w
  rl ≤ rh && cl ≤ ch && rh ≤ 9 && ch ≤ 11 && (rectTiles s.cur.tile w).all fun t => s.myGroup.any (·.has t)

/-- The lowest and the highest byte offset, exclusive, an affine walk reaches. -/
def affineRange (w : Wide) (b : Nat) : Int × Int :=
  let term (j : Nat) : Int := (wCount w j - 1 : Nat) * wStride w j
  let lo := (List.range 4).foldl (fun a j => a + min 0 (term j)) 0
  let hi := (List.range 4).foldl (fun a j => a + max 0 (term j)) 0
  let base : Int := ptrOff (wBase w) * 8
  ((base + lo * (b : Nat)) / 8, (base + (hi + 1) * (b : Nat) + 7) / 8)

/-- No count of a record is zero. -/
def countsFull (w : Wide) : Bool := (List.range 4).all fun j => wCount w j != 0

/-- Why a stream of context `c` may not reach an offset of shared scratchpad, R276 and R278: it reaches the regions of its context. -/
def State.regionFault (s : State) (c off : Nat) : Option Cause :=
  let i := off / 2 ^ 22
  let owns (x : Ctxt) : Bool := x.st != CtxtState.free && x.regions.getLsbD i
  if owns (s.ctxt c) then none
  else if s.crown.ctxs.any fun x => owns x && x.secure != (s.ctxt c).secure then some .worldViolation
  else some .permission

/-- Why a stream of context `c` may not reach some byte of a range of shared scratchpad. -/
def State.regionsFault (s : State) (c lo hi : Nat) : Option Cause :=
  (List.range ((hi + 2 ^ 22 - 1) / 2 ^ 22 - lo / 2 ^ 22)).findSome? fun i => s.regionFault c ((lo / 2 ^ 22 + i) * 2 ^ 22)

/-- Order 5 of R158 on a scratchpad or host side of element width `b`, with R156, R278, R309 and R405: the range of an affine side or of a ring, whose parts
in shared scratchpad are the context's regions (log 48), and the base itself whatever the walk (R117). -/
def State.baseFault (s : State) (w : Wide) (b : Nat) : Option Cause :=
  let p := wBase w
  let sp := ptrSpace p
  let off := ptrOff p
  let lo : Int := partLo s.cur.urgent
  let hi : Int := partHi s.cur.urgent
  let rng : Int × Int := if wPattern w == 4 then (off, (off + 64 * wAux w : Nat)) else affineRange w b
  let ranged := wPattern w == 4 || (wPattern w == 0 && countsFull w)
  if wEnd w == 2 then (if sp == 6 then none else some .spaceInvalid)
  else if wEnd w != 1 then none
  else if sp != 1 && sp != 2 && sp != 3 then some .spaceInvalid
  else if (if sp == 3 then 2 ^ 28 else 2 ^ 21) ≤ off then some .spaceInvalid
  else if sp == 2 && !wMulticast w && 480 ≤ ptrTile p then some .spaceInvalid
  else if sp == 2 && !wMulticast w && ptrRank p == s.rank && (wPattern w == 0 || wNotify w) && !s.myGroup.any (·.has (ptrTile p)) then
    some .permission
  else if s.foreign w then
    (if (wNotify w && s.myKernel.any (·.ticket.isSome)) || (ranged && (rng.1 < 0 || (2 ^ 21 : Nat) < rng.2)) then some .permission else none)
  else if sp == 3 then
    (let c := s.ctxOf s.cur.tile s.cur.urgent
     if ranged && (rng.1 < 0 || (2 ^ 28 : Nat) < rng.2) then some .permission
     else (s.regionFault c off).orElse fun _ => if ranged then s.regionsFault c rng.1.toNat rng.2.toNat else none)
  else if (off : Int) < lo || hi ≤ off || (ranged && (rng.1 < lo || hi < rng.2)) then some .permission
  else if wMulticast w && !s.rectFits w then some .permission
  else none

/-- Order 4 of R158: an affine tensor side stays within its extents. -/
def coordsFit (w : Wide) (t : Option TensorV) : Bool :=
  match t with
  | some t =>
    wEnd w != 0 || wPattern w != 0 || !countsFull w
      || (inExtents t.desc (wExpand w) ((List.range 4).map fun j => wOrigin w j + min 0 ((wCount w j - 1 : Nat) * wStride w j))
          && inExtents t.desc (wExpand w) ((List.range 4).map fun j => wOrigin w j + max 0 ((wCount w j - 1 : Nat) * wStride w j)))
  | none => true

/-- R156 and R257 on the attributes that need a descriptor. -/
def attrsFit (ws wd : Wide) (st dt : Option TensorV) : Bool :=
  let ringed (t : Option TensorV) : Bool := t.any fun t => descRing t.desc
  (!wDecay ws || ringed st)
    && (!wExpand ws || st.any fun t => descAux t.desc && !fmtBlock (descFmt t.desc))
    && (wEnd wd != 0
      || (if ringed dt then (wRestamp wd && wMerge wd == 0) || (!wRestamp wd && wMerge wd == 4)
          else !wRestamp wd && wMerge wd != 4 && (wMerge wd == 0 || !dt.any fun t => fmtBlock (descFmt t.desc))))

/-- Orders 2 of R158 for one named tensor. -/
def State.tensorFault (s : State) (named : Bool) (t : Option TensorV) : Option Cause :=
  if !named then none
  else match t with
    | none => some .tensorInvalid
    | some t =>
      if !t.sound then some .tensorInvalid
      else if descWorld t.desc != (s.ctxt (s.ctxOf s.cur.tile s.cur.urgent)).secure then some .worldViolation
      else none

/-- The first of a list of faults. -/
def firstFault : List (Option Cause) → Option Cause
  | [] => none
  | some c :: _ => some c
  | none :: r => firstFault r

/-- The checks of a stream command at issue in their order: R158, R252 after order 2, then the shape of R176. Within a row of R158 the source side is judged
first, and what R156 and R257 ask of the tensor stands behind order 2, which finds its descriptor (DESIGN CHOICE, log 93). Order 3 concerns every tensor that
the command names, the page tensor and the patch list of a decoder among them (R149). -/
def State.streamFault (s : State) (op : StreamOp) (ws wd : Wide) (si di : Option Wide) (st dt pt : Option TensorV) : Option Cause :=
  let fail (b : Bool) (c : Cause) : Option Cause := if b then none else some c
  let ringed (w : Wide) (t : Option TensorV) : Bool := wEnd w == 0 && t.any fun t => descRing t.desc
  let turned (t : Option TensorV) : Bool := t.any fun t => fmtBlock (descFmt t.desc) && bits (descLayout t.desc) 2 2 == 1
  firstFault [
    fail (recordsSound ws wd st dt si di) .walkInvalid,
    s.tensorFault (wEnd ws == 0) st,
    s.tensorFault (wEnd wd == 0 || wEnd wd == 4) dt,
    s.tensorFault (wEnd wd == 4) pt,
    fail (attrsFit ws wd st dt) .walkInvalid,
    fail (s.stepDependent || !(ringed ws st || ringed wd dt)) .ringUndeclared,
    fail (!(turned st || turned dt || turned pt)) .illegalLayout,
    fail (coordsFit ws st && coordsFit wd dt) .coordRange,
    s.baseFault ws ((wWidth ws st).getD 8),
    s.baseFault wd ((wWidth wd dt).getD 8),
    fail (!((wTotal ws).isSome && (wTotal wd).isSome) || wTotal ws == wTotal wd) .segmentMismatch,
    fail (shapeFits op ws wd st dt pt) .walkInvalid]

/-- Ring-table entries of a hardware context, R179. -/
def ringCap (u : Bool) : Nat := if u then 2 else 8

/-- Whether an sring finds its ring or room for it, R179. A ring is known by all 64 bits of its base pointer, here and in srel (DESIGN CHOICE, log 93). -/
def TileCtx.ringFits (c : TileCtx) (u : Bool) (w : Wide) : Bool :=
  match c.rings.find? (·.base == wBase w) with
  | some r => r.cap == wAux w
  | none => c.rings.length < ringCap u

/-- Creates an sring's ring unless it exists. -/
def TileCtx.openRing (c : TileCtx) (w : Wide) : TileCtx :=
  if c.rings.any (·.base == wBase w) then c else { c with rings := c.rings ++ [⟨wBase w, wAux w, 0, 0⟩] }

/-- Whether a stream's writes are staged, R172: a transactional kernel and a destination in the host window or on another rank. -/
def State.stages (s : State) (wd : Wide) : Bool :=
  (s.myKernel.any (·.ticket.isSome)) && (wEnd wd == 2 || s.foreign wd)

/-- Opens an escape of the issuing kernel in its place in the escape order (R305); its capture comes later. -/
def State.openEscape (s : State) : Nat × State :=
  let (id, s) := s.fresh
  let e : Escape := ⟨id, s.clock, s.cur.tile, s.me.flow.ord, none, false, false⟩
  (id, (s.me.group.elim s fun k => s.onKernel k fun n => { n with escapes := n.escapes ++ [e] }))

/-- What a stream command latches at issue: its records, their index records, and their tensors (R162, R176). -/
structure Latch where
  ws : Wide
  wd : Wide
  si : Option Wide
  di : Option Wide
  st : Option TensorV
  dt : Option TensorV
  pt : Option TensorV
deriving DecidableEq, Repr

/-- Latches the records w[a] and w[b]; a tensor's first use loads its descriptor. One choice of versions holds for the whole command (R162). -/
def State.latch (s : State) (a b : Fin 32) : Latch × State :=
  let ws := s.w a
  let wd := s.w b
  let idx (w : Wide) : Option Wide :=
    if wDependent w && (wIndexPort w).isNone then some (s.w (Fin.ofNat 32 (bits (wAux w) 4 0))) else none
  let c := s.ctxOf s.cur.tile s.cur.urgent
  let (v, s) := if s.traffic.reloads.any (·.ctx == c) then s.freeNat else (0, s)
  let (st, s) := if wEnd ws == 0 then s.tensorView c (wTensor ws) v else (none, s)
  let (dt, s) := if wEnd wd == 0 || wEnd wd == 4 then s.tensorView c (wTensor wd) v else (none, s)
  let (pt, s) := if wEnd wd == 4 then s.tensorView c (wPatch wd) v else (none, s)
  (⟨ws, wd, idx ws, idx wd, st, dt, pt⟩, s)

/-- The fault of a stream command, and TINFO's pointer where it has one (R158). -/
def State.latchFault (s : State) (op : StreamOp) (x : Latch) : Option (Cause × Word) :=
  (s.streamFault op x.ws x.wd x.si x.di x.st x.dt x.pt).map fun f => (f, match f with
    | .permission | .spaceInvalid => if (s.baseFault x.ws ((wWidth x.ws x.st).getD 8)).isSome then wBase x.ws else wBase x.wd
    | _ => 0#64)

/-- A stream as its command leaves it (R176). -/
def State.newStream (s : State) (op : StreamOp) (x : Latch) (k : Fin 64) (m : Fin 2) (id : Nat) (esc : Option Nat) : Stream where
  id := id
  tile := s.cur.tile
  urgent := s.cur.urgent
  group := s.me.group.getD 0
  op := op
  src := x.ws
  dst := x.wd
  srcT := x.st
  dstT := x.dt
  patchT := x.pt
  srcIdx := x.si
  dstIdx := x.di
  kdone := k
  mode := m
  iss := s.clock
  ord := s.me.flow.ord
  engine := none
  srcCur := Cursor.start x.ws (wEnd x.wd == 3)
  dstCur := Cursor.start x.wd false
  total := if wEnd x.ws == 3 then wTotal x.wd else wTotal x.ws
  readTo := 0
  readMore := []
  buf := []
  wroteTo := 0
  wroteMore := []
  pack := []
  words := 0
  segLeft := 0
  pre := none
  readTok := false
  tokens := []
  req := []
  unit := none
  output := none
  escape := esc
  marks := (s.tile s.cur.tile).cn.closed.toList
  staged := []
  stagedRows := 0#8
  away := wEnd x.wd == 2 || s.foreign x.wd
  run := none
  views := []
  foul := false
  tags := 0#8
  spent := false
  reqRows := []

/-- Issues a stream whose checks have passed: it takes a queue entry, behind the writes of an sbar where it touches scratchpad (R176, R182). -/
def State.issueStream (s : State) (op : StreamOp) (x : Latch) (k p : Fin 64) (m : Fin 2) : State :=
  let (id, s) := s.fresh
  let (esc, s) := if s.stages x.wd then (fun (e, s) => (some e, s)) s.openEscape else (none, s)
  let y := s.newStream op x k m id esc
  let s := { s with traffic.streams := s.traffic.streams ++ [y] }
  let s := if op == StreamOp.sring then s.onMe (·.openRing x.wd) else s
  s.enqueue (.stream id p) (if wEnd x.ws == 1 || wEnd x.wd == 1 then s.me.bar else [])

/-- A stream command at issue, R176: latches its records, checks them and takes a queue entry. -/
def State.streamCommand (s : State) (op : StreamOp) (a b : Fin 32) (k p : Fin 64) (m : Fin 2) : Out' :=
  s.notInHandler <|
    let (x, s) := s.latch a b
    match s.latchFault op x with
    | some (c, i) => (s.trap c i).done
    | none =>
      if op == StreamOp.sring && !s.me.ringFits s.cur.urgent x.wd then (s.trap .walkInvalid 0#64).done
      else if queueCap s.cur.urgent ≤ s.me.cmdq.length then (s.trap .cmdqFull 0#64).done
      else (s.issueStream op x k p m).done

/-- smov, R176. -/
def execSmov (a b : Fin 32) (k p : Fin 64) (m : Fin 2) (s : State) : Out' := s.streamCommand .smov a b k p m

/-- smc, R176. -/
def execSmc (a b : Fin 32) (k p : Fin 64) (m : Fin 2) (s : State) : Out' := s.streamCommand .smc a b k p m

/-- sgat2, R176. -/
def execSgat2 (a b : Fin 32) (k p : Fin 64) (m : Fin 2) (s : State) : Out' := s.streamCommand .sgat2 a b k p m

/-- sexp, R176 and R157. -/
def execSexp (a b : Fin 32) (k p : Fin 64) (m : Fin 2) (s : State) : Out' := s.streamCommand .sexp a b k p m

/-- sdec, R177. -/
def execSdec (a b : Fin 32) (k p : Fin 64) (m : Fin 2) (s : State) : Out' := s.streamCommand .sdec a b k p m

/-- sport, R176. -/
def execSport (a b : Fin 32) (k p : Fin 64) (m : Fin 2) (s : State) : Out' := s.streamCommand .sport a b k p m

/-- sring, R176 and R179. -/
def execSring (a b : Fin 32) (k p : Fin 64) (m : Fin 2) (s : State) : Out' := s.streamCommand .sring a b k p m

/-- srel, R180: takes effect at issue + 1. -/
def execSrel (w : Fin 32) (a : Fin 64) (s : State) : Out' :=
  s.notInHandler (s.act 1 (.srel (wBase (s.w w)).toNat (bits (s.x a).toNat 31 0))).done

/-- The release of an srel at its cycle, R180 and R181: before the ring words of the cycle. -/
def State.releaseRing (s : State) (t : Nat) (u : Bool) (base n pc slot : Nat) : State :=
  match (s.tctx t u).rings.find? (·.base.toNat == base) with
  | none => s.raise t u .ringRelease 0#64 pc slot
  | some r =>
    if r.written - r.released < n then s.raise t u .ringRelease 0#64 pc slot
    else s.onCtx t u fun c => { c with rings := c.rings.map fun r => if r.base.toNat == base then { r with released := r.released + n } else r }

/-- The stream, drain and cdrain writes that are outstanding, R182: of every command that the tile has issued, in both of its hardware contexts (DEDUCED, log 93). -/
def State.outstanding (s : State) : List WRef :=
  let x := s.tile s.cur.tile
  let dr := (x.mx.cmds.filter fun m => m.started && (match m.op with
    | .drain _ _ _ => true
    | _ => false)).map fun m => WRef.engine m.id
  let cd := (x.cn.drains.filter fun d => d.iss < s.now s.cur.tile d.urgent).map fun d => WRef.engine d.id
  (s.traffic.streams.filter (·.tile == s.cur.tile)).map (fun x => WRef.stream x.id) ++ dr ++ cd

/-- sbar, R182: later commands wait for the writes outstanding now. -/
def execSbar (s : State) : Out' := s.notInHandler (s.onMe fun c => { c with bar := c.bar ++ s.outstanding }).done

/-- tok, R183. -/
def execTok (k a : Fin 64) (n : BitVec 12) (s : State) : Out' :=
  s.notInHandler <|
    let p := s.x a
    let own := a == 0 || ptrSpace p == 1
    let tile := if own then s.cur.tile else ptrTile p
    let away := !own && ptrRank p != s.rank
    if !own && (ptrSpace p != 2 || 480 ≤ tile) then (s.trap .spaceInvalid p).done
    else if !own && !away && !s.myGroup.any (·.has tile) then (s.trap .permission p).done
    else if away && s.myKernel.any (·.ticket.isSome) then (s.trap .permission p).done
    else if k == 63 || n == 0 then s.done
    else if queueCap s.cur.urgent ≤ s.me.cmdq.length then (s.trap .cmdqFull 0#64).done
    else (s.enqueue (.tok tile (if away then some (ptrRank p) else none) k n.toNat) s.me.bar).done

/-- tdsync, R186. -/
def execTdsync (k a : Fin 64) (s : State) : Out' :=
  s.notInHandler
    (if queueCap s.cur.urgent ≤ s.me.cmdq.length then (s.trap .cmdqFull 0#64).done
     else (s.enqueue (.tdsync (bits (s.x a).toNat 15 0) k) []).done)

/-- sstat, R187. -/
def execSstat (d : Fin 64) (e : Fin 5) (s : State) : Out' :=
  s.notInHandler
    (let xs := s.streamsOf s.cur.tile s.cur.urgent
     let v : Nat := match e.val with
       | 0 => s.me.cmdq.length
       | 1 => xs.foldl (fun a x => match x.engine with
         | some e => a + 2 ^ e
         | none => a) 0
       | 2 => xs.length
       | 3 => (xs.filter fun x => s.roots.holds.any fun h => h.fid.isSome && (match h.what with
         | .elem n _ _ => n == x.id
         | _ => false)).length
       | _ => s.me.rings.length
     (s.resultX 2 d (BitVec.ofNat 64 v)).done)

/-- The target of an instruction that names one 64-byte word of space 1 through a register, R118. -/
def State.wordTarget (s : State) (a : Fin 64) (disp : Int) : Except (Cause × Word) Nat :=
  match s.target [1] .load (a == 62) (s.x a) disp 64 with
  | .error e => .error e
  | .ok (.spad _ off, _) => .ok off
  | .ok (_, p) => .error (.spaceInvalid, p)

/-- esc, R312: the record is sampled at issue + 2. -/
def execEsc (b : Fin 64) (i : BitVec 12) (s : State) : Out' :=
  s.notInHandler <|
    match s.wordTarget b (i.toInt * 64) with
    | .error (c, p) => (s.trap c p).done
    | .ok off =>
      let (id, s) := s.openEscape
      (s.act 2 (.esc off (ptrOwn off) id)).done

/-- Escapes of a kernel whose capture is complete, R305. -/
def Kernel.captured (k : Kernel) : Nat := (k.escapes.filter fun e => e.what.isSome && !e.held).length

/-- Escapes a transactional kernel has staged, R305 and R313: of one that writes in place those from before. -/
def Kernel.stagedNow (k : Kernel) : Nat := (k.escapes.filter fun e => e.what.isSome && !e.held && (!k.inPlace || e.early)).length

/-- qlaunch, R287: the checks of issue; the record is sampled at issue + 2. A transactional kernel with 1,024 escapes staged meets its
out-of-sapwood policy (R303): it aborts, or the capture waits until it writes in place. -/
def execQlaunch (k a b : Fin 64) (s : State) : Out' :=
  s.notInHandler <|
    let q := bits (s.x a).toNat 10 0
    let c := s.ctxOf s.cur.tile s.cur.urgent
    let x := s.queue q
    if x.st == QState.unbound || x.ctx != c then (s.trap .queueInvalid 0#64).done
    else match s.wordTarget b 0 with
      | .error (f, p) => (s.trap f p).done
      | .ok off =>
        match s.myKernel with
        | some n =>
          if n.ticket.isSome && 1024 ≤ n.captured && !n.inPlace && !n.waitsForPlace then (s.abort n.id .sapFull).done
          else
            let (id, s) := s.openEscape
            (s.act 2 (.qlaunch q k off id)).done
        | none => (s.act 2 (.qlaunch q k off 0)).done

end Sys2Proof.Machine
end

