-- ==== Sys2Proof/Machine/Decoder.lean ====
section
/-! DEFINITION. The decoder units (R163 to R166, R177, R415): PNG, TIFF with T.6 and baseline JPEG to samples, and the page and patch list.
The tables and procedures of the standards that R163 names are taken from those standards (log 17). -/
namespace Sys2Proof.Machine

/-- A decoded image: width, height, channels and samples, channels interleaved. -/
structure Picture where
  w : Nat
  h : Nat
  ch : Nat
  px : Array Nat

/-- Bits left to read. -/
structure Bits where
  data : List Nat
  pos : Nat

/-- The next bit, least significant first. -/
def Bits.lsb : Bits → Option (Nat × Bits)
  | ⟨[], _⟩ => none
  | ⟨b :: r, p⟩ => some (b / 2 ^ p % 2, if p == 7 then ⟨r, 0⟩ else ⟨b :: r, p + 1⟩)

/-- The next bit, most significant first. -/
def Bits.msb : Bits → Option (Nat × Bits)
  | ⟨[], _⟩ => none
  | ⟨b :: r, p⟩ => some (b / 2 ^ (7 - p) % 2, if p == 7 then ⟨r, 0⟩ else ⟨b :: r, p + 1⟩)

/-- `n` bits as a number, the first the least significant. -/
def Bits.take (r : Bits) : Nat → Option (Nat × Bits)
  | 0 => some (0, r)
  | n + 1 => do
    let (b, r) ← r.lsb
    let (v, r) ← r.take n
    return (b + 2 * v, r)

/-- `n` bits as a number, the first the most significant. -/
def Bits.takeMsb (r : Bits) (n : Nat) : Option (Nat × Bits) :=
  (List.range n).foldlM (fun (v, r) _ => (Bits.msb r).map fun (b, r) => (2 * v + b, r)) (0, r)

/-- A canonical prefix code: codes of each length from 1, and symbols in code order. -/
structure Prefix where
  counts : List Nat
  syms : Array Nat

/-- Reads one symbol of a prefix code, the bits given by `next`. -/
def Prefix.read (next : Bits → Option (Nat × Bits)) (p : Prefix) (r : Bits) : Option (Nat × Bits) :=
  let rec go : List Nat → Nat → Nat → Nat → Bits → Option (Nat × Bits)
    | [], _, _, _, _ => none
    | c :: cs, code, first, index, r =>
      match next r with
      | none => none
      | some (b, r) =>
        let code := code + b
        if code < first + c then (p.syms[index + (code - first)]?).map fun s => (s, r)
        else go cs (2 * code) (2 * (first + c)) (index + c) r
  go p.counts 0 0 0 r

/-- The prefix code of code lengths, with the code space left over (negative when over-subscribed). -/
def Prefix.ofLengths (ls : List Nat) : Prefix × Int :=
  let counts := (List.range 15).map fun l => ls.count (l + 1)
  let syms := (List.range 15).flatMap fun l => (List.range ls.length).filter fun i => ls.getD i 0 == l + 1
  (⟨counts, syms.toArray⟩, counts.foldl (fun (left : Int) (c : Nat) => 2 * left - c) 1)

/-! ### Inflate (RFC 1951 as R163 takes it through PNG) -/

/-- Base and extra bits of a length symbol. -/
def inflateLen (s : Nat) : Nat × Nat :=
  if s == 285 then (258, 0) else if s < 265 then (s - 254, 0)
  else let k := (s - 261) / 4; ((4 + (s - 265) % 4) * 2 ^ k + 3, k)

/-- Base and extra bits of a distance symbol. -/
def inflateDist (s : Nat) : Nat × Nat :=
  if s < 4 then (s + 1, 0) else let k := s / 2 - 1; ((2 + s % 2) * 2 ^ k + 1, k)

/-- Copies `n` symbols from `d` back. -/
def copyBack (o : Array Nat) (d : Nat) : Nat → Array Nat
  | 0 => o
  | n + 1 => copyBack (o.push (o.getD (o.size - d) 0)) d n

/-- The symbols of one block with its codes. -/
def inflateBlock (ll dd : Prefix) : Nat → Bits → Array Nat → Option (Bits × Array Nat)
  | 0, _, _ => none
  | fuel + 1, r, o =>
    match ll.read Bits.lsb r with
    | none => none
    | some (s, r) =>
      if s < 256 then inflateBlock ll dd fuel r (o.push s)
      else if s == 256 then some (r, o)
      else if 285 < s then none
      else
        let (base, k) := inflateLen s
        match r.take k with
        | none => none
        | some (e, r) =>
          match dd.read Bits.lsb r with
          | none => none
          | some (ds, r) =>
            if 29 < ds then none
            else
              let (dbase, dk) := inflateDist ds
              match r.take dk with
              | none => none
              | some (de, r) =>
                if o.size < dbase + de then none else inflateBlock ll dd fuel r (copyBack o (dbase + de) (base + e))

/-- The fixed codes. -/
def inflateFixed : Prefix × Prefix :=
  ((Prefix.ofLengths (List.replicate 144 8 ++ List.replicate 112 9 ++ List.replicate 24 7 ++ List.replicate 8 8)).1,
   (Prefix.ofLengths (List.replicate 30 5)).1)

/-- The code lengths of a dynamic block. -/
def inflateLengths (cl : Prefix) (n : Nat) : Nat → Bits → List Nat → Option (Bits × List Nat)
  | 0, _, _ => none
  | fuel + 1, r, ls =>
    if n ≤ ls.length then (if n == ls.length then some (r, ls) else none)
    else match cl.read Bits.lsb r with
      | none => none
      | some (s, r) =>
        if s < 16 then inflateLengths cl n fuel r (ls ++ [s])
        else if s == 16 then
          match ls.getLast?, r.take 2 with
          | some l, some (k, r) => inflateLengths cl n fuel r (ls ++ List.replicate (3 + k) l)
          | _, _ => none
        else match r.take (if s == 17 then 3 else 7) with
          | some (k, r) => inflateLengths cl n fuel r (ls ++ List.replicate (k + if s == 17 then 3 else 11) 0)
          | none => none

/-- A code that may stand in a block: complete, or one code of one bit, or none where none is needed. -/
def prefixUsable (ls : List Nat) (left : Int) : Bool := left == 0 || (0 < left && ls.all (· ≤ 1) && ls.count 1 ≤ 1)

/-- The order of the code-length code. -/
def codeOrder : List Nat := [16, 17, 18, 0, 8, 7, 9, 6, 10, 5, 11, 4, 12, 3, 13, 2, 14, 1, 15]

/-- The codes of a dynamic block: up to 286 lengths and 32 distances, of which the last two stand for nothing (RFC 1951, 3.2.6 and 3.2.7). -/
def inflateDynamic (r : Bits) : Option (Bits × Prefix × Prefix) := do
  let (hl, r) ← r.take 5
  let (hd, r) ← r.take 5
  let (hc, r) ← r.take 4
  if 29 < hl then none
  else
    let (cs, r) ← (List.range (hc + 4)).foldlM (fun (l, r) _ => (Bits.take r 3).map fun (v, r) => (l ++ [v], r)) (([] : List Nat), r)
    let cls := (List.range 19).map fun i => ((codeOrder.zip cs).find? (·.1 == i)).elim 0 (·.2)
    let (cl, left) := Prefix.ofLengths cls
    if left != 0 then none
    else
      let n := hl + 257 + hd + 1
      let (r, ls) ← inflateLengths cl n (n + 1) r []
      let la := ls.take (hl + 257)
      let lb := ls.drop (hl + 257)
      let (ll, l1) := Prefix.ofLengths la
      let (dd, l2) := Prefix.ofLengths lb
      if la.getD 256 0 == 0 || !prefixUsable la l1 || !prefixUsable lb l2 then none else some (r, ll, dd)

/-- Every block of a deflate stream. -/
def inflateAll : Nat → Bits → Array Nat → Option (Bits × Array Nat)
  | 0, _, _ => none
  | fuel + 1, r, o => do
    let (fin, r) ← r.take 1
    let (ty, r) ← r.take 2
    let (r, o) ← match ty with
      | 0 =>
        let bs := if r.pos == 0 then r.data else r.data.drop 1
        let len := bs.getD 0 0 + 256 * bs.getD 1 0
        let nlen := bs.getD 2 0 + 256 * bs.getD 3 0
        let body := bs.drop 4
        if bs.length < 4 || len + nlen != 65535 || body.length < len then none
        else some (⟨body.drop len, 0⟩, o ++ (body.take len).toArray)
      | 1 => inflateBlock inflateFixed.1 inflateFixed.2 (8 * r.data.length + 1) r o
      | 2 => (inflateDynamic r).bind fun (r, ll, dd) => inflateBlock ll dd (8 * r.data.length + 1) r o
      | _ => none
    if fin == 1 then some (r, o) else inflateAll fuel r o

/-- Adler-32. -/
def adler32 (l : Array Nat) : Nat :=
  let (a, b) := l.foldl (fun (a, b) x => let a := (a + x) % 65521; (a, (b + a) % 65521)) (1, 0)
  b * 2 ^ 16 + a

/-- A big-endian number. -/
def beNat (l : List Nat) : Nat := l.foldl (fun a b => a * 256 + b) 0

/-- A zlib stream, R415. -/
def zlibData (z : List Nat) : Option (Array Nat) := do
  let cmf := z.getD 0 0
  let flg := z.getD 1 0
  if z.length < 6 || cmf % 16 != 8 || 7 < cmf / 16 || bits flg 5 5 == 1 || (cmf * 256 + flg) % 31 != 0 then none
  else
    let (r, o) ← inflateAll (z.length + 1) ⟨z.drop 2, 0⟩ #[]
    let tail := if r.pos == 0 then r.data else r.data.drop 1
    if tail.length < 4 || beNat (tail.take 4) != adler32 o then none else some o

/-! ### PNG (R163, R415) -/

/-- The chunks of a PNG after its signature: header and concatenated IDAT data. Ancillary chunks are passed over. -/
def pngChunks : Nat → List Nat → Option (List Nat) → List Nat → Nat → Option (List Nat × List Nat)
  | 0, _, _, _, _ => none
  | fuel + 1, d, hdr, idat, phase =>
    let n := beNat (d.take 4)
    let ty := (d.drop 4).take 4
    let body := (d.drop 8).take n
    if d.length < 12 + n || 2 ^ 31 ≤ n then none
    else
      let rest := d.drop (12 + n)
      match hdr with
      | none => if ty == [73, 72, 68, 82] && n == 13 then pngChunks fuel rest (some body) idat phase else none
      | some h =>
        if ty == [73, 68, 65, 84] then (if phase == 2 then none else pngChunks fuel rest hdr (idat ++ body) 1)
        else
          let phase := if phase == 1 then 2 else phase
          if ty == [73, 69, 78, 68] then (if phase == 0 then none else some (h, idat))
          else if ty == [80, 76, 84, 69] then (if h.getD 9 0 == 0 || phase != 0 then none else pngChunks fuel rest hdr idat phase)
          else if ty.getD 0 0 / 32 % 2 == 0 then none
          else pngChunks fuel rest hdr idat phase

/-- The Paeth predictor. -/
def paeth (a b c : Nat) : Nat :=
  let p : Int := (a : Int) + b - c
  let pa := (p - a).natAbs
  let pb := (p - b).natAbs
  let pc := (p - c).natAbs
  if pa ≤ pb && pa ≤ pc then a else if pb ≤ pc then b else c

/-- Undoes the filter of one row. -/
def pngRow (f ch : Nat) (raw : List Nat) (prev : Array Nat) : Array Nat :=
  raw.foldl (fun line v =>
    let i := line.size
    let a := if ch ≤ i then line.getD (i - ch) 0 else 0
    let b := prev.getD i 0
    let c := if ch ≤ i then prev.getD (i - ch) 0 else 0
    let p := match f with
      | 0 => 0
      | 1 => a
      | 2 => b
      | 3 => (a + b) / 2
      | _ => paeth a b c
    line.push ((v + p) % 256)) #[]

/-- Every row. -/
def pngRows (ch rb : Nat) : Nat → List Nat → Array Nat → Array Nat → Option (Array Nat)
  | 0, _, _, o => some o
  | h + 1, d, prev, o =>
    match d with
    | [] => none
    | f :: r =>
      if 4 < f then none
      else let line := pngRow f ch (r.take rb) prev; pngRows ch rb h (r.drop rb) line (o ++ line)

/-- The largest width and height, R163. -/
def maxDim : Nat := 16384

/-- A PNG. -/
def decodePng (d : List Nat) : Option Picture := do
  let (h, z) ← pngChunks (d.length + 1) (d.drop 8) none [] 0
  let w := beNat (h.take 4)
  let ht := beNat ((h.drop 4).take 4)
  let ct := h.getD 9 0
  if w == 0 || ht == 0 || maxDim < w || maxDim < ht || h.getD 8 0 != 8 || (ct != 0 && ct != 2) || h.getD 10 0 != 0 || h.getD 11 0 != 0
      || h.getD 12 0 != 0 then none
  else
    let ch := if ct == 0 then 1 else 3
    let raw ← zlibData z
    if raw.size != ht * (w * ch + 1) then none
    else
      let px ← pngRows ch (w * ch) ht raw.toList #[] #[]
      return ⟨w, ht, ch, px⟩

/-! ### TIFF with T.6 (R164) -/

/-- White runs 0 to 63 of ITU-T T.6, each code with a 1 before it. -/
def t6White : List Nat :=
  [309, 71, 23, 24, 27, 28, 30, 31, 51, 52, 39, 40, 72, 67, 116, 117, 106, 107, 167, 140, 136, 151, 131, 132, 168, 171, 147, 164, 152, 258, 259, 282] ++
  [283, 274, 275, 276, 277, 278, 279, 296, 297, 298, 299, 300, 301, 260, 261, 266, 267, 338, 339, 340, 341, 292, 293, 344, 345, 346, 347, 330, 331, 306, 307, 308]

/-- White make-up codes 64 to 1728. -/
def t6WhiteUp : List Nat :=
  [59, 50, 87, 183, 310, 311, 356, 357, 360, 359, 716, 717, 722, 723, 724, 725, 726, 727, 728, 729, 730, 731, 664, 665, 666, 88, 667]

/-- Black runs 0 to 63. -/
def t6Black : List Nat :=
  [1079, 10, 7, 6, 11, 19, 18, 35, 69, 68, 132, 133, 135, 260, 263, 536, 1047, 1048, 1032, 2151, 2152, 2156, 2103, 2088, 2071, 2072, 4298, 4299, 4300, 4301, 4200, 4201] ++
  [4202, 4203, 4306, 4307, 4308, 4309, 4310, 4311, 4204, 4205, 4314, 4315, 4180, 4181, 4182, 4183, 4196, 4197, 4178, 4179, 4132, 4151, 4152, 4135, 4136, 4184, 4185, 4139, 4140, 4186, 4198, 4199]

/-- Black make-up codes 64 to 1728. -/
def t6BlackUp : List Nat :=
  [1039, 4296, 4297, 4187, 4147, 4148, 4149, 8300, 8301, 8266, 8267, 8268, 8269, 8306, 8307, 8308, 8309, 8310, 8311, 8274, 8275, 8276, 8277, 8282, 8283, 8292, 8293]

/-- Make-up codes 1792 to 2560 of both colours. -/
def t6Up : List Nat :=
  [2056, 2060, 2061, 4114, 4115, 4116, 4117, 4118, 4119, 4124, 4125, 4126, 4127]

/-- Reads a code by walking its bits: the place of the code in the first table, or of the second after it. -/
def t6Code (a b c : List Nat) : Nat → Nat → Bits → Option (Nat × Bits)
  | 0, _, _ => none
  | n + 1, v, r =>
    match r.msb with
    | none => none
    | some (x, r) =>
      let v := 2 * v + x
      match a.findIdx? (· == v), b.findIdx? (· == v), c.findIdx? (· == v) with
      | some i, _, _ => some (i, r)
      | _, some i, _ => some (64 * (i + 1), r)
      | _, _, some i => some (64 * (i + 28), r)
      | _, _, _ => t6Code a b c n v r

/-- A run of one colour: make-up codes and a terminating code. -/
def t6Run (black : Bool) : Nat → Nat → Bits → Option (Nat × Bits)
  | 0, _, _ => none
  | fuel + 1, acc, r =>
    match (if black then t6Code t6Black t6BlackUp t6Up 13 1 r else t6Code t6White t6WhiteUp t6Up 13 1 r) with
    | none => none
    | some (n, r) => if n < 64 then some (acc + n, r) else t6Run black fuel (acc + n) r

/-- The first changing element at or after `p` of a row of width `w`. -/
def t6Change (row : Array Bool) (w : Nat) : Nat → Nat → Nat
  | 0, _ => w
  | n + 1, p => if w ≤ p then w else if row.getD p false != (if p == 0 then false else row.getD (p - 1) false) then p else t6Change row w n (p + 1)

/-- b1: the first changing element to the right of a0 (from `p`) of the colour opposite to `c`. -/
def t6B1 (row : Array Bool) (w p : Nat) (c : Bool) : Nat :=
  let q := t6Change row w (w + 1) p
  if q < w && row.getD q false == c then t6Change row w (w + 1) (q + 1) else q

/-- Pixels of one colour. -/
def t6Fill (line : Array Bool) (n : Nat) (c : Bool) : Array Bool := line ++ (List.replicate n c).toArray

/-- The modes of T.6: pass, horizontal, or vertical with its offset. -/
inductive T6Mode where
  | pass | horizontal | vertical (d : Int)
deriving DecidableEq, Repr

/-- The next mode. -/
def t6Mode (r : Bits) : Option (T6Mode × Bits) :=
  let rec go : Nat → Nat → Bits → Option (T6Mode × Bits)
    | 0, _, _ => none
    | n + 1, v, r =>
      match r.msb with
      | none => none
      | some (x, r) =>
        let v := 2 * v + x
        match v with
        | 3 => some (.vertical 0, r)
        | 9 => some (.horizontal, r)
        | 11 => some (.vertical 1, r)
        | 10 => some (.vertical (-1), r)
        | 17 => some (.pass, r)
        | 67 => some (.vertical 2, r)
        | 66 => some (.vertical (-2), r)
        | 131 => some (.vertical 3, r)
        | 130 => some (.vertical (-3), r)
        | _ => go n v r
  go 7 1 r

/-- One row: `line` holds the pixels before a0, `start` says that a0 is the imaginary element before the row. -/
def t6Row (ref : Array Bool) (w : Nat) : Nat → Array Bool → Bool → Bool → Bits → Option (Array Bool × Bits)
  | 0, _, _, _, _ => none
  | fuel + 1, line, start, c, r =>
    if w ≤ line.size then (if line.size == w then some (line, r) else none)
    else match t6Mode r with
      | none => none
      | some (m, r) =>
        let a0 := line.size
        let b1 := t6B1 ref w (if start then 0 else a0 + 1) c
        match m with
        | .pass => t6Row ref w fuel (t6Fill line (t6Change ref w (w + 1) (b1 + 1) - a0) c) false c r
        | .vertical d =>
          let a1 := (b1 : Int) + d
          if a1 < a0 || (a1 == a0 && !start) || (w : Int) < a1 then none
          else t6Row ref w fuel (t6Fill line (a1.toNat - a0) c) false (!c) r
        | .horizontal =>
          match t6Run c 64 0 r with
          | none => none
          | some (n, r) =>
            match t6Run (!c) 64 0 r with
            | none => none
            | some (k, r) => if w < a0 + n + k then none else t6Row ref w fuel (t6Fill (t6Fill line n c) k (!c)) false c r

/-- The rows of a strip. Bits behind its last row are passed over, whether they are an end-of-facsimile-block code or not (DESIGN CHOICE, log 95). -/
def t6Rows (w : Nat) : Nat → Array Bool → Bits → Array Bool → Option (Array Bool)
  | 0, _, _, o => some o
  | n + 1, ref, r, o =>
    match t6Row ref w (2 * w + 2) #[] true false r with
    | none => none
    | some (line, r) => t6Rows w n line r (o ++ line)

/-- A byte with its bits reversed (FillOrder 2). -/
def reverseBits (b : Nat) : Nat := (List.range 8).foldl (fun a i => 2 * a + b / 2 ^ i % 2) 0

/-- A TIFF. Of the tags that R164 gives no type a value of type SHORT or LONG is taken, and no other (DESIGN CHOICE, log 95). -/
def decodeTiff (d : List Nat) : Option Picture := do
  let le := d.getD 0 0 == 0x49
  let num (o n : Nat) : Option Nat :=
    let bs := (d.drop o).take n
    if d.length < o + n then none else some (beNat (if le then bs.reverse else bs))
  let ifd ← num 4 4
  let n ← num ifd 2
  let entries ← (List.range n).mapM fun i => do
    let o := ifd + 2 + 12 * i
    let tag ← num o 2
    let ty ← num (o + 2) 2
    let cnt ← num (o + 4) 4
    let _ ← num (o + 8) 4
    return (tag, ty, cnt, o + 8)
  let find (tag : Nat) := entries.find? fun e => e.1 == tag
  -- the values of a SHORT or LONG tag
  let vals (tag : Nat) : Option (List Nat) := do
    let (_, ty, cnt, o) ← find tag
    let size ← if ty == 3 then some 2 else if ty == 4 then some 4 else none
    if d.length < cnt then none
    else
      let base ← if cnt * size ≤ 4 then some o else num o 4
      (List.range cnt).mapM fun i => num (base + size * i) size
  let one (tag : Nat) : Option Nat := (vals tag).bind fun l => if l.length == 1 then l.head? else none
  let opt (tag dflt : Nat) : Option Nat := if (find tag).isNone then some dflt else one tag
  let w ← one 256
  let h ← one 257
  let comp ← one 259
  let photo ← one 262
  let bps ← opt 258 1
  let spp ← opt 277 1
  let fill ← opt 266 1
  let rps ← opt 278 h
  let t6 ← opt 293 0
  let planar ← opt 284 1
  let orient ← opt 274 1
  let offs ← vals 273
  let lens ← vals 279
  let strips := cdiv h (if rps == 0 then 1 else rps)
  if w == 0 || h == 0 || maxDim < w || maxDim < h || comp != 4 || 1 < photo || bps != 1 || spp != 1 || (fill != 1 && fill != 2) || rps == 0
      || t6 != 0 || planar != 1 || orient != 1 || offs.length != strips || lens.length != strips then none
  else
    let px ← (List.range strips).foldlM (fun (o : Array Bool) i => do
      let off := offs.getD i 0
      let len := lens.getD i 0
      if d.length < off + len then none
      else
        let bs := (d.drop off).take len
        t6Rows w (min rps (h - i * rps)) (List.replicate w false).toArray ⟨if fill == 2 then bs.map reverseBits else bs, 0⟩ o) #[]
    return ⟨w, h, 1, px.map fun b => if b == (photo == 1) then 255 else 0⟩

/-! ### Baseline JPEG (R163) -/

/-- A real number Σ aₖ cos(kπ/16) with integers aₖ, k in 0..7: the field the exact inverse DCT lies in. -/
abbrev Cosine := List Int

/-- Adds `a` cos(kπ/16) for any k. -/
def Cosine.addTerm (c : Cosine) (a : Int) (k : Int) : Cosine :=
  let k := (k % 32).toNat
  let k := if 16 < k then 32 - k else k
  let (k, a) := if 8 < k then (16 - k, -a) else (k, a)
  if k == 8 then c else c.set k (c.getD k 0 + a)

/-- The integer square root, by bits from 2^(n-1) down. -/
def isqrt (n x : Nat) : Nat := (List.range n).foldl (fun r i => let q := r + 2 ^ (n - 1 - i); if q * q ≤ x then q else r) 0

/-- cos(kπ/16) × 2^600 for k in 0..7, rounded down within a few units. -/
def cosTable : List Nat :=
  let one := 2 ^ 600
  let root (x : Nat) : Nat := isqrt 602 (x * one)
  let two := 2 * one
  let a := root two
  let b := root (two + a)
  let c := root (two - a)
  [one, root (two + b) / 2, b / 2, root (two + c) / 2, a / 2, root (two - c) / 2, c / 2, root (two - b) / 2]

/-- The nearest integer to c / den, ties to even, clamped to 0..255. The sum is irrational unless only k = 0 occurs, and then no tie
or integer is nearer than 2^-300, far above the error of the table. -/
def Cosine.sample (c : Cosine) (den : Nat) : Nat :=
  let whole := c.getD 0 0
  let r : Int :=
    if (c.drop 1).all (· == 0) then
      let q := whole / (den : Int)
      let m := 2 * (whole % (den : Int))
      if m < den || (m == den && q % 2 == 0) then q else q + 1
    else
      let s := (c.zip cosTable).foldl (fun s (a, t) => s + a * (t : Int)) 0
      (2 * s + (den : Int) * 2 ^ 600) / (2 * (den : Int) * 2 ^ 600)
  (max 0 (min 255 r)).toNat

/-- Eight times the inverse DCT of a block at (y, x), R163: C(u) C(v) and the two cosines multiplied out. -/
def idctAt (coef : Array Int) (y x : Nat) : Cosine :=
  (List.range 64).foldl (fun acc i =>
    let s := coef.getD i 0
    if s == 0 then acc
    else
      let v := i / 8
      let u := i % 8
      let a : Int := if u == 0 then 4 else ((2 * x + 1) * u : Nat)
      let b : Int := if v == 0 then 4 else ((2 * y + 1) * v : Nat)
      (acc.addTerm s (a + b)).addTerm s (a - b)) (List.replicate 8 0)

/-- The zigzag order: the place of coefficient `k`. -/
def zigzag : List Nat :=
  [0, 1, 8, 16, 9, 2, 3, 10, 17, 24, 32, 25, 18, 11, 4, 5, 12, 19, 26, 33, 40, 48, 41, 34, 27, 20, 13, 6, 7, 14, 21, 28] ++
  [35, 42, 49, 56, 57, 50, 43, 36, 29, 22, 15, 23, 30, 37, 44, 51, 58, 59, 52, 45, 38, 31, 39, 46, 53, 60, 61, 54, 47, 55, 62, 63]

/-- A component of the frame: id, sampling factors, quantisation table. -/
structure JComp where
  id : Nat
  h : Nat
  v : Nat
  tq : Nat

/-- What the markers have set so far. -/
structure Jpeg where
  quant : List (Nat × Array Nat)
  huff : List (Nat × Prefix)
  comps : List JComp
  w : Nat
  h : Nat
  restart : Nat
  /-- Dequantised blocks: component, block row, block column. -/
  blocks : List ((Nat × Nat) × List (Nat × Array Int))
  done : List Nat

/-- The value of `s` extra bits. -/
def jpegExtend (v s : Nat) : Int := if s == 0 then 0 else if v < 2 ^ (s - 1) then (v : Int) - 2 ^ s + 1 else v

/-- The AC coefficients of a block from place `k`, in zigzag order. -/
def jpegAc (ac : Prefix) (q : Array Nat) : Nat → Nat → Bits → Array Int → Option (Array Int × Bits)
  | 0, _, r, b => some (b, r)
  | fuel + 1, k, r, b =>
    if 64 ≤ k then (if k == 64 then some (b, r) else none)
    else match ac.read Bits.msb r with
      | none => none
      | some (rs, r) =>
        let run := rs / 16
        let sz := rs % 16
        if sz == 0 then
          if run == 15 then (if 64 ≤ k + 16 then none else jpegAc ac q fuel (k + 16) r b)
          else if run == 0 then some (b, r) else none
        else if 10 < sz || 64 ≤ k + run then none
        else match r.takeMsb sz with
          | none => none
          | some (v, r) =>
            let k := k + run
            jpegAc ac q fuel (k + 1) r (b.setIfInBounds (zigzag.getD k 0) (jpegExtend v sz * (q.getD k 0 : Nat)))

/-- One block: the difference of DC, then AC. -/
def jpegBlock (dc ac : Prefix) (q : Array Nat) (pred : Int) (r : Bits) : Option (Array Int × Int × Bits) := do
  let (s, r) ← dc.read Bits.msb r
  if 11 < s then none
  else
    let (v, r) ← r.takeMsb s
    let p := pred + jpegExtend v s
    let (b, r) ← jpegAc ac q 64 1 r ((Array.replicate 64 (0 : Int)).setIfInBounds 0 (p * (q.getD 0 0 : Nat)))
    return (b, p, r)

/-- The entropy-coded data up to the next marker that is no restart, cut at its restart markers and unstuffed, and what follows. -/
def jpegSegments : Nat → List Nat → List Nat → List (List Nat × Nat) → Option (List (List Nat × Nat) × List Nat)
  | 0, _, _, _ => none
  | fuel + 1, d, cur, segs =>
    match d with
    | 0xFF :: 0 :: r => jpegSegments fuel r (0xFF :: cur) segs
    | 0xFF :: 0xFF :: r => jpegSegments fuel (0xFF :: r) cur segs
    | 0xFF :: m :: r =>
      if 0xD0 ≤ m && m ≤ 0xD7 then jpegSegments fuel r [] (segs ++ [(cur.reverse, m - 0xD0)])
      else some (segs ++ [(cur.reverse, 8)], 0xFF :: m :: r)
    | b :: r => jpegSegments fuel r (b :: cur) segs
    | [] => none

/-- One unit of a scan: the component's place in the scan, its number, and its blocks in the unit. -/
abbrev JUnit := List (Nat × JComp × Prefix × Prefix × Array Nat)

/-- Decodes the blocks of MCU `n` of a scan; `preds` holds the DC predictions. -/
def jpegMcu (cs : JUnit) (inter : Bool) (perRow n : Nat) (preds : List Int) (r : Bits) :
    Option (List ((Nat × Nat) × (Nat × Array Int)) × List Int × Bits) :=
  let todo := (List.range cs.length).flatMap fun j =>
    match cs[j]? with
    | none => []
    | some (ci, c, dc, ac, q) =>
      let hh := if inter then c.h else 1
      let vv := if inter then c.v else 1
      (List.range (hh * vv)).map fun i => (j, ci, dc, ac, q, n / perRow * vv + i / hh, n % perRow * hh + i % hh)
  todo.foldlM (fun (out, preds, r) (j, ci, dc, ac, q, by_, bx) =>
    (jpegBlock dc ac q (preds.getD j 0) r).map fun (b, p, r) => (((ci, by_), (bx, b)) :: out, preds.set j p, r)) ([], preds, r)

/-- The MCUs of one restart interval. -/
def jpegMcus (cs : JUnit) (inter : Bool) (perRow : Nat) : Nat → Nat → List Int → Bits → List ((Nat × Nat) × (Nat × Array Int)) →
    Option (List ((Nat × Nat) × (Nat × Array Int)))
  | 0, _, _, _, out => some out
  | k + 1, n, preds, r, out =>
    match jpegMcu cs inter perRow n preds r with
    | none => none
    | some (bs, preds, r) => jpegMcus cs inter perRow k (n + 1) preds r (bs ++ out)

/-- What follows the data of a frame's first scan: a DNL segment there gives the number of lines, anew or for the first time (T.81, B.2.5). -/
def jpegLines (j : Jpeg) (rest : List Nat) : Jpeg × List Nat :=
  match j.done, rest with
  | [], 0xFF :: 0xDC :: 0 :: 4 :: a :: b :: r => ({ j with h := 256 * a + b }, r)
  | _, _ => (j, rest)

/-- A scan: its header and data. Its components are components of the frame, each once and in the frame's order (T.81, B.2.3). -/
def jpegScan (j : Jpeg) (hd : List Nat) (d : List Nat) : Option (Jpeg × List Nat) := do
  let n := hd.getD 0 0
  let (segs, rest) ← jpegSegments (d.length + 1) d [] []
  let (j, rest) := jpegLines j rest
  if j.h == 0 || maxDim < j.h || n == 0 || 4 < n || hd.length != 4 + 2 * n || j.comps.isEmpty || hd.getD (1 + 2 * n) 0 != 0 || hd.getD (2 + 2 * n) 0 != 63 || hd.getD (3 + 2 * n) 0 != 0 then none
  else
    let cs ← (List.range n).mapM fun i => do
      let id := hd.getD (1 + 2 * i) 0
      let t := hd.getD (2 + 2 * i) 0
      let ci ← j.comps.findIdx? (·.id == id)
      let c ← j.comps[ci]?
      let (_, dc) ← j.huff.find? (·.1 == t / 16)
      let (_, ac) ← j.huff.find? (·.1 == 16 + t % 16)
      let (_, q) ← j.quant.find? (·.1 == c.tq)
      if j.done.contains ci then none else return (ci, c, dc, ac, q)
    if !(cs.zip (cs.drop 1)).all (fun x => x.1.1 < x.2.1) then none else pure ()
    let inter := 1 < n
    let hm := j.comps.foldl (fun a c => max a c.h) 1
    let vm := j.comps.foldl (fun a c => max a c.v) 1
    let (perRow, rows) ← if inter then some (cdiv j.w (8 * hm), cdiv j.h (8 * vm)) else (cs.head?).map fun (_, c, _) =>
      (cdiv (cdiv (j.w * c.h) hm) 8, cdiv (cdiv (j.h * c.v) vm) 8)
    let total := perRow * rows
    let step := if j.restart == 0 then total else j.restart
    if segs.length != cdiv total step || (List.range segs.length).any (fun i => (segs[i]?).any fun s => i + 1 < segs.length && s.2 != i % 8) then none
    else
      let blocks ← (List.range segs.length).foldlM (fun out i => do
        let (bs, _) ← segs[i]?
        jpegMcus cs inter perRow (min step (total - i * step)) (i * step) (List.replicate n 0) ⟨bs, 0⟩ out) []
      -- blocks by component and block row
      let rowsOf := ((blocks.map (·.1)).eraseDups).map fun k => (k, (blocks.filter (·.1 == k)).map (·.2))
      return ({ j with blocks := rowsOf ++ j.blocks, done := cs.map (·.1) ++ j.done }, rest)

/-- The quantisation tables of a DQT segment. -/
def jpegDqt : Nat → List Nat → List (Nat × Array Nat) → Option (List (Nat × Array Nat))
  | 0, _, _ => none
  | fuel + 1, d, q =>
    match d with
    | [] => some q
    | t :: r =>
      if 3 < t || r.length < 64 || (r.take 64).any (· == 0) then none
      else jpegDqt fuel (r.drop 64) ((t, (r.take 64).toArray) :: q.filter (·.1 != t))

/-- The prefix codes of a DHT segment: key 0, 1 for DC and 16, 17 for AC. No code consists of ones alone (T.81, Annex C). -/
def jpegDht : Nat → List Nat → List (Nat × Prefix) → Option (List (Nat × Prefix))
  | 0, _, _ => none
  | fuel + 1, d, hs =>
    match d with
    | [] => some hs
    | t :: r =>
      let counts := r.take 16
      let n := counts.foldl (· + ·) 0
      let left := counts.foldl (fun (l : Int) (c : Nat) => 2 * l - c) 1
      if (t != 0 && t != 1 && t != 16 && t != 17) || r.length < 16 + n || left ≤ 0 || 256 < n then none
      else jpegDht fuel (r.drop (16 + n)) ((t, ⟨counts, ((r.drop 16).take n).toArray⟩) :: hs.filter (·.1 != t))

/-- The frame header of a baseline frame; a number of lines of 0 waits for a DNL segment. -/
def jpegSof (j : Jpeg) (d : List Nat) : Option Jpeg :=
  let h := beNat ((d.drop 1).take 2)
  let w := beNat ((d.drop 3).take 2)
  let n := d.getD 5 0
  let cs := (List.range n).map fun i => (⟨d.getD (6 + 3 * i) 0, d.getD (7 + 3 * i) 0 / 16, d.getD (7 + 3 * i) 0 % 16, d.getD (8 + 3 * i) 0⟩ : JComp)
  let small (c : JComp) : Bool := c.h == 1 && c.v == 1
  let fits := match cs with
    | [c] => 1 ≤ c.h && c.h ≤ 4 && 1 ≤ c.v && c.v ≤ 4
    | [y, b, r] => small b && small r && ((y.h == 1 && y.v == 1) || (y.h == 2 && y.v == 1) || (y.h == 2 && y.v == 2))
        && y.id != b.id && y.id != r.id && b.id != r.id
    | _ => false
  if d.length != 6 + 3 * n || d.getD 0 0 != 8 || w == 0 || maxDim < w || maxDim < h || !fits || !j.comps.isEmpty then none
  else some { j with comps := cs, w := w, h := h }

/-- The marker segments up to EOI. -/
def jpegMarkers : Nat → List Nat → Jpeg → Option Jpeg
  | 0, _, _ => none
  | fuel + 1, d, j =>
    match d with
    | 0xFF :: 0xFF :: r => jpegMarkers fuel (0xFF :: r) j
    | 0xFF :: m :: r =>
      if m == 0xD9 then some j
      else
        let n := beNat (r.take 2)
        let body := (r.drop 2).take (n - 2)
        let rest := r.drop n
        if n < 2 || r.length < n then none
        else if m == 0xDB then (jpegDqt (body.length + 1) body j.quant).bind fun q => jpegMarkers fuel rest { j with quant := q }
        else if m == 0xC4 then (jpegDht (body.length + 1) body j.huff).bind fun h => jpegMarkers fuel rest { j with huff := h }
        else if m == 0xC0 then (jpegSof j body).bind fun j => jpegMarkers fuel rest j
        else if m == 0xDD then (if n != 4 then none else jpegMarkers fuel rest { j with restart := beNat body })
        else if m == 0xDA then (jpegScan j body rest).bind fun (j, rest) => jpegMarkers fuel rest j
        else if (0xE0 ≤ m && m ≤ 0xEF) || m == 0xFE then jpegMarkers fuel rest j
        else none
    | _ => none

/-- Eight times a component's sample at image coordinates, chroma replicated. -/
def jpegSample (j : Jpeg) (ci : Nat) (c : JComp) (hm vm y x : Nat) : Cosine :=
  let y := y * c.v / vm
  let x := x * c.h / hm
  match j.blocks.find? (·.1 == (ci, y / 8)) with
  | none => List.replicate 8 0
  | some (_, row) =>
    match row.find? (·.1 == x / 8) with
    | none => List.replicate 8 0
    | some (_, b) => idctAt b (y % 8) (x % 8)

/-- A sum of cosines with integer weights. -/
def cosineSum (l : List (Int × Cosine)) : Cosine :=
  (List.range 8).map fun k => l.foldl (fun a (w, c) => a + w * c.getD k 0) 0

/-- A baseline JPEG: samples are the inverse DCT plus 128, three components through the JFIF equations, computed exactly (R163). -/
def decodeJpeg (d : List Nat) : Option Picture := do
  let j ← jpegMarkers (d.length + 1) (d.drop 2) ⟨[], [], [], 0, 0, 0, [], []⟩
  if j.comps.isEmpty || j.done.length != j.comps.length then none
  else
    let hm := j.comps.foldl (fun a c => max a c.h) 1
    let vm := j.comps.foldl (fun a c => max a c.v) 1
    let shift : Cosine := [1, 0, 0, 0, 0, 0, 0, 0]
    let px := (List.range j.h).flatMap fun y => (List.range j.w).flatMap fun x =>
      let at_ (i : Nat) : Cosine := (j.comps[i]?).elim (List.replicate 8 0) fun c => jpegSample j i c hm vm y x
      if j.comps.length == 1 then [(cosineSum [(1, at_ 0), (1024, shift)]).sample 8]
      else
        let den := 800000
        let off : Int × Cosine := (1024 * 100000, shift)
        let yy := at_ 0
        let cb := at_ 1
        let cr := at_ 2
        [(cosineSum [(100000, yy), (140200, cr), off]).sample den,
         (cosineSum [(100000, yy), (-34414, cb), (-71414, cr), off]).sample den,
         (cosineSum [(100000, yy), (177200, cb), off]).sample den]
    return ⟨j.w, j.h, j.comps.length, px.toArray⟩

/-! ### The page and the patch list (R165, R166) -/

/-- An image by its first bytes, R177; none is a DECODE_ERROR. -/
def decodePicture (d : List Nat) : Option Picture :=
  if d.take 8 == [0x89, 0x50, 0x4E, 0x47, 0x0D, 0x0A, 0x1A, 0x0A] then decodePng d
  else if d.take 2 == [0xFF, 0xD8] then decodeJpeg d
  else if d.take 4 == [0x49, 0x49, 0x2A, 0x00] || d.take 4 == [0x4D, 0x4D, 0x00, 0x2A] then decodeTiff d
  else none

/-- The divisor of R165. -/
def pageDivisor (w h p : Nat) : Nat := ([1, 2, 3, 4, 6, 8].find? fun d => cdiv w (16 * d) * cdiv h (16 * d) ≤ p).getD 8

/-- What the unit writes: patch list or page, row, column, value (R165, R166). -/
def pageOutput (p : Picture) (budget : Nat) : List (Bool × Nat × Nat × Nat) :=
  let d := pageDivisor p.w p.h budget
  let w' := cdiv p.w d
  let h' := cdiv p.h d
  let w2 := 16 * cdiv w' 16
  let h2 := 16 * cdiv h' 16
  let pix (y x k : Nat) : Nat := if y < p.h && x < p.w then p.px.getD ((y * p.w + x) * p.ch + k) 0 else 255
  let page := (List.range h2).flatMap fun y => (List.range (w2 * p.ch)).map fun i =>
    let x := i / p.ch
    let k := i % p.ch
    let v := if y < h' && x < w' then
        ((List.range (d * d)).foldl (fun a j => a + pix (y * d + j / d) (x * d + j % d) k) 0 + d * d / 2) / (d * d)
      else 255
    (false, y, i, v)
  let n := min (h2 / 16 * (w2 / 16)) budget
  let list := (List.range n).map fun i => (true, 0, i + 1, i / (w2 / 16) * 65536 + i % (w2 / 16))
  page ++ (true, 0, 0, n) :: list

end Sys2Proof.Machine
end

