-- ==== Sys2Proof/Machine/StreamMem.lean ====
section
/-! DEFINITION. What a running stream's accesses do: bank grants (R64), scratchpad, Canopy out ports and index values (R154, R210), tensors
through the Roots with decay, expand and merges (R156, R157, R255, R368), overlap order (R161), and the links (R381 to R388). -/
namespace Sys2Proof.Machine

/-- What a stream's access comes to. -/
inductive Acc (α : Type) where
  | ok (a : α) (s : State)
  /-- It waits; the state may hold what it waits for. -/
  | wait (s : State)
  | fault (c : Cause) (s : State)

/-- Continues an access. -/
def Acc.bind {α β : Type} (x : Acc α) (f : α → State → Acc β) : Acc β :=
  match x with
  | .ok a s => f a s
  | .wait s => .wait s
  | .fault c s => .fault c s

/-! ### The stream as data -/

/-- The element width of a stream; eight bits into a decoder. -/
def Stream.width (x : Stream) : Nat := ((wWidth x.src x.srcT).orElse fun _ => wWidth x.dst x.dstT).getD 8

/-- Bytes an element takes. -/
def elemBytes (w : Nat) : Nat := max 1 (w / 8)

/-- A stamped write (R257) or restamp (R156): whole ring groups at a time (R258). -/
def Stream.grouped (x : Stream) : Bool := wRestamp x.dst || wMerge x.dst == 4

/-- The check attribute of either side, R156. -/
def Stream.checks (x : Stream) : Bool := fieldOf x.src 55 55 == 1 || fieldOf x.dst 55 55 == 1

/-- Elements may be moved in any order (R153): two affine sides in memory, no merge, nothing for the host or another rank. -/
def Stream.loose (x : Stream) : Bool :=
  wPattern x.src == 0 && wEnd x.src ≤ 2 && wPattern x.dst == 0 && wEnd x.dst ≤ 1 && wMerge x.dst == 0 && !wRestamp x.dst && !x.away

/-- The elements that an affine side lays one behind the other, R160: levels join as long as each goes on where the one below ends. -/
def wDense (w : Wide) : Nat :=
  ((List.range 4).foldl (fun (a : Nat × Bool) j =>
    if wCount w j == 1 then a else if a.2 && wStride w j == (a.1 : Nat) then (a.1 * wCount w j, true) else (a.1, false)) (1, true)).1

/-- Where destination element `e` stands among elements that the stream lays one behind the other: how many come before it, and how many there are. -/
def Stream.inRow (x : Stream) (e : Nat) : Nat × Nat :=
  let w := x.dst
  if wPattern w == 0 then (e % max 1 (wDense w), wDense w)
  else if wStride w 0 == 1 then (x.dstCur.i0, x.dstCur.rowLen w)
  else (0, 1)

/-- Whether the stream writes the whole 64-byte word that destination element `e` falls into, at byte `off` of scratchpad: only then does its check value
travel with the data; a word written with byte masks gets one of its own (R160, R399). -/
def Stream.fillsWord (x : Stream) (e : Nat) (off : Int) (high : Bool) : Bool :=
  let (n, len) := x.inRow e
  let b : Int := (x.width : Nat)
  let lo := off * 8 + (if high then 4 else 0) - n * b
  lo ≤ off / 64 * 512 && off / 64 * 512 + 512 ≤ lo + len * b

/-- The same for element `e` of a tensor, at coordinates `c`: the elements that its word holds (R148) are written one behind the other. In a data-dependent walk
they stand in one row; a word of 4-bit elements that takes two rows of a panel counts there as written with byte masks (DESIGN CHOICE, log 95). -/
def Stream.fillsLine (x : Stream) (e : Nat) (t : TensorV) (c : List Nat) : Bool :=
  let w := x.dst
  let per := 512 / x.width
  let (p, i) := layoutOf t.desc c
  let k := i % per
  (List.range per).all fun j =>
    if wPattern w == 0 then
      k ≤ e + j && e + j - k < wProduct w 0 4 && layoutOf t.desc ((wCoords w (wAffine w (e + j - k))).map Int.toNat) == (p, i + j - k)
    else
      k ≤ x.dstCur.i0 + j && x.dstCur.i0 + j - k < x.dstCur.rowLen w
        && layoutOf t.desc (c.set 0 ((c.getD 0 0 : Nat) + ((j : Int) - k) * wStride w 0).toNat) == (p, i + j - k)

/-- A stream that a full switch may suspend, R337: into a ring, or bound to a Canopy port as its source, its destination or its index source. -/
def Stream.suspends (x : Stream) : Bool :=
  x.op == StreamOp.sring || wEnd x.src == 3 || wEnd x.dst == 3 || (wIndexPort x.src).isSome || (wIndexPort x.dst).isSome

/-- The source's walk stands at the boundary of a segment (R159). What a port brings tells no segment to the engine: such a source stands at one between any two
elements (DESIGN CHOICE, log 67). -/
def Stream.atBoundary (x : Stream) : Bool := wEnd x.src == 3 || x.srcCur.count == 0 || !x.srcCur.opened || x.srcCur.fin

/-- The tiles an element goes to: those of the rectangle of a multicast, and otherwise one place. -/
def Stream.places (x : Stream) : List Nat := if wMulticast x.dst then rectTiles x.tile x.dst else [0]

/-- Whether element `e` has been read. -/
def Stream.hasRead (x : Stream) (e : Nat) : Bool := e < x.readTo || x.readMore.contains e

/-- Whether element `e` has been written. -/
def Stream.hasWritten (x : Stream) (e : Nat) : Bool := e < x.wroteTo || x.wroteMore.contains e

/-- Adds a number to a set kept as a bound and the numbers beyond it. -/
def noteDone (upto : Nat) (more : List Nat) (e : Nat) : Nat × List Nat :=
  let more := if more.contains e || e < upto then more else more ++ [e]
  let bound := (List.range (more.length + 1)).foldl (fun t _ => if more.contains t then t + 1 else t) upto
  (bound, more.filter fun i => bound ≤ i)

/-- The context of a stream's group. -/
def State.streamCtx (s : State) (x : Stream) : Nat := (s.group x.group).elim 0 (·.ctx)

/-- The kernel a stream belongs to; a bring-up group has none and works as a DIRECT kernel (R397). -/
def State.streamKernel (s : State) (x : Stream) : Option Kernel := s.kernel x.group

/-- The key of a stream's own versions. -/
def State.streamKey (s : State) (x : Stream) : Option (Nat × Nat) := (s.streamKernel x).bind Kernel.key

/-- The ticket a record about a stream names. -/
def State.streamTicket (s : State) (x : Stream) : Nat := ((s.streamKernel x).bind (·.ticket)).getD 0xFFFF

/-- The step view a stream's kernel has, modulo 2^16 (R249). -/
def State.streamStep (s : State) (x : Stream) : Nat := ((s.streamKernel x).elim 0 (·.stepView)) % 2 ^ 16

/-! ### Ending a stream -/

/-- A stream leaves its engine, its decoder unit and its holds (R169, R177, R178). -/
def State.endStream (s : State) (x : Stream) : State :=
  let now := s.gcyc.toNat
  let s := { s with traffic.streams := s.traffic.streams.filter (·.id != x.id) }
  let s := match x.engine with
    | some e => s.onTile x.tile fun t => { t with engFree := vset t.engFree e now }
    | none => s
  let s := match x.unit with
    | some n => { s with traffic.units := vset s.traffic.units n (none, now) }
    | none => s
  let mine (h : Hold) : Bool := match h.what with
    | .elem n _ _ => n == x.id
    | _ => false
  { s with roots.holds := s.roots.holds.filter (!mine ·), links.reqs := s.links.reqs.filter (·.stream != some x.id) }

/-- A fault that arises while a stream runs, R178 and R328: it stops, and its report travels to the issuing tile. -/
def State.streamTrap (s : State) (x : Stream) (e : Nat) (c : Cause) : State :=
  let s := s.endStream x
  let (id, s) := s.fresh
  let info := BitVec.ofNat 64 (x.engine.getD 0 * 2 ^ 60 + e % 2 ^ 60)
  { s with traffic.faults := s.traffic.faults ++ [⟨id, x.group, x.tile, c, info⟩] }

/-- The outcome of a stream's access as a state. -/
def Acc.finish {α : Type} (r : Acc α) (x : Stream) (e : Nat) (f : α → State → State) : State :=
  match r with
  | .ok a s => f a s
  | .wait s => s
  | .fault c s => s.streamTrap x e c

/-- Something that uses a word whose check value does not fit it is met: with check the stream traps (R156, R158), and otherwise the kernel aborts with
INTEGRITY (R400); without a kernel the stream traps as well (log 73). -/
def State.spoilStream {α : Type} (s : State) (x : Stream) : Acc α :=
  if x.checks || (s.streamKernel x).isNone then .fault .integrity s else .wait (s.abort x.group .integrity)

/-- Uses a value if the word it comes from is sound. -/
def State.sound {α : Type} (s : State) (x : Stream) (bad : Bool) (r : State → Acc α) : Acc α := if bad then s.spoilStream x else r s

/-- With check, a word that does not fit its check value is not written where a stream puts it (R156). -/
def State.checked {α : Type} (s : State) (x : Stream) (bad : Bool) (r : State → Acc α) : Acc α :=
  if bad && x.checks then .fault .integrity s else r s

/-! ### Banks and scratchpad -/

/-- The banks of `n` bytes at a location. -/
def Loc.banks (l : Loc) (n : Nat) : List Nat :=
  match l with
  | .spad t o => [spadBank t o, spadBank t (o + n - 1)].eraseDups
  | .shared d o => [sharedBank d o, sharedBank d (o + n - 1)].eraseDups
  | _ => []

/-- Banks are taken for the rest of the cycle, or the request is turned away and waits for its turn (R64). -/
def State.takeBanks (s : State) (bs : List Nat) : Option State :=
  if bs.any s.busy.contains then none else some { s with busy := bs ++ s.busy }

/-- A stream's access takes its bank's free cycle, R64; it waits while another access has it. -/
def State.grant (s : State) (l : Loc) (n : Nat) : Acc Unit :=
  match s.takeBanks (l.banks n) with
  | none => .wait { s with refused := true }
  | some s => .ok () s

/-- A step whose request was turned away joins the line of waiting requests behind the older ones (R64). -/
def State.inLine (s : State) (i : Instr) : State := if s.refused then { s with refused := false, asks := s.asks ++ [i] } else s

/-- Where a scratchpad element lies: PERMISSION outside the context's part or the group (R152, R158); in shared scratchpad within the context's
regions (R276, R278). -/
def State.place (s : State) (x : Stream) (w : Wide) (tile : Nat) (off : Int) (n : Nat) : Except Cause Loc :=
  let g := s.group x.group
  if ptrSpace (wBase w) == 3 then
    let o := off.toNat
    if off < 0 || 2 ^ 28 < o + n then .error .permission
    else match (s.regionFault (s.streamCtx x) o).orElse fun _ => s.regionFault (s.streamCtx x) (o + n - 1) with
      | some c => .error c
      | none => .ok (.shared (o / 2 ^ 26) (o % 2 ^ 26))
  else if off < partLo x.urgent || (partHi x.urgent : Int) < off + n || !(tile == x.tile || g.any (·.has tile)) then .error .permission
  else .ok (.spad tile off.toNat)

/-- The tile a scratchpad endpoint names. Shared scratchpad lies on no tile; where notify asks for one, the model takes the issuing tile (DESIGN
CHOICE, log 36). -/
def Stream.homeOf (x : Stream) (w : Wide) : Nat := if ptrSpace (wBase w) == 2 && !wMulticast w then ptrTile (wBase w) else x.tile

/-- One nibble of a byte, or the whole value. -/
def pickNibble (width : Nat) (high : Bool) (v : Nat) : Nat := if width == 4 then (if high then v / 16 else v % 16) else v

/-- Reads an element of scratchpad. -/
def State.readSpad (s : State) (x : Stream) (w : Wide) (off : Int) (high : Bool) (width : Nat) : Acc Nat :=
  let n := elemBytes width
  match s.place x w (x.homeOf w) off n with
  | .error c => .fault c s
  | .ok l => (s.grant l n).bind fun _ s => .ok (pickNibble width high (leNat (s.readLoc l n))) s

/-- Bytes of a byte or a nibble put into the old byte. -/
def elemData (width v : Nat) (high : Bool) (old : Nat) : List Byte :=
  if width == 4 then leBytes 1 (if high then old % 16 + v % 16 * 16 else old / 16 * 16 + v % 16) else leBytes (elemBytes width) v

/-- Writes an element of scratchpad on a tile; with `bad`, into a word that is written whole, the word gets a check value that does not fit (R399). -/
def State.writeSpad (s : State) (x : Stream) (w : Wide) (tile : Nat) (off : Int) (high : Bool) (width v : Nat) (bad : Bool) : Acc Unit :=
  let n := elemBytes width
  match s.place x w tile off n with
  | .error c => .fault c s
  | .ok l => (s.grant l n).bind fun _ s =>
      let s := s.writeLoc l (elemData width v high (leNat (s.readLoc l 1)))
      .ok () (if bad then (l.words n).foldl State.markBad s else s)

/-! ### Canopy ports -/

/-- Whether an armed whorl of a tile drives an out port. -/
def Tile.drives (x : Tile) (port : Nat) : Bool :=
  x.cn.whorls.any fun w => (List.range 32).any fun u =>
    let r := vget (vget x.cn.recs u (Vector.replicate 12 0#512)) w.ctx.val 0#512
    w.rows.getLsbD (u / 8) && fieldOf r 31 31 == 1 && bits (fieldOf r 7 0) port port == 1

/-- An out port can deliver nothing more to a stream, R154: it is empty, and a whorl that drove it after the stream's issue has disarmed. -/
def State.portOver (s : State) (x : Stream) (port : Nat) : Bool :=
  let c := (s.tile x.tile).cn
  (vget c.outp port []).all (·.lanes.act == 0#16) && x.marks.getD port 0 < vget c.closed port 0

/-- Words without an active lane at the head of an out port are passed. -/
def State.passEmpty (s : State) (tile port : Nat) : State :=
  s.onTile tile fun t => { t with cn := { t.cn with outp := vset t.cn.outp port ((vget t.cn.outp port []).dropWhile (·.lanes.act == 0#16)) } }

/-- Takes the next active lane of an out port, R210: its low bits and the rows of the whorl that emitted it. -/
def State.takeLane (s : State) (tile port width : Nat) : Option (Nat × BitVec 8) × State :=
  let s := s.passEmpty tile port
  match vget (s.tile tile).cn.outp port [] with
  | [] => (none, s)
  | c :: r =>
    let i := ((List.range 16).find? c.lanes.act.getLsbD).getD 0
    let act := c.lanes.act &&& ~~~(BitVec.ofNat 16 (2 ^ i))
    let left := if act == 0#16 then r else { c with lanes := { c.lanes with act := act } } :: r
    let s := s.onTile tile fun t => { t with cn := { t.cn with outp := vset t.cn.outp port left } }
    if 32 < width then
      let (v, s) := s.freeNat
      (some (v % 2 ^ width, c.rows), s)
    else (some (lane c.lanes.val i % 2 ^ width, c.rows), s)

/-- An index value, R154, or SEGMENT_MISMATCH when its source can deliver no more. -/
def State.indexValue (s : State) (x : Stream) (w : Wide) (idx : Option Wide) (taken : Nat) : Acc Nat :=
  match wIndexPort w, idx with
  | some p, _ =>
    if s.portOver x p then .fault .segmentMismatch s
    else match s.takeLane x.tile p 32 with
      | (some (v, _), s) => .ok v s
      | (none, s) => .wait s
  | none, some i =>
    if wTotal i == some taken || (wTotal i).any (· < taken) then .fault .segmentMismatch s
    else
      let (off, _) := wOffset i 32 (wAffine i taken)
      s.readSpad x i off false 32
  | none, none => .fault .segmentMismatch s

/-! ### Tensors -/

/-- The id of the ring array a descriptor names (R150). -/
def ringTid (d : Wide) : Nat := fieldOf d 463 448

/-- The id of its auxiliary array. -/
def auxTid (d : Wide) : Nat := fieldOf d 447 432

/-- The ring array of a tensor as a tensor of its own. -/
def TensorV.rings (t : TensorV) : TensorV := companionView t.ring (ringTid t.desc)

/-- The place of an element's stamp in the ring array, R26. -/
def TensorV.stampAt (t : TensorV) (c : List Nat) : List Nat := [ringGroupOf t.desc c, 0, 0, 0]

/-- The coordinates of the first element of an element's ring group, R26. -/
def groupFirst (c : List Nat) : List Nat := c.set 0 (c.getD 0 0 / 32 * 32)

/-- The elements of the ring group whose first element is given. -/
def groupElems (d : Wide) (c : List Nat) : List (List Nat) :=
  let g0 := c.getD 0 0
  (List.range (min 32 (descExt d 0 - g0))).map fun i => c.set 0 (g0 + i)

/-- The width of a tensor's elements. -/
def TensorV.width (t : TensorV) : Nat := (fmtBits (descFmt t.desc)).getD 8

/-- Whether a stream's writes settle what stands above their lines first: a writer without versions of its own, R295. -/
def State.settled (s : State) (key : Option (Nat × Nat)) (lines : List Nat) : Settled × State :=
  if key.isNone then s.settleCopies lines else (.done, s)

/-- Writes of element `e` of a kernel's stream, or of a bring-up group's, that take place together, all or none (R293, R303): into heartwood, or into versions,
where every write walks the pool's leaf, and one that begins a version that of the version it begins from (R293, R368). Without a free pool line the kernel aborts, or the write holds until the kernel writes in place (R303). -/
def State.streamWrites (s : State) (x : Stream) (e : Nat) (ws : List (Spot × List Byte × Bool)) : Acc Unit :=
  let lines := (ws.map fun (p, _, _) => lineOfAddr p.phys).eraseDups
  let what := Held.elem x.id e true
  match s.settled (s.streamKey x) lines with
  | (.done, s) =>
    match s.streamKernel x, s.streamKey x with
    | some k, some (c, t) =>
      let need := lines.filter fun l => (s.ownVersion c t l).isNone
      let new := s.freeLines c need.length
      if new.length < need.length then
        if k.waitsForPlace then .wait ((s.onKernel k.id fun n => { n with wantsPlace := true }).holdForPlace c what)
        else .wait (s.abort k.id .sapFull)
      else
        let slot (l : Nat) : Nat := ((s.ownVersion c t l).map (·.slot)).getD (((need.zip new).find? (·.1 == l)).elim 0 (·.2))
        let s := need.foldl (fun s l => s.seeVersion none (256 * l) (s.streamTicket x) x.tile) s
        (match State.walkPool c (lines.map slot) s with
        | (.ok _ _, s) => .ok () (ws.foldl (fun s (p, bs, bad) => s.versionWrite c t (slot (lineOfAddr p.phys)) p bs bad) s)
        | (.hold n _, s) => .wait (s.openHold c what x.tile t true n false 0 0)
        | (.trap f, s) =>
          let (v, tid) := (ws.head?.map fun w => (w.1.v, w.1.tid)).getD (0, 0)
          .wait (s.poolFault (s.streamCtx x) f v tid (s.streamTicket x) x.tile true))
    | _, _ => .ok () (ws.foldl (fun s (p, bs, bad) => s.heartWrite p bs bad) s)
  | (_, s) => .wait s

/-- Where element `co` of a tensor of context `c` lies: its place, the nibble it takes and its panel (R366, R296). A missing page holds what asks for it
(R370), with the tile and the ticket that its record names. -/
def State.placeFor (s : State) (what : Held) (c tile ticket : Nat) (t : TensorV) (co : List Nat) (write : Bool) : Acc (Spot × Bool × Nat) :=
  let (v, high) := tensorAddr t.desc co
  match s.walk what t.tid (descRoot t.desc) v write (descWorld t.desc) with
  | (.spot p, s) => .ok (p, high, p.phys - v % panelBytes t.width) s
  | (.trap f, s) => .fault f s
  | (.hold n rec, s) => .wait (s.openHold c what tile ticket write n rec v t.tid)

/-- The places of the elements of the ring group that begins at `co`, from the place of its first one: they lie in one panel, and so in one page
(R26, R148, R366). -/
def groupSpots (t : TensorV) (co : List Nat) (p : Spot) : List Spot :=
  (groupElems t.desc co).map fun d => let v := (tensorAddr t.desc d).1; { p with v := v, phys := p.phys + v - p.v }

/-- An element of a tensor, by the tensor's id and the stored coordinates. -/
abbrev ElemAt := Nat × List Nat

/-- What a source element makes a stream read, R157 and R255: stored elements, a metadata byte, a stamp. -/
def readsAt (w : Wide) (t : TensorV) (c : List Nat) : List ElemAt :=
  let g := c.getD 0 0 / 4
  let stored := if wExpand w then [c.set 0 (2 * g), c.set 0 (2 * g + 1)] else [c]
  stored.map (fun c => (t.tid, c))
    ++ (if wExpand w then [(auxTid t.desc, [metaOf t.desc c, 0, 0, 0])] else [])
    ++ (if wDecay w then (stored.map fun c => (ringTid t.desc, t.stampAt c)).eraseDups else [])

/-- What a destination element makes a stream write: itself, or its whole ring group with the stamp (R257, R258). -/
def writesAt (grouped : Bool) (t : TensorV) (c : List Nat) : List ElemAt :=
  if grouped then (ringTid t.desc, t.stampAt c) :: (groupElems t.desc (groupFirst c)).map fun d => (t.tid, d) else [(t.tid, c)]

/-- A tensor or a companion of it by its id. -/
def TensorV.named (t : TensorV) (tid : Nat) : TensorV :=
  if tid == t.tid then t else if descRing t.desc && tid == ringTid t.desc then t.rings else companionView t.aux (auxTid t.desc)

/-- Whether an access's walk from HBM holds, R368. -/
def State.misses (s : State) (t : TensorV) (co : List Nat) (write : Bool) : Bool :=
  let v := (tensorAddr t.desc co).1
  match s.freshWalk (descRoot t.desc) v with
  | .error (.hold _ _) => true
  | .error _ => false
  | .ok c => match c.pass v write (descWorld t.desc) with
    | .hold _ _ => true
    | _ => false

/-- The elements of a stream's side that come before `e` and whose address is still to go through the port, with what each touches: in a loose stream those
not read, or read and not written; in a stamped write those whose group is still to be written. -/
def Stream.toGo (x : Stream) (e : Nat) (side : Bool) : List (Nat × List ElemAt) :=
  let at_ (w : Wide) (i : Nat) : List Nat := (wCoords w (wAffine w i)).map Int.toNat
  match if side then x.dstT else x.srcT with
  | none => []
  | some t =>
    if side && x.grouped then
      x.buf.filterMap fun b => b.coord.bind fun c => if b.n < e then some (b.n, writesAt true t (groupFirst c)) else none
    else if !x.loose then []
    else if side then (List.range e).filterMap fun i => if x.buf.any (·.n == i) then some (i, writesAt false t (at_ x.dst i)) else none
    else (List.range e).filterMap fun i => if x.hasRead i then none else some (i, readsAt x.src t (at_ x.src i))

/-- The first element that comes before `e` on a side and whose walk holds too: the hold stands for it, since addresses go through a port in emission order
(R370, R407). -/
def State.firstMiss (s : State) (x : Stream) (e : Nat) (side write : Bool) : Option (Nat × TensorV × List Nat) :=
  (if side then x.dstT else x.srcT).bind fun t =>
    (x.toGo e side).findSome? fun (i, l) => (l.find? fun c => s.misses (t.named c.1) c.2 write).map fun c => (i, t.named c.1, c.2)

/-- Whether another element of a stream's side is held: a port holds one element at a time (R370). -/
def State.otherHeld (s : State) (x : Stream) (e : Nat) (side : Bool) : Bool := s.roots.holds.any fun h => match h.what with
  | .elem n i w => n == x.id && w == side && i != e
  | _ => false

/-- The place of an element for element `e` of a stream's side. -/
def State.rootPlace (s : State) (x : Stream) (e : Nat) (t : TensorV) (c : List Nat) (side write : Bool) : Acc (Spot × Bool × Nat) :=
  let go (i : Nat) (t : TensorV) (c : List Nat) : Acc (Spot × Bool × Nat) :=
    s.placeFor (.elem x.id i side) (s.streamCtx x) x.tile (s.streamTicket x) t c write
  match go e t c with
  | .wait z =>
    if s.otherHeld x e side then .wait s
    else match s.firstMiss x e side write with
      | some (i, t, c) => go i t c
      | none => .wait z
  | r => r

/-- Bytes at a place as a stream's kernel sees them, and whether their check value does not fit (R294, R400). -/
def State.viewAt (s : State) (x : Stream) (p : Spot) (n : Nat) : Nat × Bool :=
  (leNat (s.viewBytes (s.streamKey x) p.phys n), s.viewBad (s.streamKey x) p.phys n)

/-- A stream's read of a place walks the pool leaf of the version it sees (R368). -/
def State.see (s : State) (x : Stream) (p : Spot) : State := s.seeVersion (s.streamKey x) p.phys (s.streamTicket x) x.tile

/-- Reads an element of a tensor, with its word's soundness; its panel joins the read set (R294, R296). -/
def State.rootRead (s : State) (x : Stream) (e : Nat) (t : TensorV) (c : List Nat) (side : Bool) : Acc (Nat × Bool) :=
  (s.rootPlace x e t c side false).bind fun (p, high, panel) s =>
    let s := s.noteRead x.group panel
    let (v, bad) := s.viewAt x p (elemBytes t.width)
    .ok (pickNibble t.width high v, bad) (s.see x p)

/-- Reads an element that the Root computes on (R400). -/
def State.rootUse (s : State) (x : Stream) (e : Nat) (t : TensorV) (c : List Nat) (side : Bool) : Acc Nat :=
  (s.rootRead x e t c side).bind fun (v, bad) s => s.sound x bad fun s => .ok v s

/-- The places of the elements of a ring group for a stream, and its panel. -/
def State.groupPlaces (s : State) (x : Stream) (e : Nat) (t : TensorV) (c : List Nat) (side write : Bool) : Acc (List Spot × Nat) :=
  (s.rootPlace x e t c side write).bind fun (p, _, panel) s => .ok (groupSpots t c p, panel) s

/-- Reads the elements of a ring group at their places, for a Root that computes on them. -/
def State.groupValues (s : State) (x : Stream) (ps : List Spot) (panel : Nat) : Acc (List Nat) :=
  let s := s.noteRead x.group panel
  let vs := ps.map fun p => s.viewAt x p 4
  (ps.foldl (fun s p => s.see x p) s).sound x (vs.any (·.2)) fun s => .ok (vs.map (·.1)) s

/-- A ring group as a decayed read of the stream sees it: whole, from one version (R255, R258, R364). The first element read of a group fixes it. -/
def State.groupView (s : State) (x : Stream) (e : Nat) (t : TensorV) (c : List Nat) : Acc GroupView :=
  let c0 := groupFirst c
  match x.views.find? (·.first == c0) with
  | some g => .ok g s
  | none =>
    (s.rootUse x e t.rings (t.stampAt c0) false).bind fun stamp s =>
      (s.groupPlaces x e t c0 false false).bind fun (ps, panel) s =>
        (s.groupValues x ps panel).bind fun vs s =>
          let g : GroupView := ⟨c0, stamp, vs⟩
          .ok g (s.onStream x.id fun y => { y with views := y.views ++ [g] })

/-- A stored element of a source: plain, or decayed (R255). -/
def State.storedSource (s : State) (x : Stream) (e : Nat) (t : TensorV) (c : List Nat) : Acc (Nat × Bool) :=
  if wDecay x.src then
    (s.groupView x e t c).bind fun g s =>
      let (y, fl) := decayed (descDecay t.desc).1 (descDecay t.desc).2 (g.vals.getD (c.getD 0 0 % 32) 0) (narrow 16 ((s.streamStep x : Int) - g.stamp))
      .ok (y, false) (s.flagCtx x.tile x.urgent fl)
  else s.rootRead x e t c false

/-- A source element of a tensor: as it is stored, or expanded (R157). -/
def State.tensorSource (s : State) (x : Stream) (e : Nat) (t : TensorV) (c : List Nat) : Acc (Nat × Bool) :=
  let c0 := c.getD 0 0
  if wExpand x.src then
    (s.rootUse x e (companionView t.aux (auxTid t.desc)) [metaOf t.desc c, 0, 0, 0] false).bind fun m s =>
      let p0 := m % 4
      let p1 := m / 4 % 4
      if m / 16 != 0 || p1 ≤ p0 then .fault .expandMeta s
      else if c0 % 4 == p0 then s.storedSource x e t (c.set 0 (2 * (c0 / 4)))
      else if c0 % 4 == p1 then s.storedSource x e t (c.set 0 (2 * (c0 / 4) + 1))
      else .ok (0, false) s
  else s.storedSource x e t c

/-- A floating-point format of a merge. -/
def mergeFmt : Nat → Option FFmt
  | 0 => some fp32
  | 1 => some bf16
  | 2 => some fp16
  | 3 => some e4m3
  | 4 => some e5m2
  | _ => none

/-- merge add, min and max, R156. -/
def mergeValue (fmt mode old new : Nat) : Nat × Flags :=
  let w := (fmtBits fmt).getD 8
  match mergeFmt fmt with
  | some f => if mode == 1 then f.add old new else f.extreme (mode == 2) [old, new]
  | none =>
    let signed := 11 ≤ fmt && fmt ≤ 14
    let val (v : Nat) : Int := if signed then sx w v else v
    if mode == 1 then ((old + new) % 2 ^ w, 0#6)
    else ((if mode == 2 then (if val new < val old then new else old) else (if val old < val new then new else old)), 0#6)

/-- Writes an element of a tensor, plain or merged (R156, R259, R296). A merge uses both words (R400); a plain write with `bad` into a word that is written
`whole` leaves it with a check value that does not fit (R399). -/
def State.rootWrite (s : State) (x : Stream) (e : Nat) (t : TensorV) (c : List Nat) (mode v : Nat) (bad whole : Bool) : Acc Unit :=
  (s.rootPlace x e t c true true).bind fun (p, high, panel) s =>
    let (old, oldBad) := s.viewAt x p (elemBytes t.width)
    let s := if mode == 0 then s else s.see x p
    s.sound x (mode != 0 && (bad || oldBad)) fun s =>
      let (v, fl) := if mode == 0 then (v, 0#6) else mergeValue (descFmt t.desc) mode old v
      (s.streamWrites x e [(p, elemData t.width v high old, bad && whole)]).bind fun _ s =>
        let s := s.noteWrite x.group panel
        let s := if mode == 0 then s else s.noteRead x.group panel
        .ok () (s.flagCtx x.tile x.urgent fl)

/-! ### Overlap order (R161) -/

/-- Whether an affine side has an element still to be moved, by `left`, that touches one of some elements. -/
def pendingAt (w : Wide) (touch : List Nat → List ElemAt) (cs : List ElemAt) (left : Nat → Bool) : Bool :=
  (List.range (wProduct w 0 4)).any fun e => left e && (touch ((wCoords w (wAffine w e)).map Int.toNat)).any cs.contains

/-- Whether a stream may still touch elements of tensors: with `writes` set its writes only. A data-dependent side or a decoder may still touch any
element of its tensors (log 19). -/
def Stream.mayTouch (x : Stream) (cs : List ElemAt) (writes : Bool) : Bool :=
  let among (l : List Nat) : Bool := cs.any fun c => l.contains c.1
  (x.dstT.any fun t =>
      if wPattern x.dst != 0 || wEnd x.dst == 4 then among (t.tid :: if x.grouped then [ringTid t.desc] else [])
      else pendingAt x.dst (writesAt x.grouped t) cs fun e => !x.hasWritten e)
    || (x.patchT.any fun t => among [t.tid])
    || (!writes && x.srcT.any fun t =>
      if wPattern x.src != 0 then
        !x.srcCur.fin && among (t.tid :: (if wDecay x.src then [ringTid t.desc] else []) ++ if wExpand x.src then [auxTid t.desc] else [])
      else pendingAt x.src (readsAt x.src t) cs fun e => !x.hasRead e)

/-- An earlier stream of the tile must touch one of these elements first, R161: of either hardware context, where both name the tensors of one context.
Identifiers grow in issue order. -/
def State.overlapped (s : State) (x : Stream) (cs : List ElemAt) (write : Bool) : Bool :=
  s.traffic.streams.any fun y => y.tile == x.tile && s.streamCtx y == s.streamCtx x && y.id < x.id && y.mayTouch cs (!write)

/-! ### Links -/

/-- Whether a link carries requests, R390. -/
def Port.carries (p : Port) : Bool := p.st == LinkState.up || p.st == LinkState.degraded

/-- The UALink port of a request, R384. -/
def State.linkPort (s : State) (tile : Nat) : Option Nat :=
  let up := (List.range 32).filter fun i => (vget s.links.ports i ⟨.down, 0, 0#3, 0#2⟩).carries
  up[tile % up.length]?

/-- The PCIe link. -/
def State.pcieUp (s : State) : Bool := (vget s.links.ports 32 ⟨.down, 0, 0#3, 0#2⟩).carries

/-- Writes a tile has issued to a rank (R388). -/
def Tile.sentTo (x : Tile) (rank : Nat) : Nat := (x.sent.find? (·.1 == rank)).elim 0 (·.2)

/-- Counts a write to a rank. -/
def Tile.countSent (x : Tile) (rank : Nat) : Tile :=
  { x with sent := (rank, x.sentTo rank + 1) :: x.sent.filter (·.1 != rank) }

/-- Something leaves the package. -/
def State.emit (s : State) (o : Out) : State := { s with links.out := s.links.out ++ [o] }

/-- The UALink address of a scratchpad offset, R386. -/
def linkAddr (tile off : Nat) : Nat := tile * 2 ^ 37 + off

/-- The UALink address of a token counter. -/
def tokenAddr (tile k : Nat) : Nat := 2 ^ 46 + tile * 2 ^ 37 + k * 8

/-- What a request says of its sender, R386: the context, its world, the rank and the tile. -/
def State.sender (s : State) (c tile : Nat) : Sender := ⟨c, (s.ctxt c).secure, s.rank, tile⟩

/-- Bytes from an offset as whole 64-byte words with byte masks, R160 and R385. -/
def maskedWords (off : Nat) (bs : List Piece) : List Piece :=
  let lead := off % 64
  List.replicate lead Piece.none ++ bs ++ List.replicate ((64 - (lead + bs.length) % 64) % 64) Piece.none

/-- Sends a remote write of bytes for a context; none without a port (R384, R385). -/
def State.sendWrite (s : State) (c tile rank dst off : Nat) (bs : List Piece) : Option (Nat × State) :=
  (s.linkPort tile).map fun p =>
    let s := s.onTile tile (·.countSent rank)
    (p, s.emit (.linkWrite rank (linkAddr dst (off / 64 * 64)) (maskedWords off bs) (s.sender c tile) ((s.tile tile).sentTo rank)))

/-- Sends a token to a counter of another rank (R183, R388); none without a port. -/
def State.sendToken (s : State) (c tile rank dst : Nat) (k : Fin 64) (n : Nat) : Option (Nat × State) :=
  (s.linkPort tile).map fun p => (p, s.emit (.linkToken rank (tokenAddr dst k.val) n (s.sender c tile) ((s.tile tile).sentTo rank)))

/-- Opens a request of a stream that waits for a response. -/
def State.openRequest (s : State) (x : Stream) (port : Nat) (e : Nat) (write : Bool) : Nat × State :=
  let (id, s) := s.fresh
  let r : Request := ⟨id, some x.id, none, s.streamCtx x, s.streamTicket x, port, s.gcyc.toNat, x.tile, none⟩
  (id, { s with links.reqs := s.links.reqs ++ [r] }.onStream x.id fun y => { y with req := y.req ++ [(id, e, write)] })

/-- The host byte address of an element of the window, R381; PERMISSION beyond its limit. -/
def State.hostPlace (s : State) (x : Stream) (off : Int) (n : Nat) : Except Cause Nat :=
  let c := s.ctxt (s.streamCtx x)
  if off < 0 || (c.hwLim.toNat : Int) < off + n then .error .permission else .ok (c.hwBase.toNat + off.toNat)

/-- The scratchpad offset of an element on another rank, R117 and R158. -/
def remotePlace (off : Int) (n : Nat) : Except Cause Nat := if off < 0 || (2 ^ 21 : Nat) < off + n then .error .permission else .ok off.toNat

/-- The 64-byte words that bytes lie in: their first address and their length. -/
def wordsAround (a n : Nat) : Nat × Nat := (a / 64 * 64, (a + n + 63) / 64 * 64 - a / 64 * 64)

/-! ### Runs for the host and for other ranks (R160, R382, R385) -/

/-- The bytes of an element, half a byte of a 4-bit one (R23). -/
def elemPieces (width : Nat) (high : Bool) (v : Nat) : List Piece :=
  if width == 4 then (if high then leBytes 1 (v % 16 * 16) else leBytes 1 (v % 16)).map fun b => ⟨b, if high then 0xF0#8 else 0x0F#8⟩
  else (leBytes (elemBytes width) v).map Piece.whole

/-- Extends a run by an element that follows it, within 256 bytes from the first word (R385); none where it does not follow. -/
def Run.join (r : Run) (off : Nat) (high : Bool) (width v : Nat) (rows : BitVec 8) : Option Run :=
  let last := r.off + r.data.length
  let r := { r with rows := r.rows ||| rows }
  if width == 4 && high && r.half then
    if last == off + 1 then
      some { r with data := r.data.dropLast ++ (leBytes 1 ((r.data.getLastD Piece.none).val.toNat + v % 16 * 16)).map Piece.whole, half := false }
    else none
  else if !r.half && off == last && last + elemBytes width ≤ r.off / 64 * 64 + 256 then
    some { r with data := r.data ++ elemPieces width high v, half := width == 4 && !high }
  else none

/-- A run is captured (R172), posted to the host (R382), or sent to another rank, whose answer the stream then awaits (R385). -/
def State.flushRun (s : State) (x : Stream) (r : Run) : Acc Unit :=
  let bs := r.data
  let sent (s : State) : State := s.onStream x.id fun y => { y with run := none }
  if x.escape.isSome then
    .ok () ((sent s).onStream x.id fun y => { y with staged := y.staged ++ [(ptrWith (wBase x.dst) r.off, bs)], stagedRows := y.stagedRows ||| r.rows })
  else if wEnd x.dst == 2 then
    match s.hostPlace x r.off bs.length with
    | .error c => .fault c s
    | .ok a => if s.pcieUp then .ok () ((sent s).emit (.hostWrite a bs)) else .wait s
  else match s.sendWrite (s.streamCtx x) x.tile (ptrRank (wBase x.dst)) (ptrTile (wBase x.dst)) r.off bs with
    | none => .fault .linkDown s
    | some (port, s) =>
      let (id, s) := (sent s).openRequest x port r.n true
      .ok () (s.onStream x.id fun y => { y with reqRows := y.reqRows ++ [(id, r.rows)] })

/-- An element joins the stream's run; one that does not follow it first has it sent, and begins one of its own. -/
def State.joinRun (s : State) (x : Stream) (b : BufElem) (off : Nat) (high : Bool) : Acc Unit :=
  let set (r : Run) (s : State) : Acc Unit := .ok () (s.onStream x.id fun y => { y with run := some r })
  let fresh : Run := ⟨b.n, off, elemPieces x.width high b.val, x.width == 4 && !high, b.rows⟩
  match x.run with
  | none => set fresh s
  | some r => match r.join off high x.width b.val b.rows with
    | some r => set r s
    | none => (s.flushRun x r).bind fun _ s => set fresh s

end Sys2Proof.Machine
end

