-- ==== Sys2Proof/Machine/StreamRun.lean ====
section
/-! DEFINITION. Streams from their dispatch to their completion (R152 to R172, R176 to R178, R181): elements read and written, ring words,
stamped writes (R257 to R259), tokens, captures. -/
namespace Sys2Proof.Machine

/-! ### Progress -/

/-- The source has delivered its last element (R158, R176; for an sring fed by a port DESIGN CHOICE, log 18, also where it reads words that a whorl left before
its issue). -/
def State.sourceOver (s : State) (x : Stream) : Bool :=
  if x.op == StreamOp.sdec then x.output.isSome
  else if wEnd x.src == 3 then
    match x.total with
    | some n => x.readTo == n
    | none => s.portOver x (wPort x.src) || (0 < x.readTo && (vget (s.tile x.tile).cn.outp (wPort x.src) []).all (·.lanes.act == 0#16)
        && !(s.tile x.tile).drives (wPort x.src))
  else if x.loose then x.total == some x.readTo
  else x.srcCur.fin

/-- A stream into a port has delivered its last element (R232). -/
def State.delivered (s : State) (x : Stream) : Bool := s.sourceOver x && x.buf.isEmpty && x.pack.isEmpty

/-- Every write of a stream is applied (R170). -/
def State.allWritten (s : State) (x : Stream) : Bool :=
  s.delivered x && x.run.isNone && x.req.isEmpty
    && (x.op != StreamOp.sdec || x.output.any (·.length == x.wroteTo))
    && (x.loose || 2 < wEnd x.dst || wPattern x.dst == 4 || x.dstCur.fin)

/-- Whether a stream holds at a Root: it then sends no token (R370). -/
def State.streamHeld (s : State) (x : Stream) : Bool := s.roots.holds.any fun h => match h.what with
  | .elem n _ _ => n == x.id
  | _ => false

/-- Whether a hold keeps element `e` of a side back, R370: its own, until the wake, or that of an element before it. -/
def State.blocked (s : State) (x : Stream) (e : Nat) (write : Bool) : Bool := s.roots.holds.any fun h => match h.what with
  | .elem n i w => n == x.id && (i < e || (i == e && w == write && s.stands h))
  | _ => false

/-! ### Reading elements -/

/-- A stream reads on no further for now: its group is being switched out and it stands at the boundary of a segment (R337), or, as a stream that a switch may
suspend, it holds four elements that it has read and not written, which is what its place in a save slot has room for (DESIGN CHOICE, log 67). The contributions
of a stamped write stand at the Roots. -/
def State.rests (s : State) (x : Stream) : Bool :=
  x.suspends && ((!x.grouped && 4 ≤ x.buf.length) || (x.atBoundary && (s.group x.group).any fun g => g.st == GState.switching))

/-- An element has been read: it joins the buffer, and its hold is over; the last of a decoder's source is decoded (R163 to R166, R177). -/
def State.gotElement (s : State) (x : Stream) (e v : Nat) (bad : Bool) (seg : Option Nat) (rows : BitVec 8) (cur : Cursor) : State :=
  let b : BufElem := ⟨e, v, seg, x.places, rows, none, bad⟩
  let (upto, more) := noteDone x.readTo x.readMore e
  (s.onStream x.id fun y => { y with buf := y.buf ++ [b], readTo := upto, readMore := more, srcCur := cur }).unhold (.elem x.id e false)

/-- Asks for the words around an element by `send`, unless they have been asked for; the response brings it (R382, R385). -/
def State.askElement (s : State) (x : Stream) (e port : Nat) (send : Nat → Out) : Acc (Nat × Bool) :=
  if x.req.any (fun r => r.2.1 == e && !r.2.2) then .wait s
  else
    let (id, s) := s.openRequest x port e false
    .wait (s.emit (send id))

/-- Fetches a source element at given terms: its bits now, with whether its word's check value does not fit, or a request whose response
brings them. A stream source that reads scratchpad gives its words check values of its own (R399). -/
def State.fetchElement (s : State) (x : Stream) (e : Nat) (t : Terms) : Acc (Nat × Bool) :=
  let w := x.width
  let (off, high) := wOffset x.src w t
  match wEnd x.src with
  | 0 =>
    let c := wCoords x.src t
    match x.srcT with
    | none => .fault .tensorInvalid s
    | some d =>
      if !inExtents d.desc (wExpand x.src) c then .fault .coordRange s
      else
        let n := c.map Int.toNat
        if s.overlapped x (readsAt x.src d n) false then .wait s else s.tensorSource x e d n
  | 1 =>
    if s.foreign x.src then
      match remotePlace off (elemBytes w), s.linkPort x.tile with
      | .error c, _ => .fault c s
      | .ok _, none => .fault .linkDown s
      | .ok o, some p =>
        let (a, n) := wordsAround o (elemBytes w)
        s.askElement x e p fun id => .linkRead id (ptrRank (wBase x.src)) (linkAddr (ptrTile (wBase x.src)) a) n (s.sender (s.streamCtx x) x.tile)
    else (s.readSpad x x.src off high w).bind fun v s => .ok (v, false) s
  | _ =>
    match s.hostPlace x off (elemBytes w) with
    | .error c => .fault c s
    | .ok o =>
      let (a, n) := wordsAround o (elemBytes w)
      if s.pcieUp then s.askElement x e 32 fun id => .hostRead id a n else .wait s

/-- Reads element `e` of a stream, or takes the step before it that the walk needs. -/
def State.readElement (s : State) (x : Stream) (e : Nat) : State :=
  if s.blocked x e false || s.rests x || (x.op == StreamOp.sdec && x.unit.isNone) then s
  else if wEnd x.src == 3 then
    if e != x.readTo || s.sourceOver x then s
    else match s.takeLane x.tile (wPort x.src) x.width with
      | (some (v, rows), s) => s.gotElement x e v false none rows x.srcCur
      | (none, s) => s
  else if x.loose then
    if x.hasRead e || x.total.any (· ≤ e) then s
    else (s.fetchElement x e (wAffine x.src e)).finish x e fun (v, bad) s => s.gotElement x e v bad none 0#8 x.srcCur
  else if e != x.srcCur.count then s
  else
    let pre := wEnd x.dst == 3
    match x.srcCur.step x.src pre with
    | .ended => s
    | .skip c => s.onStream x.id fun y => { y with srcCur := c }
    | .empty c => s.gotElement x e 0 false (some 0) 0#8 c
    | .index => (s.indexValue x x.src x.srcIdx x.srcCur.taken).finish x e fun v s =>
        s.onStream x.id fun y => { y with srcCur := y.srcCur.take y.src pre v }
    | .elem t seg c => (s.fetchElement x e t).finish x e fun (v, bad) s => s.gotElement x e v bad seg 0#8 c

/-- A response brings an element a stream has asked for (R382, R385): words of it from an aligned address, with check values of their own (R399). -/
def State.arrived (s : State) (x : Stream) (id e : Nat) (data : List Byte) : State :=
  let s := s.onStream x.id fun y => { y with req := y.req.filter (·.1 != id) }
  let pick (t : Terms) : Nat :=
    let (off, high) := wOffset x.src x.width t
    let off := if wEnd x.src == 2 then off + (s.ctxt (s.streamCtx x)).hwBase.toNat else off
    pickNibble x.width high (leNat ((data.drop (off.toNat % 64)).take (elemBytes x.width)))
  match s.stream x.id with
  | none => s
  | some x =>
    if x.loose then s.gotElement x e (pick (wAffine x.src e)) false none 0#8 x.srcCur
    else match x.srcCur.step x.src (wEnd x.dst == 3) with
      | .elem t seg c => s.gotElement x e (pick t) false seg 0#8 c
      | _ => s

/-! ### Writing elements -/

/-- An element has been written to one of its places, and its hold is over; with the last place it leaves the buffer. -/
def State.wroteElement (s : State) (x : Stream) (e r : Nat) (cur : Cursor) : State :=
  let s := s.onStream x.id fun y =>
    let left := ((y.buf.find? (·.n == e)).elim [] (·.left)).filter (· != r)
    if left.isEmpty then
      let (upto, more) := noteDone y.wroteTo y.wroteMore e
      { y with buf := y.buf.filter (·.n != e), wroteTo := upto, wroteMore := more, dstCur := cur }
    else { y with buf := y.buf.map fun b => if b.n == e then { b with left := left } else b }
  s.unhold (.elem x.id e true)

/-- The rows whose elements stand in the word a stream packs, with another element (R245). -/
def Stream.tagWith (x : Stream) (rows : BitVec 8) : BitVec 8 := if x.pack.isEmpty then rows else x.tags ||| rows

/-- Puts an element to its destination at given terms; `r` names the tile of a multicast. One for the host or another rank joins the stream's run,
whose words are verified as they leave (R400). -/
def State.putElement (s : State) (x : Stream) (b : BufElem) (r : Nat) (t : Terms) : Acc Unit :=
  let w := x.width
  let (off, high) := wOffset x.dst w t
  s.checked x b.bad fun s =>
    if wEnd x.dst == 0 then
      let c := wCoords x.dst t
      match x.dstT with
      | none => .fault .tensorInvalid s
      | some d =>
        if !inExtents d.desc false c then .fault .coordRange s
        else if s.overlapped x (writesAt false d (c.map Int.toNat)) true then .wait s
        else s.rootWrite x b.n d (c.map Int.toNat) (wMerge x.dst) b.val b.bad (b.bad && x.fillsLine b.n d (c.map Int.toNat))
    else if x.away then
      match if wEnd x.dst == 2 then (s.hostPlace x off (elemBytes w)).map fun _ => off.toNat else remotePlace off (elemBytes w) with
      | .error c => .fault c s
      | .ok o => s.sound x b.bad fun s =>
          s.joinRun x b o high
    else s.writeSpad x x.dst (if wMulticast x.dst then r else x.homeOf x.dst) off high w b.val (b.bad && x.fillsWord b.n off high)

/-- Every row of a stream's hardware context, as a word of a port names them. -/
def Stream.side (x : Stream) : BitVec 8 := if x.urgent then 0xF0#8 else 0x0F#8

/-- Puts an element into a Canopy in port, R159 and R210: a word lands when it is full or its segment ends; a full port waits (R211). -/
def State.putLane (s : State) (x : Stream) (b : BufElem) : State :=
  let port := wPort x.dst
  let words := vget (s.tile x.tile).cn.inp port []
  let left := b.seg.getD x.segLeft
  let pre := if b.seg.isSome then b.seg else x.pre
  let full := left ≤ 1 || x.pack.length == 15
  if full && 4 ≤ words.length then s
  else
    let (v, s) := if 32 < x.width then (let (f, s) := s.freeNat; (f % 2 ^ 32, s)) else (b.val, s)
    let pack := if left == 0 then [] else x.pack ++ [v]
    let word : CWord := ⟨⟨packLanes (pack ++ List.replicate (16 - pack.length) 0), BitVec.ofNat 16 (2 ^ pack.length - 1)⟩, pre, s.gcyc.toNat, x.side⟩
    let s := if full then s.onTile x.tile fun t => { t with cn := { t.cn with inp := vset t.cn.inp port (words ++ [word]) } } else s
    (s.onStream x.id fun y => { y with
      pack := if full then [] else pack, pre := if full then none else pre, segLeft := left - 1, tags := x.tagWith b.rows }).wroteElement
      x b.n 0 x.dstCur

/-- Elements of a ring word. -/
def Stream.perWord (x : Stream) : Nat := 512 / x.width

/-- Packs an element into the ring word being filled (R155). -/
def State.packRing (s : State) (x : Stream) (b : BufElem) : State :=
  (s.onStream x.id fun y => { y with pack := y.pack ++ [b.val], foul := y.foul || b.bad, tags := x.tagWith b.rows }).wroteElement x b.n 0 x.dstCur

/-! ### Stamped writes (R156, R257 to R259) -/

/-- The contributions of a stream to one ring group: dimension-0 place and value, in emission order. -/
abbrev Contrib := List (Nat × Nat)

/-- The new values of a group and its new stamp: restamp, or a stamped add. `vs` holds place and value of every element of the group. -/
def groupStep (restamp : Bool) (lam h sc sv : Nat) (vs : Contrib) (cs : Contrib) : Contrib × Nat × Flags :=
  let dd := narrow 16 ((sc : Int) - sv)
  let of (i : Nat) : List Nat := (cs.filter (·.1 == i)).map (·.2)
  if restamp then
    let r := vs.map fun (i, v) => match (of i).getLast? with
      | some c => ((i, c), 0#6)
      | none => let (y, fl) := decayed lam h v dd; ((i, y), fl)
    (r.map (·.1), sc, r.foldl (fun f p => f ||| p.2) 0#6)
  else
    let older := dd < 32768
    let r := vs.map fun (i, v) =>
      let (v, f0) := if older then decayed lam h v dd else (v, 0#6)
      let (v, f) := (of i).foldl (fun (a, f) c =>
        let (c, f1) := if older then (c, 0#6) else decayed lam h c (65536 - dd)
        let (y, f2) := fp32.add a c
        (y, f ||| f1 ||| f2)) (v, f0)
      ((i, v), f)
    (r.map (·.1), if older then sc else sv, r.foldl (fun f p => f ||| p.2) 0#6)

/-- The contributions of a stream to the ring group that holds the coordinates `c`, in emission order. -/
def Stream.groupOf (x : Stream) (c : List Nat) : List BufElem := x.buf.filter fun b => b.coord.any fun d => groupFirst d == groupFirst c

/-- The step of one stream on the group that holds the coordinates `c`: every contribution of the stream at once (R258). What holds it up holds its first
element `e`. -/
def State.stampGroup (s : State) (x : Stream) (e : Nat) (t : TensorV) (c : List Nat) : State :=
  let c0 := groupFirst c
  let mine := x.groupOf c
  let cs : Contrib := mine.map fun b => ((b.coord.getD []).getD 0 0, b.val)
  let r := s.sound x (mine.any (·.bad)) fun s =>
    (s.rootUse x e t.rings (t.stampAt c) true).bind fun sv s =>
      (s.rootPlace x e t.rings (t.stampAt c) true true).bind fun (sp, _, spanel) s =>
        (s.groupPlaces x e t c0 true true).bind fun (ps, panel) s =>
          (s.groupValues x ps panel).bind fun vs s =>
            let (d, h) := descDecay t.desc
            let (new, stamp, fl) := groupStep (wRestamp x.dst) d h (s.streamStep x) sv (((groupElems t.desc c0).map (·.getD 0 0)).zip vs) cs
            (s.streamWrites x e ((sp, leBytes 2 stamp, false) :: (ps.zip new).map fun (p, _, v) => (p, leBytes 4 v, false))).bind fun _ s =>
              .ok () (((s.noteWrite x.group panel).noteWrite x.group spanel).flagCtx x.tile x.urgent fl)
  r.finish x e fun _ s => mine.foldl (fun s b => s.wroteElement x b.n 0 ((s.stream x.id).elim x.dstCur (·.dstCur))) s

/-- A stamped write of element `e`: first its coordinates are found in emission order; once every element has its own, groups are written. -/
def State.writeStamped (s : State) (x : Stream) (e : Nat) : State :=
  match x.dstT with
  | none => s
  | some t =>
    if !s.sourceOver x then s
    else if !x.dstCur.fin then
      if e != x.dstCur.count then s
      else match x.dstCur.step x.dst false with
        | .index => (s.indexValue x x.dst x.dstIdx x.dstCur.taken).finish x e fun v s =>
            s.onStream x.id fun y => { y with dstCur := y.dstCur.take y.dst false v }
        | .elem ts _ c =>
          let co := wCoords x.dst ts
          if !x.buf.any (·.n == e) then s.streamTrap x e .segmentMismatch
          else if !inExtents t.desc false co then s.streamTrap x e .coordRange
          else s.onStream x.id fun y =>
            { y with dstCur := c, buf := y.buf.map fun b => if b.n == e then { b with coord := some (co.map Int.toNat) } else b }
        | .skip c | .empty c => s.onStream x.id fun y => { y with dstCur := c }
        | .ended => s
    else match x.buf.find? (·.n == e) with
      | none => s
      | some b =>
        match b.coord with
        | none => s.streamTrap x e .segmentMismatch
        | some c =>
          let e := ((x.groupOf c).head?.elim e (·.n))
          if s.overlapped x (writesAt true t c) true || s.blocked x e true then s else s.stampGroup x e t c

/-- Writes item `e` of a decoder's output (R165, R166), with check values of its own (R399). -/
def State.writeDecoded (s : State) (x : Stream) (e : Nat) : State :=
  match (x.output.getD [])[e]? with
  | none => s
  | some (patch, c1, c0, v) =>
    if e != x.wroteTo then s
    else match (if patch then x.patchT else x.dstT) with
      | none => s
      | some t =>
        let c := [c0, c1, 0, 0]
        if s.overlapped x (writesAt false t c) true then s
        else (s.rootWrite x e t c 0 v false false).finish x e fun _ s =>
          (s.onStream x.id fun y => { y with wroteTo := e + 1 }).unhold (.elem x.id e true)

/-- Writes element `e` of a stream, or takes the step before it that the destination walk needs. -/
def State.writeElement (s : State) (x : Stream) (e r : Nat) : State :=
  if s.blocked x e true then s
  else if x.op == StreamOp.sdec then s.writeDecoded x e
  else if x.grouped then s.writeStamped x e
  else match x.buf.find? (·.n == e) with
    | some b =>
      if wEnd x.dst == 3 then
        if e == x.wroteTo then (s.sound x b.bad fun s => .ok () s).finish x e fun _ s => s.putLane x b else s
      else if wPattern x.dst == 4 then
        if e == x.wroteTo && x.pack.length < x.perWord then (s.checked x b.bad fun s => .ok () s).finish x e fun _ s => s.packRing x b else s
      else if !b.left.contains r then s
      else if x.loose then (s.putElement x b r (wAffine x.dst e)).finish x e fun _ s => s.wroteElement x e r x.dstCur
      else if e != x.dstCur.count then s
      else match x.dstCur.step x.dst false with
        | .ended => s.streamTrap x e .segmentMismatch
        | .index => (s.indexValue x x.dst x.dstIdx x.dstCur.taken).finish x e fun v s =>
            s.onStream x.id fun y => { y with dstCur := y.dstCur.take y.dst false v }
        | .skip c | .empty c => s.onStream x.id fun y => { y with dstCur := c }
        | .elem t _ c => (s.putElement x b r t).finish x e fun _ s => s.wroteElement x e r c
    | none =>
      if 2 < wEnd x.dst || wPattern x.dst == 4 || x.loose || e != x.dstCur.count || !(s.sourceOver x && x.buf.isEmpty) then s
      else match x.dstCur.step x.dst false with
        | .ended => s
        | .index => (s.indexValue x x.dst x.dstIdx x.dstCur.taken).finish x e fun v s =>
            s.onStream x.id fun y => { y with dstCur := y.dstCur.take y.dst false v }
        | .skip c | .empty c => s.onStream x.id fun y => { y with dstCur := c }
        | .elem _ _ _ => s.streamTrap x e .segmentMismatch

/-- stream element transfer, R153: element `e` is read (`w` false) or written. -/
def execStreamElementTransfer (t n e r : Nat) (w : Bool) (s : State) : Out' :=
  match s.stream n with
  | some x =>
    if x.tile == t && x.engine.isSome then
      (if w then s.writeElement x e r else s.readElement x e).done
    else s.done
  | none => s.done

/-- Writes the ring word a stream has packed into its ring's next slot, R155 and R181; a token lands on kdone (R170). In a last word of an odd number of 4-bit
elements the other nibble of the last byte is written as 0 (DESIGN CHOICE, log 93). -/
def State.putRingWord (s : State) (x : Stream) (r : Ring) : State :=
  let l := Loc.spad x.tile (ptrOff (wBase x.dst) + 64 * (r.written % r.cap))
  let v := x.pack.foldr (fun v a => v + a * 2 ^ x.width) 0
  let n := cdiv (x.pack.length * x.width) 8
  (s.grant l 64).finish x x.wroteTo fun _ s =>
    let s := s.writeLoc l (leBytes n v)
    let s := if x.foul && n == 64 then (l.words n).foldl State.markBad s else s
    let bump (r : Ring) : Ring := if r.base == wBase x.dst then { r with written := r.written + 1 } else r
    let s := s.onCtx x.tile x.urgent fun c => { c with rings := c.rings.map bump }
    (s.onStream x.id fun y => { y with pack := [], foul := false, words := y.words + 1 }).token x.tile x.urgent x.kdone 1

/-- ring word write, R155 and R181: a full word, or the last one once the source is over; a held stream sends no token (R370). -/
def execRingWordWrite (t n : Nat) (s : State) : Out' :=
  match s.stream n with
  | some x =>
    let last := s.sourceOver x && x.buf.isEmpty && !x.pack.isEmpty
    match (s.tctx t x.urgent).rings.find? (·.base == wBase x.dst) with
    | some r =>
      if x.tile != t || x.engine.isNone || wPattern x.dst != 4 || s.streamHeld x || !(x.pack.length == x.perWord || last) || r.cap ≤ r.written - r.released
      then s.done
      else (s.putRingWord x r).done
    | none => s.done
  | none => s.done

/-! ### Tokens (R170 to R172) -/

/-- The counter of a stream's second token: k[kdone + 1], or none (R170). -/
def Stream.second (x : Stream) : Fin 64 := if 62 ≤ x.kdone.val then 63 else x.kdone + 1

/-- Whether a stream sends a read-done token. -/
def Stream.tellsRead (x : Stream) : Bool := x.mode == 1 && x.op != StreamOp.sring

/-- The read-done token of a stream that sends one. -/
def State.tellRead (s : State) (x : Stream) : State :=
  if x.tellsRead && !x.readTok then (s.onStream x.id fun y => { y with readTok := true }).token x.tile x.urgent x.second 1 else s

/-- The last byte of an sdec's source is decoded, R177: DECODE_ERROR, or the page and patch list. The model decodes once every compressed byte has been read:
the read-done token of mode 1 has then been sent, and a DECODE_ERROR names the total as its element (DESIGN CHOICE, log 93). -/
def State.decodeStream (s : State) (x : Stream) : State :=
  match decodePicture (x.buf.map (·.val)) with
  | none => s.streamTrap x x.readTo .decodeError
  | some p =>
    let out := pageOutput p (wAux x.dst)
    let fits := out.all fun (patch, c1, c0, _) => (if patch then x.patchT else x.dstT).any fun d => c1 < descExt d.desc 1 && c0 < descExt d.desc 0
    if !fits then s.streamTrap x x.readTo .decodeError else s.onStream x.id fun y => { y with buf := [], output := some out }

/-- stream read done, R170: the engine has read the last element of its source. Under mode 1 a stream without any element sends this token too: all that its
source has, which is nothing, has been read (DEDUCED, log 93). -/
def execStreamReadDone (t n : Nat) (s : State) : Out' :=
  match s.stream n with
  | some x =>
    if x.tile != t || x.engine.isNone || s.streamHeld x then s.done
    else if x.op == StreamOp.sdec && x.output.isNone then
      if !(x.total == some x.readTo || x.srcCur.fin) || x.unit.isNone then s.done
      else ((s.tellRead x).decodeStream x).done
    else if s.sourceOver x then (s.tellRead x).done
    else s.done
  | none => s.done

/-- Captures an escape, R305: beyond 1,024 the kernel aborts with SAP_FULL, or the capture waits for the kernel to write in place. -/
def State.capture (s : State) (k id : Nat) (w : EscKind) : Bool × State :=
  match s.kernel k with
  | none => (true, s)
  | some n =>
    let set (held : Bool) : State := s.onKernel k fun n => { n with
      escapes := n.escapes.map fun e => if e.id == id then { e with what := some w, held := held } else e
      wantsPlace := n.wantsPlace || held }
    match n.escapes.find? (·.id == id) with
    | none => (true, s)
    | some e =>
      if e.what.isSome then (!e.held, s)
      else if n.ticket.isNone || n.inPlace || n.captured < 1024 then (true, set false)
      else if n.waitsForPlace then (false, set true)
      else (false, s.abort k .sapFull)

/-- The tiles a stream's completion token goes to, R171. -/
def Stream.tokenTiles (x : Stream) : List Nat :=
  if !wNotify x.dst then [x.tile] else if wMulticast x.dst then rectTiles x.tile x.dst else [x.homeOf x.dst]

/-- The counter a stream's completion token goes to: none for an sring under mode 0 (R170). For an sring under mode 1 with notify R170 says
k[kdone + 1] and R171 k[kdone]; the model takes R170's (DESIGN CHOICE, log 37). -/
def Stream.doneCounter (x : Stream) : Fin 64 := if x.op == StreamOp.sring then (if x.mode == 1 then x.second else 63) else x.kdone

/-- The bit of a stream's hardware context: 0 main, 1 urgent. -/
def Stream.side2 (x : Stream) : BitVec 2 := if x.urgent then 2#2 else 1#2

/-- The last thing a stream does: the port it fed has been fed (R232), of the one that fed it no word is left that delivers nothing (R245), and it
leaves. -/
def State.finishStream (s : State) (x : Stream) : State :=
  let s := if wEnd x.dst == 3 && !x.spent then s.onTile x.tile fun t => { t with cn := { t.cn with fed := vmod t.cn.fed (wPort x.dst) (· ||| x.side2) } } else s
  (if wEnd x.src == 3 then s.passEmpty x.tile (wPort x.src) else s).endStream x

/-- The token of a stream with notify to a counter of another rank, R171 and R388: a request like its writes, whose answer ends the stream (R389). -/
def State.notifyAway (s : State) (x : Stream) : Acc Unit :=
  match s.sendToken (s.streamCtx x) x.tile (ptrRank (wBase x.dst)) (ptrTile (wBase x.dst)) x.kdone 1 with
  | none => .fault .linkDown s
  | some (p, s) => .ok () ((s.openRequest x p x.wroteTo true).2.onStream x.id fun y => { y with tokens := [x.tile] })

/-- The completion token of a stream reaches tile `d`; after the last the stream leaves (R171). -/
def State.tellDone (s : State) (x : Stream) (d : Nat) : State :=
  if !x.tokenTiles.contains d || x.tokens.contains d then s
  else
    let s := s.token d x.urgent x.doneCounter 1
    if x.tokenTiles.all fun y => y == d || x.tokens.contains y then s.finishStream x
    else s.onStream x.id fun y => { y with tokens := d :: y.tokens }

/-- What remains for a stream whose writes are applied: its capture (R172), its token to another rank, or that to tile `d`. -/
def State.completeStream (s : State) (x : Stream) (d : Nat) : State :=
  match x.escape with
  | some id => match s.capture x.group id (.staged x.staged) with
    | (false, s) => s
    | (true, s) => (s.token x.tile x.urgent x.doneCounter 1).finishStream x
  | none =>
    if !(wNotify x.dst && x.away) then s.tellDone x d
    else if x.kdone == 63 then s.finishStream x
    else (s.notifyAway x).finish x x.wroteTo fun _ s => s

/-- stream complete, R170 to R172, with notify once for each destination tile `d`: the last run leaves, and then the token. The run of a stream that a switch
suspends leaves too (R337). -/
def execStreamComplete (t n d : Nat) (s : State) : Out' :=
  match s.stream n with
  | some x =>
    if x.tile != t || x.engine.isNone || s.streamHeld x || (x.tellsRead && !x.readTok) then s.done
    else match x.run with
      | some r => (if (s.sourceOver x || s.rests x) && x.buf.isEmpty then (s.flushRun x r).finish x r.n fun _ s => s else s).done
      | none => (if s.allWritten x then s.completeStream x d else s).done
  | none => s.done

/-- A remote write, or the token of a stream with notify, has been acknowledged (R385, R389). -/
def State.acknowledged (s : State) (x : Stream) (id : Nat) : State :=
  let s := s.onStream x.id fun y => { y with req := y.req.filter (·.1 != id), reqRows := y.reqRows.filter (·.1 != id) }
  if x.away && !x.tokens.isEmpty then s.finishStream x else s

end Sys2Proof.Machine
end

