-- ==== Sys2Proof/Machine/RingCmd.lean ====
section
/-! DEFINITION. The step view, the pending advance and rfac (R248 to R256, R264 to R267), and the rewriting of ringed tensors by sweeps and
by STEP_WRITE (R260 to R263). -/
namespace Sys2Proof.Machine

/-- stepr, R264. -/
def execStepr (d : Fin 64) (s : State) : Out' :=
  s.notInHandler
    (if s.stepDependent then (s.resultX 2 d (BitVec.ofNat 64 (s.myKernel.elim 0 (·.stepView)))).done
     else (s.trap .ringUndeclared 0#64).done)

/-- The pending advance of a group's kernel with the additions of slots that have issued already, R265. -/
def State.pendingAdvance (s : State) (g : Group) : Nat :=
  g.tiles.foldl (fun a t => (s.tctx t g.urgent).acts.foldl (fun a x => match x.kind with
    | .stepadv n => a + n.toNat
    | _ => a) a) ((s.kernel g.id).elim 0 (·.advance))

/-- stepadv, R265: the check uses the additions of every slot before it; the addition takes effect at issue + 1. -/
def execStepadv (a : Fin 64) (s : State) : Out' :=
  s.notInHandler
    (let n := bits (s.x a).toNat 31 0
     if !s.stepDependent then (s.trap .ringUndeclared 0#64).done
     else if s.myGroup.any fun g => 4096 < s.pendingAdvance g + n then (s.trap .stepRange 0#64).done
     else (s.act 1 (.stepadv (BitVec.ofNat 64 n))).done)

/-- rfac, R266: the decayed value of R28 with an explicit age. -/
def execRfac (d a b : Fin 64) (s : State) : Out' :=
  let x := (s.x a).toNat
  let y := (s.x b).toNat
  let h := max 1 (min 12288 (bits y 45 32))
  let (v, fl) := decayed (bits y 31 0) h (bits x 31 0) (bits x 47 32)
  (s.result 8 fl (.x d) (BitVec.ofNat 512 v)).done

/-! ### Rewriting ringed tensors -/

/-- What a pass does with a ring group: nothing, or a new stamp with new values by a function of the old ones. -/
inductive Rebase where
  | keep
  | stamp (n : Nat)
  | zero (n : Nat)
  | decay (age n : Nat)
deriving DecidableEq, Repr

/-- The rule of a sweep at B, R261, on a group's stamp. -/
def sweepRule (h b stamp : Nat) : Rebase :=
  let a := narrow 16 ((b : Int) - stamp)
  if h ≤ a then .zero (b % 2 ^ 16) else if 8192 ≤ a then .decay a (b % 2 ^ 16) else .keep

/-- The rule of a STEP_WRITE from P to N, R263. -/
def stepWriteRule (p n h stamp : Nat) : Rebase :=
  let a := narrow 16 ((p : Int) - stamp)
  if h ≤ a then .zero (n % 2 ^ 16) else if 8192 ≤ a then .decay a (n % 2 ^ 16) else .stamp (narrow 16 ((n : Int) - a))

/-- The boundary a commit from P by A crosses, R260. -/
def crossed (p a : Nat) : Option Nat := if p / 4096 < (p + a) / 4096 then some ((p + a) / 4096 * 4096) else none

/-- The coordinates of the first element of every ring group of a tensor. -/
def ringGroups (d : Wide) : List (List Nat) :=
  (List.range (descExt d 3)).flatMap fun c3 => (List.range (descExt d 2)).flatMap fun c2 => (List.range (descExt d 1)).flatMap fun c1 =>
    (List.range (cdiv (descExt d 0) 32)).map fun g => [32 * g, c1, c2, c3]

/-- The ringed tensors of a context as heartwood holds them, R260 and R263: every descriptor that is valid and ringed, also one that a command could not
name (R147). One whose ring_id lies beyond the table has no stamps to rewrite by (DESIGN CHOICE, log 55). -/
def State.ringedTensors (s : State) (c : Nat) : List TensorV :=
  (List.range ((s.ctxt c).ttCount + 1)).filterMap fun tid =>
    (s.heartView c tid).filter fun t => fieldOf t.desc 31 31 == 1 && descRing t.desc && t.ring.isSome

/-- The ring groups of a pass, in its order: tensor and first element. -/
def Pass.groups (p : Pass) : List (TensorV × List Nat) := p.tensors.flatMap fun t => (ringGroups t.desc).map fun co => (t, co)

/-- An element's place, its width in bits, and whether it stands in the high nibble. -/
abbrev PassAt := Spot × Nat × Bool

/-- The places of the elements of a ring group from the place of its first one. -/
def passPlaces (t : TensorV) (co : List Nat) (p : Spot) : List PassAt :=
  (groupSpots t co p).zip ((groupElems t.desc co).map fun d => (t.width, (tensorAddr t.desc d).2))

/-- A value a pass computes on, of a word that must fit its check value (R262, R400); of a version it walks the pool leaf (R368). -/
def State.passValue (s : State) (x : PassAt) : Acc Nat :=
  let n := elemBytes x.2.1
  match (s.seenVersion none (lineOfAddr x.1.phys)).elim (.ok 0 0, s) s.walkVersion with
  | (.trap f, s) => .fault f s
  | (_, s) => if s.viewBad none x.1.phys n then .fault .integrity s else .ok (pickNibble x.2.1 x.2.2 (leNat (s.viewBytes none x.1.phys n))) s

/-- The bytes that elements with new values leave, the first write first: two nibbles of one byte both stay. -/
def State.passBytes (s : State) (l : List (PassAt × Nat)) : List (Spot × List Byte) :=
  (l.foldl (fun ws ((p, w, high), v) =>
    let old := ((ws.find? fun x => x.1.phys == p.phys).elim (s.viewBytes none p.phys 1) fun x => x.2.take 1)
    (p, elemData w v high (leNat old)) :: ws) ([] : List (Spot × List Byte))).reverse

/-- The decayed value of an element; R28 gives it for FP32 alone, and of another format, which R150 refuses, it is a free value (log 55). -/
def State.passDecayed (s : State) (t : TensorV) (v age : Nat) : Nat × State :=
  let (lam, h) := descDecay t.desc
  if descFmt t.desc == 0 then ((decayed lam h v age).1, s)
  else let (f, s) := s.freeNat; (f % 2 ^ t.width, s)

/-- Writes heartwood in place for a pass, with what stands above its lines settled first (R261, R263, R295). -/
def State.passWrite (s : State) (ws : List (Spot × List Byte)) : Acc Unit :=
  match s.settleCopies ((ws.map fun (p, _) => lineOfAddr p.phys).eraseDups) with
  | (.held, s) => .wait s
  | (.failed c, s) => .fault c s
  | (.done, s) => .ok () (ws.foldl (fun s (p, bs) => s.putHbm p.phys bs) s)

/-- Reads or forms a list of values one after another. -/
def accAll {α β : Type} (f : α → State → Acc β) : List α → State → Acc (List β)
  | [], s => .ok [] s
  | a :: r, s => (f a s).bind fun b s => (accAll f r s).bind fun bs s => .ok (b :: bs) s

/-- A pass of context `c` over one ring group: its stamp decides what is rewritten (R261, R263). A missing page holds the pass, whose kernel has the ticket
given (R262). -/
def State.passGroup (s : State) (c ticket : Nat) (rule : Nat → Nat → Rebase) (t : TensorV) (co : List Nat) : Acc Unit :=
  let place (t : TensorV) (co : List Nat) (write : Bool) (s : State) : Acc PassAt :=
    (s.placeFor (.pass c) c 0x1FF ticket t co write).bind fun (p, high, _) s => .ok (p, t.width, high) s
  let rewrite (n : Nat) (value : PassAt → State → Acc Nat) (s : State) : Acc Unit :=
    (place t.rings (t.stampAt co) true s).bind fun sp s =>
      (place t co true s).bind fun (p, _, _) s =>
        let ps := passPlaces t co p
        (accAll value ps s).bind fun vs s => s.passWrite (s.passBytes ((sp, n) :: ps.zip vs))
  (place t.rings (t.stampAt co) false s).bind fun sp s =>
    (s.passValue sp).bind fun stamp s =>
      match rule (descDecay t.desc).2 stamp with
      | .keep => .ok () s
      | .stamp n => (place t.rings (t.stampAt co) true s).bind fun sp s => s.passWrite (s.passBytes [(sp, n)])
      | .zero n => rewrite n (fun _ s => .ok 0 s) s
      | .decay a n => rewrite n (fun p s => (s.passValue p).bind fun v s => let (r, s) := s.passDecayed t v a; .ok r s) s

/-- A pass takes the ring groups left one after another, as far as it goes: the number it is over with, and where it stands. -/
def State.passGroups (c ticket : Nat) (rule : Nat → Nat → Rebase) : List (TensorV × List Nat) → Nat → State → Nat × Acc Unit
  | [], n, s => (n, .ok () s)
  | (t, co) :: r, n, s => match s.passGroup c ticket rule t co with
    | .ok _ s => State.passGroups c ticket rule r (n + 1) s
    | a => (n, a)

/-- A pass goes on from where it stands, unless it holds; with its last group its hold is over (R371). -/
def State.runPass (s : State) (c ticket : Nat) (rule : Nat → Nat → Rebase) (p : Pass) : Nat × Acc Unit :=
  if s.isHeld (.pass c) then (p.past, .wait s)
  else match State.passGroups c ticket rule (p.groups.drop p.past) p.past s with
    | (n, .ok _ s) => (n, .ok () (s.unhold (.pass c)))
    | (n, .fault f s) => (n, .fault f (s.unhold (.pass c)))
    | r => r

/-- The address and the panel of a tensor's element by a walk that changes nothing; none where its page is missing (log 38). -/
def State.panelOf (s : State) (t : TensorV) (co : List Nat) : Option (Nat × Nat) :=
  let v := (tensorAddr t.desc co).1
  match s.freshWalk (descRoot t.desc) v with
  | .ok w => some (w.phys v, w.phys v - v % panelBytes t.width)
  | .error _ => none

/-- The panels a pass will rewrite, as heartwood stands (R262, R298). -/
def State.passPanels (s : State) (rule : Nat → Nat → Rebase) (p : Pass) : List Nat :=
  (p.groups.flatMap fun (t, co) => match s.panelOf t.rings (t.stampAt co) with
    | none => []
    | some (a, sp) =>
      if rule (descDecay t.desc).2 (leNat (s.viewBytes none a (elemBytes t.rings.width))) == Rebase.keep then []
      else sp :: ((s.panelOf t co).elim [] fun x => [x.2])).eraseDups

end Sys2Proof.Machine
end

