-- ==== Sys2Proof/Machine/Barriers.lean ====
section
/-! DEFINITION. Barrier objects and their instructions (R343 to R354). -/
namespace Sys2Proof.Machine

/-- What a tile keeps for barrier `b`. -/
def State.barView (s : State) (t : Nat) (u : Bool) (b : Fin 64) : BarView := (s.tctx t u).bars[b]

/-- Changes what a tile keeps for barrier `b`. -/
def State.onBarView (s : State) (t : Nat) (u : Bool) (b : Fin 64) (f : BarView → BarView) : State :=
  s.onCtx t u fun c => { c with bars := c.bars.set b (f c.bars[b]) }

/-- Barrier `b` of a die. -/
def State.barrier (s : State) (die b : Nat) : Barrier := vget s.crown.barriers (64 * die + b) Barrier.reset

/-- Changes barrier `b` of a die. -/
def State.onBarrier (s : State) (die b : Nat) (f : Barrier → Barrier) : State :=
  { s with crown.barriers := vmod s.crown.barriers (64 * die + b) f }

/-- The home die of the issuing group, R343. -/
def State.homeDie (s : State) : Nat := s.myGroup.elim 0 (·.place.die)

/-- Sends a request of the issuing slot to a barrier, R348. -/
def State.request (s : State) (b : Fin 64) (arm : Option (Nat × Bool)) (w : Nat) : State :=
  let (id, s) := s.fresh
  let r : BReq := ⟨id, id, s.me.group.getD 0, s.cur.tile, s.cur.urgent, s.homeDie, b, arm, w, false⟩
  { s with crown.bReqs := s.crown.bReqs ++ [r] }

/-- barm, R352. -/
def execBarm (b a : Fin 64) (s : State) : Out' :=
  s.notInHandler
    (let v := (s.x a).toNat
     if bits v 11 0 == 0 then (s.trap .barrierState 0#64).done
     else (s.request b (some (bits v 11 0, bits v 16 16 == 1)) 0).done)

/-- Counts an arrival that has issued and is not yet counted (R346, R353). -/
def State.outUp (s : State) (b : Fin 64) : State := s.onBarView s.cur.tile s.cur.urgent b fun v => { v with out := v.out + 1 }

/-- barv, R353. -/
def execBarv (b a : Fin 64) (s : State) : Out' :=
  s.notInHandler
    (let w := bits (s.x a).toNat 11 0
     if w == 0 then s.done
     else if (s.barView s.cur.tile s.cur.urgent b).out == 8 then (s.trap .barrierState 0#64).done
     else ((s.outUp b).request b none w).done)

/-- bars, R353: through the command queue, held back as behind an sbar. -/
def execBars (b a : Fin 64) (s : State) : Out' :=
  s.notInHandler
    (let w := bits (s.x a).toNat 11 0
     if w == 0 then s.done
     else if (s.barView s.cur.tile s.cur.urgent b).out == 8 then (s.trap .barrierState 0#64).done
     else if queueCap s.cur.urgent ≤ s.me.cmdq.length then (s.trap .cmdqFull 0#64).done
     else
       let (n, s) := s.fresh
       ((s.outUp b).enqueue (.bars b w n) s.outstanding).done)

/-- barw, R354. -/
def execBarw (b : Fin 64) (s : State) : Out' :=
  s.notInHandler (s.hold (.barw b (s.barView s.cur.tile s.cur.urgent b).done) false).done

/-- barvw, R354: arrives with weight 1 and holds. -/
def execBarvw (b : Fin 64) (s : State) : Out' :=
  s.notInHandler
    (let v := s.barView s.cur.tile s.cur.urgent b
     if v.out == 8 then (s.trap .barrierState 0#64).done
     else (((s.outUp b).request b none 1).hold (.barw b v.done) false).done)

/-- Whether a barw still holds, R354. -/
def BarView.holds (v : BarView) (d0 : BitVec 16) : Bool :=
  v.out != 0 || (v.v && v.done == v.last) || (!v.v && v.done == d0)

/-- A holding barw or barvw checks its condition, R354. -/
def execBarwRelease (t : Nat) (u : Bool) (s : State) : Out' :=
  match s.waiting t u with
  | some (.barw b d0) => if (s.barView t u b).holds d0 then s.done else (s.onCtx t u TileCtx.release).done
  | _ => s.done

/-- Takes an arrival off its tile's OUT. -/
def BarView.outDown (v : BarView) : BarView := { v with out := v.out - 1 }

/-- A fault at a barrier reaches the issuing tile as an asynchronous trap (R319, R352). -/
def State.barrierFault (s : State) (g t : Nat) (c : Cause) : State := s.tileFault g t c

/-- Applies an arrival to a barrier that is bound to group `g`, R347, R349 and R350. -/
def State.arrive (s : State) (g : Group) (die : Nat) (b : Fin 64) (t w : Nat) : State :=
  let x := s.barrier die b
  match x.st with
  | .armed | .rearmed =>
    let s := s.onBarView t g.urgent b BarView.outDown
    if x.target < x.count + w then s.barrierFault g.id t .barrierState
    else
      let s := s.onBarView t g.urgent b fun v => { v with last := x.phase, v := true }
      s.onBarrier die b fun x =>
        if x.count + w == x.target then { x with count := x.count + w, st := .draining, due := g.cnt + g.window' }
        else { x with count := x.count + w }
  | _ => s.onBarrier die b fun x => { x with held := x.held ++ [(t, w)] }

/-- Applies the held arrivals one at a time, in the order in which they landed; those left when a phase completes stay held (R349). -/
def State.applyHeld (s : State) (g : Group) (die : Nat) (b : Fin 64) : State :=
  let x := s.barrier die b
  x.held.foldl (fun s (t, w) => s.arrive g die b t w) (s.onBarrier die b fun x => { x with held := [] })

/-- The place of a request in R348's order within a gcy. -/
def BReq.key (r : BReq) : Nat := (if r.arm.isSome then 0 else 2 ^ 80) + r.tile * 2 ^ 64 + r.ord

/-- Whether `q` is a request that its tile issued before `r` to the same barrier, the one of that number on the same home die (R344), both in the order of
R348. -/
def BReq.precedes (q r : BReq) : Bool := !q.queued && !r.queued && q.ord < r.ord && q.tile == r.tile && q.die == r.die && q.bar == r.bar

/-- Whether a request may land now, R348: in issue order with the tile's other requests, and in R348's order within the gcy. A barm may take
effect before arrivals of its tile that were issued earlier: those then land in the same gcy. -/
def State.mayLand (s : State) (r : BReq) : Bool :=
  let x := s.barrier r.die r.bar
  s.crown.bReqs.all (fun q => !q.precedes r || (r.arm.isSome && q.arm.isNone))
    && !(x.last.1 == s.gcyc.toNat && r.key < x.last.2)
    && !s.crown.bReqs.any fun q => s.crown.bound.contains q.id && q.id != r.id && q.die == r.die && q.bar == r.bar && q.key < r.key

/-- The fault of a request at the barrier, R352: another world, or another group. -/
def State.requestFault (s : State) (r : BReq) (g : Group) : Option Cause :=
  match (s.barrier r.die r.bar).group with
  | none => none
  | some h =>
    if h == r.group then none
    else if (s.group h).any fun o => (s.ctxt o.ctx).secure != (s.ctxt g.ctx).secure then some .worldViolation
    else some .barrierInvalid

/-- Binds an unbound barrier, R345. -/
def Barrier.bind (x : Barrier) (g : Nat) : Barrier :=
  if x.st == BState.unbound then { x with st := .unarmed, group := some g, phase := 0#16, count := 0 } else x

/-- Takes a request off the way and notes when it took effect; what its tile issued before it lands in this gcy too (R348). -/
def State.landed (s : State) (r : BReq) : State :=
  { s with
    crown.bReqs := s.crown.bReqs.filter (·.id != r.id)
    crown.bound := s.crown.bound.filter (· != r.id) ++ (s.crown.bReqs.filter fun (q : BReq) => q.precedes r).map BReq.id }.onBarrier r.die r.bar fun x => { x with last := (s.gcyc.toNat, r.key) }

/-- A barm lands, R352. -/
def execBarrierRequestLand (n : Nat) (s : State) : Out' :=
  match s.crown.bReqs.find? (·.id == n) with
  | none => s.done
  | some r =>
    match r.arm, s.group r.group with
    | some (target, auto), some g =>
      if !s.mayLand r then s.done
      else
        let s := s.landed r
        match s.requestFault r g with
        | some c => (s.barrierFault g.id r.tile c).done
        | none =>
          let x := s.barrier r.die r.bar
          if x.st == BState.draining || ((x.st == BState.armed || x.st == BState.rearmed) && x.count != 0) then
            (s.barrierFault g.id r.tile .barrierState).done
          else
            let held := x.st == BState.unarmed
            let s := s.onBarrier r.die r.bar fun x => { x.bind g.id with st := .armed, target := target, auto := auto }
            (if held then s.applyHeld g r.die r.bar else s).done
    | _, none => State.done { s with crown.bReqs := s.crown.bReqs.filter (·.id != n) }
    | none, _ => s.done

/-- An arrival lands, R353, R347 and R349. -/
def execBarrierArrivalLand (n : Nat) (s : State) : Out' :=
  match s.crown.bReqs.find? (·.id == n) with
  | none => s.done
  | some r =>
    match r.arm, s.group r.group with
    | none, some g =>
      if !s.mayLand r then s.done
      else
        let s := s.landed r
        match s.requestFault r g with
        | some c => ((s.onBarView r.tile r.urgent r.bar BarView.outDown).barrierFault g.id r.tile c).done
        | none => ((s.onBarrier r.die r.bar fun x => x.bind g.id).arrive g r.die r.bar r.tile r.weight).done
    | _, none => State.done { s with crown.bReqs := s.crown.bReqs.filter (·.id != n) }
    | some _, _ => s.done

/-- A completed phase is released at group cycle g + F, R350. -/
def execBarrierRelease (e b : Nat) (s : State) : Out' :=
  let x := s.barrier e b
  match x.st, x.group.bind s.group with
  | .draining, some g =>
    if g.cnt < x.due then s.done
    else
      let phase := x.phase + 1
      let s := g.tiles.foldl (fun s t => s.onBarView t g.urgent (Fin.ofNat 64 b) fun v => { v with done := phase }) s
      let s := s.onBarrier e b fun x => { x with phase := phase, count := 0, st := if x.auto then .rearmed else .unarmed }
      (if x.auto then s.applyHeld g e (Fin.ofNat 64 b) else s).done
  | _, _ => s.done

/-- Barriers bound to a group return to unbound, R345. -/
def State.unbindBarriers (s : State) (g : Nat) : State :=
  { s with crown := { s.crown with
      barriers := s.crown.barriers.map fun x => if x.group == some g then Barrier.reset else x
      bReqs := s.crown.bReqs.filter (·.group != g) } }

end Sys2Proof.Machine
end

