-- ==== Sys2Proof/Machine/Matrix.lean ====
section
/-! DEFINITION. The matrix array (R188 to R204, R207): its commands at issue and at their start, the bytes they touch, and the wave. -/
namespace Sys2Proof.Machine

/-! ### Records (R192 to R195) -/

/-- The common requirements of R194 on a record of a matrix command. -/
def mxRecord (w : Wide) : Bool :=
  wEnd w == 1 && wPattern w == 0 && fieldOf w 66 53 == 0 && fieldOf w 52 0 == 0 && fieldOf w 447 384 == 0 && wAux w == 0

/-- Beats of an operand record, R194. -/
def mxBeats (w : Wide) : Nat := wProduct w 0 4

/-- The sum of the extremes of a walk's terms, in its units. -/
def mxSpan (w : Wide) : Int × Int :=
  let term (j : Nat) : Int := ((wCount w j : Int) - 1) * wStride w j
  ((List.range 4).foldl (fun a j => a + min 0 (term j)) 0, (List.range 4).foldl (fun a j => a + max 0 (term j)) 0)

/-- What R195 needs of one record: its shape holds, its alignment, and the bytes the command would touch through it (none: it touches none). -/
structure MxRole where
  w : Wide
  ok : Bool
  align : Nat
  range : Option (Int × Int)
deriving DecidableEq, Repr

/-- An operand record, R194. -/
def mxOperand (w : Wide) : MxRole :=
  let (lo, hi) := mxSpan w
  let b : Int := ptrOff (wBase w)
  ⟨w, mxRecord w, 128, if mxBeats w == 0 then none else some (b + lo * 128, b + hi * 128 + 128)⟩

/-- A scale record, R194. -/
def mxScale (w : Wide) : MxRole :=
  let b : Int := ptrOff (wBase w)
  ⟨w, mxRecord w && (List.range 4).all (fun j => wCount w j == 1), 128, some (b, b + 128)⟩

/-- n1 and n0 in 1..64, n2 = n3 = 1 and s0 = 1 (R194). -/
def mxRectangle (w : Wide) : Bool :=
  1 ≤ wCount w 1 && wCount w 1 ≤ 64 && 1 ≤ wCount w 0 && wCount w 0 ≤ 64 && wCount w 2 == 1 && wCount w 3 == 1 && wStride w 0 == 1

/-- The extremes of i × s over the rows of a rectangle. -/
def rowSpan (n : Nat) (s : Int) : Int × Int := (min 0 (((n : Int) - 1) * s), max 0 (((n : Int) - 1) * s))

/-- The record of an ldacc, R194. -/
def mxLoad (w : Wide) : MxRole :=
  let (lo, hi) := rowSpan (wCount w 1) (wStride w 1)
  let b : Int := ptrOff (wBase w)
  ⟨w, mxRecord w && mxRectangle w && wStride w 2 == 0 && wStride w 3 == 0 && wFmt w == 0, 4,
   some (b + lo * 4, b + (hi + wCount w 0) * 4)⟩

/-- The block format of a format code, R146. -/
def blockOf : Nat → Option BFmt
  | 5 => some .mxfp8e4
  | 6 => some .mxfp8e5
  | 7 => some .mxfp4
  | 8 => some .mxint8
  | 9 => some .fk8
  | 10 => some .fk4
  | _ => none

/-- Blocks of a drained row, R203. -/
def rowBlocks (w : Wide) : Nat := cdiv (wCount w 0) 32

/-- The byte offset of element `j` of row `i` of a drain, R194. -/
def drainByte (w : Wide) (i : Int) (j : Nat) : Int :=
  (ptrOff (wBase w) : Int) + (i * wStride w 1 + j) * ((fmtBits (wFmt w)).getD 8 : Nat) / 8

/-- The byte offset of the scale bytes of block `b` of row `i`, R203. -/
def drainScale (w : Wide) (f : BFmt) (i : Int) (b : Nat) : Int :=
  (ptrOff (wBase w) : Int) + wStride w 2 + i * wStride w 3 + (b * f.scaleBytes : Nat)

/-- The record of a drain, R194: its range covers elements and scale bytes. -/
def mxDrain (w : Wide) : MxRole :=
  let bitsPer := (fmtBits (wFmt w)).getD 8
  let rows := (wCount w 1 : Int) - 1
  let nib := bitsPer != 4 || (wCount w 0 % 2 == 0 && wStride w 1 % 2 == 0)
  let scales := match blockOf (wFmt w) with
    | some _ => true
    | none => wStride w 2 == 0 && wStride w 3 == 0
  let ends (i : Int) : List (Int × Int) :=
    (drainByte w i 0, drainByte w i (wCount w 0 - 1) + max 1 (bitsPer / 8 : Nat)) :: (match blockOf (wFmt w) with
      | some f => [(drainScale w f i 0, drainScale w f i (rowBlocks w))]
      | none => [])
  let l := ends 0 ++ ends rows
  ⟨w, mxRecord w && mxRectangle w && wFmt w ≤ 10 && nib && scales, max 1 (bitsPer / 8),
   some (l.foldl (fun a r => min a r.1) (drainByte w 0 0), l.foldl (fun a r => max a r.2) (drainByte w 0 0))⟩

/-- The checks of R195 on a command's records in their order: the fault with its TINFO. -/
def mxFault (extra : Bool) (rs : List MxRole) : Option (Cause × Word) :=
  if !extra || rs.any (!·.ok) then some (.walkInvalid, 0#64)
  else match rs.find? fun r => ptrSpace (wBase r.w) != 1 with
    | some r => some (.spaceInvalid, wBase r.w)
    | none =>
      match rs.find? fun r => ptrOff (wBase r.w) % r.align != 0 with
      | some r => some (.misaligned, wBase r.w)
      | none =>
        match rs.find? fun r => r.range.any fun (lo, hi) => lo < 0 || (partHi false : Int) < hi with
        | some r => some (.permission, wBase r.w)
        | none => none

/-! ### Issue -/

/-- Puts a matrix command on its way: its records are latched (R69, R72, R195). -/
def State.matrixCommand (s : State) (f : Option (Cause × Word)) (op : MOp) (wa wb : Wide) (n : Nat) (k d : Fin 64) : Out' :=
  s.notInHandler <| match f with
    | some (c, i) => (s.trap c i).done
    | none =>
      let (id, s) := s.fresh
      let c : MCmd := ⟨id, s.me.flow.ord, s.cur.pc, s.cur.slot, s.clock + d.val, k, op, wa, wb, n, false, none, [], [], 0, []⟩
      (s.onTile s.cur.tile fun x => { x with mx := { x.mx with cmds := x.mx.cmds ++ [c] } }).done

/-- An mma or mmb, R198 and R199. -/
def State.product (s : State) (op : MOp) (a b : Fin 32) (k d : Fin 64) : Out' :=
  s.matrixCommand (mxFault (mxBeats (s.w a) == mxBeats (s.w b)) [mxOperand (s.w a), mxOperand (s.w b)]) op (s.w a) (s.w b) (mxBeats (s.w a)) k d

/-- mma.bf16, R198. -/
def execMmaBf16 (p : Fin 4) (a b : Fin 32) (k d : Fin 64) (s : State) : Out' := s.product (.mma .bf16 p) a b k d

/-- mma.fp16, R198. -/
def execMmaFp16 (p : Fin 4) (a b : Fin 32) (k d : Fin 64) (s : State) : Out' := s.product (.mma .fp16 p) a b k d

/-- mma.e4m3, R198. -/
def execMmaE4m3 (p : Fin 4) (a b : Fin 32) (k d : Fin 64) (s : State) : Out' := s.product (.mma .e4m3 p) a b k d

/-- mma.e5m2, R198. -/
def execMmaE5m2 (p : Fin 4) (a b : Fin 32) (k d : Fin 64) (s : State) : Out' := s.product (.mma .e5m2 p) a b k d

/-- mmb.mxfp8e4, R199. -/
def execMmbMxfp8e4 (p : Fin 2) (a b : Fin 32) (k d : Fin 64) (s : State) : Out' := s.product (.mmb .mxfp8e4 p) a b k d

/-- mmb.mxfp8e5, R199. -/
def execMmbMxfp8e5 (p : Fin 2) (a b : Fin 32) (k d : Fin 64) (s : State) : Out' := s.product (.mmb .mxfp8e5 p) a b k d

/-- mmb.mxfp4, R199. -/
def execMmbMxfp4 (p : Fin 2) (a b : Fin 32) (k d : Fin 64) (s : State) : Out' := s.product (.mmb .mxfp4 p) a b k d

/-- mmb.mxint8, R199. -/
def execMmbMxint8 (p : Fin 2) (a b : Fin 32) (k d : Fin 64) (s : State) : Out' := s.product (.mmb .mxint8 p) a b k d

/-- mmb.fk8, R199. -/
def execMmbFk8 (p : Fin 2) (a b : Fin 32) (k d : Fin 64) (s : State) : Out' := s.product (.mmb .fk8 p) a b k d

/-- mmb.fk4, R199. -/
def execMmbFk4 (p : Fin 2) (a b : Fin 32) (k d : Fin 64) (s : State) : Out' := s.product (.mmb .fk4 p) a b k d

/-- sac, R200. -/
def execSac (p : Fin 4) (a b : Fin 32) (k d : Fin 64) (s : State) : Out' :=
  s.matrixCommand (mxFault true [mxScale (s.w a), mxScale (s.w b)]) (.sac p) (s.w a) (s.w b) 0 k d

/-- zacc, R201: `kind` clears bp plane bit 22. -/
def execZacc (p : Fin 4) (kind : Bool) (k d : Fin 64) (s : State) : Out' :=
  s.matrixCommand none (if kind then .zbp (Fin.ofNat 2 p.val) else .zacc p) 0#512 0#512 0 k d

/-- ldacc, R202. -/
def execLdacc (p : Fin 4) (a : Fin 32) (k d : Fin 64) (s : State) : Out' :=
  s.matrixCommand (mxFault true [mxLoad (s.w a)]) (.ldacc p) (s.w a) 0#512 0 k d

/-- drain, R203. -/
def execDrain (p : Fin 4) (w : Fin 32) (r : Rm) (q : Bool) (k d : Fin 64) (s : State) : Out' :=
  s.matrixCommand (mxFault true [mxDrain (s.w w)]) (.drain p r q) (s.w w) 0#512 0 k d

/-! ### Ports and starts (R69, R71, R190, R191) -/

/-- The ports of R190. -/
inductive MxPort where
  | feed | scale | drain | none
deriving DecidableEq, Repr

/-- The port of a command. -/
def MCmd.port (c : MCmd) : MxPort :=
  match c.op with
  | .mma _ _ | .mmb _ _ | .ldacc _ => .feed
  | .sac _ => .scale
  | .drain _ _ _ => .drain
  | .zacc _ | .zbp _ => .none

/-- The occupancy of a command, R190. -/
def MCmd.occupancy (c : MCmd) : Nat :=
  match c.op with
  | .mma _ _ | .mmb _ _ => c.n
  | .ldacc _ | .drain _ _ _ => 64
  | .sac _ => 1
  | .zacc _ | .zbp _ => 0

/-- The cycle of a started command's last effect, R196. -/
def MCmd.lastCycle (c : MCmd) : Nat :=
  match c.op with
  | .mma _ _ | .mmb _ _ => if c.n == 0 then c.start else c.start + 4 + (c.n - 1) + 126
  | .sac _ => c.start + 131
  | .zacc _ | .zbp _ | .ldacc _ => c.start + 130
  | .drain _ _ _ => c.start + 69 + wCount c.wa 1

/-- Whether a command still has effects at a cycle. -/
def MCmd.runs (c : MCmd) (now : Nat) : Bool := c.started && c.cut.all (now < ·)

/-- Changes the array of a tile. -/
def State.onMx (s : State) (t : Nat) (f : Matrix → Matrix) : State := s.onTile t fun x => { x with mx := f x.mx }

/-- Changes one command of an array. -/
def Matrix.onCmd (m : Matrix) (id : Nat) (f : MCmd → MCmd) : Matrix := { m with cmds := m.cmds.map fun c => if c.id == id then f c else c }

/-- A matrix command reaches its start cycle, R69, R71 and R191: TIMING_MISS, SLOT_REUSE, or it starts. -/
def State.startMatrix (s : State) (t : Nat) (c : MCmd) : State :=
  let now := c.start
  let drop (s : State) : State := s.onMx t fun m => { m with cmds := m.cmds.filter (·.id != c.id) }
  let busy := (s.tile t).mx.cmds.any fun m =>
    m.id != c.id && m.started && m.port == c.port && c.port != MxPort.none && m.start ≤ now && now < m.start + m.occupancy
  if c.kpre != 63 && (s.tctx t false).regs.k[c.kpre] == 0#32 then drop (s.raise t false .timingMiss (BitVec.ofNat 64 c.kpre.val) c.pc c.slot)
  else if busy then drop (s.raise t false .slotReuse 0#64 c.pc c.slot)
  else
    let s := if c.kpre == 63 then s else s.onCtx t false fun x => { x with regs := x.regs.takeK c.kpre 1 }
    s.onMx t fun m =>
      let m := m.onCmd c.id fun c => { c with started := true }
      match c.op with
      | .mmb b p => if c.n == 0 then m else { m with tag := m.tag.set p (BitVec.ofNat 3 b.tag) }
      | .sac p => m.onCmd c.id fun c => { c with tag := (vget m.tag (p.val % 2) 0#3).toNat }
      | .zbp p => { m with tag := m.tag.set p 0#3 }
      | _ => m

/-! ### Scratchpad traffic (R190, R196) -/

/-- The 64-byte words of bytes lo .. hi - 1. -/
def wordsOf (lo hi : Int) : List Nat := (List.range ((hi.toNat + 63) / 64 - lo.toNat / 64)).map fun i => lo.toNat / 64 + i

/-- The offset of an operand slice, R194. -/
def sliceOff (w : Wide) (b : Nat) : Nat :=
  let (t3, t2, t1, t0) := wAffine w b
  ((ptrOff (wBase w) : Int) + (t3 + t2 + t1 + t0) * 128).toNat

/-- The offset of row `i` of an ldacc. -/
def loadRow (w : Wide) (i : Nat) : Nat := ((ptrOff (wBase w) : Int) + (i : Int) * wStride w 1 * 4).toNat

/-- Words of each scale slice a sac reads: one on an MX path (R200). -/
def sacWords (tag : Nat) : Nat := if 1 ≤ tag && tag ≤ 4 then 1 else 2

/-- The bank words a command touches in a cycle, each access once (R190). -/
def MCmd.words (c : MCmd) (now : Nat) : List Nat :=
  if !c.runs now then [] else
    match c.op with
    | .mma _ _ | .mmb _ _ =>
      if now < c.start || c.start + c.n ≤ now then []
      else
        let a := sliceOff c.wa (now - c.start) / 64
        let b := sliceOff c.wb (now - c.start) / 64
        [a, a + 1, b, b + 1]
    | .sac _ =>
      if now != c.start then []
      else
        let a := ptrOff (wBase c.wa) / 64
        let b := ptrOff (wBase c.wb) / 64
        if sacWords c.tag == 1 then [a, b] else [a, a + 1, b, b + 1]
    | .ldacc _ =>
      if now < c.start || c.start + wCount c.wa 1 ≤ now then []
      else
        let o := loadRow c.wa (now - c.start)
        wordsOf o (o + 4 * wCount c.wa 0)
    | .drain _ _ _ =>
      if now < c.start + 70 || c.start + 70 + wCount c.wa 1 ≤ now then []
      else
        let i : Int := (now - c.start - 70 : Nat)
        let bitsPer := (fmtBits (wFmt c.wa)).getD 8
        (wordsOf (drainByte c.wa i 0) (drainByte c.wa i (wCount c.wa 0 - 1) + max 1 (bitsPer / 8 : Nat)) ++ (match blockOf (wFmt c.wa) with
          | some f => wordsOf (drainScale c.wa f i 0) (drainScale c.wa f i (rowBlocks c.wa))
          | none => [])).eraseDups
    | .zacc _ | .zbp _ => []

/-- The accesses of a tile's array in this cycle. -/
def State.matrixTouches (s : State) (t now : Nat) : List Touch :=
  (s.tile t).mx.cmds.flatMap fun c => (c.words now).map fun w =>
    ⟨spadSpan t (64 * w) 64, .alone, t, false, .matrix c.id, c.ord, c.pc, c.slot⟩

/-- A fault cancels what a command has scheduled from this cycle on (R191). -/
def State.cutMatrix (s : State) (t id now : Nat) : State := s.onMx t fun m => m.onCmd id fun c => { c with cut := some now }

/-- What a command reads in a cycle: bytes of its A side and of its B side (R196). -/
def MCmd.reads (c : MCmd) (m : Mem) (now : Nat) : List Byte × List Byte :=
  match c.op with
  | .mma _ _ | .mmb _ _ => (m.read (sliceOff c.wa (now - c.start)) 128, m.read (sliceOff c.wb (now - c.start)) 128)
  | .sac _ => (m.read (ptrOff (wBase c.wa)) 128, m.read (ptrOff (wBase c.wb)) 128)
  | .ldacc _ => (m.read (loadRow c.wa (now - c.start)) (4 * wCount c.wa 0), [])
  | _ => ([], [])

/-- A started command takes the bytes it reads in this cycle. -/
def MCmd.feed (c : MCmd) (m : Mem) (now : Nat) : MCmd :=
  let reads := match c.op with
    | .mma _ _ | .mmb _ _ => c.runs now && now < c.start + c.n
    | .sac _ => c.runs now && now == c.start
    | .ldacc _ => c.runs now && now < c.start + wCount c.wa 1
    | _ => false
  if reads then
    let (a, b) := c.reads m now
    { c with inA := c.inA ++ [a], inB := c.inB ++ [b] }
  else c

/-- A command that reads a word whose check value does not fit it uses nothing more, and the kernel aborts (R400). -/
def State.spoilMatrix (s : State) (t now : Nat) (c : MCmd) : State :=
  match c.op with
  | .drain _ _ _ => s
  | _ => if (c.words now).any fun w => s.badWord (.spad t w) then (s.spoilCore t false).cutMatrix t c.id now else s

/-- Every command of a tile's array takes the bytes it reads in this cycle. -/
def State.feedMatrix (s : State) (t now : Nat) : State :=
  let s := (s.tile t).mx.cmds.foldl (fun s c => s.spoilMatrix t now c) s
  let m := (s.tile t).spad
  s.onMx t fun x => { x with cmds := x.cmds.map fun c => c.feed m now }

/-! ### Draining rows (R203, R204) -/

/-- Bytes of elements of `w` bits, two to a byte when 4 (R23). -/
def packBytes (w : Nat) (es : List Nat) : List Byte := leBytes (cdiv (es.length * w) 8) (es.foldr (fun e a => e + a * 2 ^ w) 0)

/-- Whether a row of a drain pops the random-bit queue, R203. -/
def drainPops (fmt : Nat) (rm : Rm) : Bool := rm == Rm.sr && 1 ≤ fmt && fmt ≤ 7

/-- Whether a drain writes a row in this cycle that pops the random-bit queue, R203 and R204. -/
def MCmd.popsNow (c : MCmd) (now : Nat) : Bool :=
  match c.op with
  | .drain _ rm _ => c.runs now && c.start + 70 ≤ now && now < c.start + 70 + wCount c.wa 1 && drainPops (wFmt c.wa) rm
  | _ => false

/-- The words of the four entries a row pops, R139 and R204. -/
def CRegs.rowWords (c : CRegs) : List Nat := (List.range 4).flatMap fun e => rbqEntry c.rbseed (c.rbidx.toNat + e)

/-- Before a write of RBSEED or RBIDX lands, the row of this cycle draws its words: its drain has issued earlier, and so it pops first (R56). The write then
replaces the index that the pop leaves. One row at most is written in a cycle (R191). -/
def State.drawRow (s : State) (t now : Nat) : State :=
  if (s.tile t).mx.cmds.any (·.popsNow now) then s.onMx t fun m => { m with drawn := some (s.tctx t false).cr.rowWords } else s

/-- One row of a drain converted: element bytes, scale bytes by block, and flags (R203). -/
def drainRow (fmt : Nat) (rm : Rm) (sat : Bool) (rws xs : List Nat) : List Byte × List (List Byte) × Flags :=
  match blockOf fmt with
  | some f =>
    let blocks := (List.range (cdiv xs.length 32)).map fun b =>
      let es := (xs.drop (32 * b)).take 32
      let (cs, ss, fl) := f.quantise rm ((rws.drop (32 * b)).take 32) (es ++ List.replicate (32 - es.length) 0)
      (cs.take es.length, ss, fl)
    (packBytes f.width (blocks.flatMap (·.1)), blocks.map fun b => b.2.1.map (BitVec.ofNat 8), blocks.foldl (fun fl b => fl ||| b.2.2) 0#6)
  | none =>
    match mergeFmt fmt with
    | some f =>
      if fmt == 0 then (packBytes 32 xs, [], 0#6)
      else
        let (cs, fl) := gather ((xs.zip (rws ++ List.replicate xs.length 0)).map fun (x, rw) => fp32.convert f rm sat rw x)
        (packBytes (1 + f.ebits + f.mbits) cs, [], fl)
    | none => ([], [], 0#6)

/-- A drain writes its row of this cycle, R204. -/
def State.drainNow (s : State) (t now : Nat) (c : MCmd) : State :=
  match c.op with
  | .drain _ rm sat =>
    if !c.runs now || now < c.start + 70 || c.start + 70 + wCount c.wa 1 ≤ now then s
    else
      let i := now - c.start - 70
      let fmt := wFmt c.wa
      let pops := drainPops fmt rm
      let drawn := (s.tile t).mx.drawn
      let rws := if pops then drawn.getD (s.tctx t false).cr.rowWords else []
      let xs := (List.range (wCount c.wa 0)).map fun j => ((c.got.find? fun g => g.1 == i && g.2.1 == j).elim 0#32 (·.2.2)).toNat
      let (bs, ss, fl) := drainRow fmt rm sat rws xs
      let s := s.writeLoc (.spad t (drainByte c.wa i 0).toNat) bs
      let s := match blockOf fmt with
        | some f => s.writeLoc (.spad t (drainScale c.wa f i 0).toNat) (ss.flatMap id)
        | none => s
      let s := if pops && drawn.isNone then s.onCtx t false fun x => { x with cr := { x.cr with rbidx := x.cr.rbidx + 4 } } else s
      s.flagCtx t false fl
  | _ => s

/-- Every drain of a tile writes its row of this cycle. -/
def State.drainRows (s : State) (t now : Nat) : State :=
  let z := (s.tile t).mx.cmds.foldl (fun s c => s.drainNow t now c) s
  if (s.tile t).mx.drawn.isSome then z.onMx t fun m => { m with drawn := none } else z

/-! ### The wave (R196, R197) -/

/-- The entries a command touches `d` cycles after its first could be touched, when it has `n` steps: row, column and step, i + j + step = d. -/
def waveCells (d n : Nat) : List (Nat × Nat × Nat) :=
  (List.range 64).flatMap fun i =>
    let lo := d - (n - 1) - i
    let hi := min 63 (d - i)
    if d < i || n == 0 then [] else (List.range (hi + 1 - lo)).map fun k => (i, lo + k, d - i - (lo + k))

/-- Element `t` of lane `l` of a slice, `w` bits wide (R192). -/
def laneElem (sl : List Byte) (l w t : Nat) : Nat := leNat ((sl.drop (2 * l)).take 2) / 2 ^ (w * t) % 2 ^ w

/-- One beat of an mma at an entry, R39 and R40; a product 0 × ∞ beside a quiet NaN sets NV as the implementation does (log 12). -/
def mmaBeat (f : MmaFmt) (acc : Nat) (a b : List Byte) (i j : Nat) : Nat × Flags :=
  let one (g : FFmt) : Nat × Flags :=
    rne32 ((g.val (laneElem a i 16 0)).fma (g.val (laneElem b j 16 0)) (fp32.val acc))
  let two (g : FFmt) : Nat × Flags :=
    let pair (t : Nat) : FVal × FVal := (g.val (laneElem a i 8 t), g.val (laneElem b j 8 t))
    rne32 (sumProducts (fp32.val acc) [pair 0, pair 1])
  match f with
  | .bf16 => one bf16
  | .fp16 => one fp16
  | .e4m3 => two e4m3
  | .e5m2 => two e5m2

/-- Adds an integer to a sub-sum, keeping the low `w` bits as a two's complement value (R188). -/
def subAdd (w : Nat) (x : BitVec 80) (p : Int) : BitVec 80 := BitVec.ofInt 80 (sx w (narrow w (x.toInt + p)))

/-- One product of an mmb at an entry, R41 and R42: a NaN or an infinite element has the integer 0, so its products add nothing. -/
def BpEntry.add (e : BpEntry) (f : BFmt) (x y : Nat) : BpEntry :=
  let p := f.elemInt x * f.elemInt y
  let w := f.bpWidth
  let e := { e with flags := e.flags ||| BitVec.ofNat 3 (f.prodFlags x y) }
  match f.sel x, f.sel y with
  | 0, 0 => { e with s00 := subAdd w e.s00 p }
  | 0, _ => { e with s01 := subAdd w e.s01 p }
  | _, 0 => { e with s10 := subAdd w e.s10 p }
  | _, _ => { e with s11 := subAdd w e.s11 p }

/-- One beat of an mmb at an entry. -/
def mmbBeat (f : BFmt) (e : BpEntry) (a b : List Byte) (i j : Nat) : BpEntry :=
  (List.range f.perBeat).foldl (fun e t => e.add f (laneElem a i (16 / f.perBeat) t) (laneElem b j (16 / f.perBeat) t)) e

/-- One fold of a sac at an entry, R43 and R200. -/
def sacFold (f : BFmt) (e : BpEntry) (acc : Nat) (a b : List Byte) (i j : Nat) : Nat × Flags :=
  let byte (l : List Byte) (k : Nat) : Nat := (l.getD k 0#8).toNat
  let sc (l : List Byte) (k : Nat) : List Nat := if f.fork then [byte l (2 * k), byte l (2 * k + 1)] else [byte l k]
  f.fold [e.s00.toInt, e.s01.toInt, e.s10.toInt, e.s11.toInt] e.flags.toNat (sc a i) (sc b j) acc

/-- A plane's entry. -/
def planeAt {α : Type} (p : Vector α 4096) (i j : Nat) (d : α) : α := vget p (64 * i + j) d

/-- The steps of a command's wave: the offset of its first cycle and the number of steps (R196). -/
def MCmd.steps (c : MCmd) : Nat × Nat :=
  match c.op with
  | .mma _ _ | .mmb _ _ => (4, c.n)
  | .sac _ => (5, 1)
  | _ => (4, 1)

/-- The class of a command in R197's order. -/
def MCmd.class (c : MCmd) : Nat :=
  match c.op with
  | .zacc _ | .zbp _ | .ldacc _ => 0
  | .sac _ => 1
  | .mma _ _ | .mmb _ _ => 2
  | .drain _ _ _ => 3

/-- One command's effect on one entry of the planes in this cycle; flags join FPSTAT. -/
def Matrix.cell (m : Matrix) (c : MCmd) (i j b : Nat) : Matrix × Flags :=
  let e := 64 * i + j
  let a := c.inA.getD b []
  let o := c.inB.getD b []
  match c.op with
  | .zacc p => ({ m with acc := m.acc.set p (vset m.acc[p] e 0#32) }, 0#6)
  | .zbp p => ({ m with bp := m.bp.set p (vset m.bp[p] e BpEntry.zero) }, 0#6)
  | .ldacc p =>
    let v : Nat := if i < wCount c.wa 1 && j < wCount c.wa 0 then leNat (((c.inA.getD i []).drop (4 * j)).take 4) else 0
    ({ m with acc := m.acc.set p (vset m.acc[p] e (BitVec.ofNat 32 v)) }, 0#6)
  | .sac p =>
    match BFmt.ofTag c.tag with
    | none => (m, 0#6)
    | some f =>
      let q : Fin 2 := Fin.ofNat 2 p.val
      let (v, fl) := sacFold f (planeAt m.bp[q] i j BpEntry.zero) (planeAt m.acc[p] i j 0#32).toNat a o i j
      ({ m with acc := m.acc.set p (vset m.acc[p] e (BitVec.ofNat 32 v)), bp := m.bp.set q (vset m.bp[q] e BpEntry.zero) }, fl)
  | .mma f p =>
    let (v, fl) := mmaBeat f (planeAt m.acc[p] i j 0#32).toNat a o i j
    ({ m with acc := m.acc.set p (vset m.acc[p] e (BitVec.ofNat 32 v)) }, fl)
  | .mmb f p => ({ m with bp := m.bp.set p (vset m.bp[p] e (mmbBeat f (planeAt m.bp[p] i j BpEntry.zero) a o i j)) }, 0#6)
  | .drain p _ _ =>
    if i < wCount c.wa 1 && j < wCount c.wa 0 then
      let v := planeAt m.acc[p] i j 0#32
      let big (x : BitVec 32) : BitVec 32 := BitVec.ofNat 32 (fp32.maxMag [x.toNat, v.toNat]).1
      let m := { m with amr := m.amr.set p (vmod m.amr[p] i big), amc := m.amc.set p (vmod m.amc[p] j big) }
      (m.onCmd c.id fun c => { c with got := c.got ++ [(i, j, v)] }, (fp32.maxMag [v.toNat]).2)
    else (m, 0#6)

/-- A drain clears AMR and AMC of its plane in its start cycle, R204: after the effects of that cycle that earlier-issued drains have on them (R56). -/
def Matrix.clearAmax (m : Matrix) (now : Nat) (c : MCmd) : Matrix :=
  match c.op with
  | .drain p _ _ => if now == c.start then { m with amr := m.amr.set p (Vector.replicate 64 0#32), amc := m.amc.set p (Vector.replicate 64 0#32) } else m
  | _ => m

/-- The wave of one class of commands in a cycle. -/
def Matrix.waveClass (m : Matrix) (now k : Nat) : Matrix × Flags :=
  (m.cmds.filter fun c => c.runs now && c.class == k).foldl (fun (m, fl) c =>
    let (o, n) := c.steps
    let m := m.clearAmax now c
    if now < c.start + o then (m, fl)
    else (waveCells (now - c.start - o) n).foldl (fun (m, fl) (i, j, b) =>
      let (m, f) := m.cell c i j b
      (m, fl ||| f)) (m, fl)) (m, 0#6)

/-- Every plane effect of a cycle, in the order of R197. -/
def State.waveMatrix (s : State) (t now : Nat) : State :=
  let m := (s.tile t).mx
  if m.cmds.isEmpty then s
  else
    let (m, fl) := (List.range 4).foldl (fun (m, fl) k => let (m, f) := m.waveClass now k; (m, fl ||| f)) (m, 0#6)
    let m := { m with cmds := m.cmds.filter fun c => !(c.started && c.lastCycle ≤ now) }
    (s.onMx t fun _ => m).flagCtx t false fl

end Sys2Proof.Machine
end

