-- ==== Sys2Proof/Machine/CanopyOps.lean ====
section
/-! DEFINITION. The Canopy's units (R208 to R226): record fields and their checks (R212, R213, R247), what each kind computes, and adjoints
(R236, R237). -/
namespace Sys2Proof.Machine

/-! ### Kinds and records -/

/-- The kinds of R209, by their code. -/
inductive Kind where
  | map | acc | conv | table | mxq | index | split | merge | rep | decay | scan | rand
deriving DecidableEq, Repr

/-- The kind of unit `u`, R208. -/
def kindOf (u : Nat) : Kind :=
  match u % 8, decide (u < 16) with
  | 0, _ => .map
  | 1, _ => .map
  | 2, _ => .acc
  | 3, _ => .conv
  | 4, true => .index
  | 4, false => .table
  | 5, true => .split
  | 5, false => .mxq
  | 6, true => .merge
  | 6, false => .decay
  | _, true => .rep
  | _, false => if u < 24 then .scan else .rand

/-- Code of a kind, R209. -/
def Kind.code : Kind → Nat
  | .map => 0
  | .acc => 1
  | .conv => 2
  | .table => 3
  | .mxq => 4
  | .index => 5
  | .split => 6
  | .merge => 7
  | .rep => 8
  | .decay => 9
  | .scan => 10
  | .rand => 11

/-- Latency of a kind, R209. -/
def Kind.latency : Kind → Nat
  | .map => 4
  | .acc => 2
  | .conv => 3
  | .table => 6
  | .mxq => 34
  | .index => 2
  | .split => 1
  | .merge => 1
  | .rep => 1
  | .decay => 8
  | .scan => 3
  | .rand => 5

/-- Parameter words of a kind, R209. -/
def Kind.params : Kind → Nat
  | .map => 2
  | .acc | .conv | .mxq | .rep => 1
  | .index | .decay | .rand => 4
  | .table | .split | .merge | .scan => 0

/-- The record of unit `u` for context `c`. -/
def Canopy.recOf (cn : Canopy) (u c : Nat) : Wide := vget (vget cn.recs u (Vector.replicate 12 0#512)) c 0#512

/-- en of a record. -/
def rEn (r : Wide) : Bool := fieldOf r 31 31 == 1

/-- op of a record. -/
def rOp (r : Wide) : Nat := fieldOf r 15 8

/-- outmask of a record. -/
def rMask (r : Wide) : BitVec 8 := BitVec.ofNat 8 (fieldOf r 7 0)

/-- The route of input 0 A, 1 B, 2 C or 3 P. -/
def rRoute (r : Wide) (i : Nat) : Nat := fieldOf r (71 + 8 * i) (64 + 8 * i)

/-- Parameter word `k`. -/
def rParam (r : Wide) (k : Nat) : Nat := fieldOf r (159 + 32 * k) (128 + 32 * k)

/-- A record with a run of bits replaced. -/
def setField (r : Wide) (hi lo v : Nat) : Wide := BitVec.ofNat 512 (r.toNat - fieldOf r hi lo * 2 ^ lo + v % 2 ^ (hi + 1 - lo) * 2 ^ lo)

/-- The inputs an op uses, of A, B and C (R213 to R225). -/
def usedInputs (k : Kind) (r : Wide) : List Nat :=
  let op := rOp r
  match k with
  | .map =>
    let fn := op % 64
    if fn == 0 || fn == 7 || fn == 8 then [0] else if fn == 4 || fn == 15 then [0, 1, 2] else [0, 1]
  | .acc | .rep | .scan => [0]
  | .conv => if bits (rParam r 0) 1 0 == 2 then [0, 1] else [0]
  | .table => if op == 1 then [0, 1] else [0]
  | .mxq => if 1 ≤ op && op ≤ 3 && bits (rParam r 0) 1 0 == 2 then [0, 1] else [0]
  | .index => if op == 0 then [] else [0]
  | .split => if op == 1 then [0, 1] else [0]
  | .merge => if op == 0 then [0, 1, 2] else [0, 1]
  | .decay => [0, 1]
  | .rand => []

/-- A route code that names a source, R213. -/
def routeSound (c : Nat) : Bool :=
  c == 0 || c == 1 || c == 2 || (0x08 ≤ c && c ≤ 0x0F) || (0x20 ≤ c && c ≤ 0x3F)
    || (0x40 ≤ c && c ≤ 0x5F && (kindOf (c - 0x40) == .split || kindOf (c - 0x40) == .mxq))

/-- The op and the parameter words of a record are none that its kind reserves (R214 to R225, R247). A REPEAT's P0 beyond the range 1..65,535 of R223 counts
as such, above it too (DEDUCED, log 95). -/
def opSound (k : Kind) (r : Wide) : Bool :=
  let op := rOp r
  let p0 := rParam r 0
  match k with
  | .map => op / 64 != 3 && op % 64 ≤ 18 && !(op % 64 == 7 && op / 64 == 2)
  | .acc => op / 64 != 3 && bits op 4 2 == 0
  | .scan => op / 64 != 3 && bits op 5 1 == 0
  | .conv => op / 16 ≤ 10 && op % 16 ≤ 10 && op / 16 != op % 16 && p0 / 8 == 0 && p0 % 4 != 3
  | .table => op ≤ 1
  | .mxq => op ≤ 6 && p0 / 4 == 0 && !(1 ≤ op && op ≤ 3 && p0 % 4 == 3)
  | .index => op ≤ 2 && (op != 2 || (1 ≤ rParam r 2 && rParam r 2 ≤ 65536))
  | .split | .merge => op ≤ 2
  | .rep => op ≤ 1 && 1 ≤ p0 && p0 ≤ 65535
  | .decay => op == 0 && 1 ≤ bits (rParam r 1) 15 0 && bits (rParam r 1) 15 0 ≤ 12288
  | .rand => op == 0

/-- The checks of R247 on a record at landing. -/
def recordSound (u : Nat) (r : Wide) : Bool :=
  let k := kindOf u
  let used := usedInputs k r
  !rEn r
    || (fieldOf r 27 24 == k.code && opSound k r
        && (List.range 3).all (fun i => routeSound (rRoute r i) && used.contains i == (rRoute r i != 0))
        && (rRoute r 3 == 0 || (k == .index && 0x08 ≤ rRoute r 3 && rRoute r 3 ≤ 0x0F))
        && (List.range 12).all (fun j => j < k.params || rParam r j == 0))

/-! ### Lanes -/

/-- A word with the same value in every lane, all active (R213). -/
def Lanes.const (v : Nat) : Lanes := ⟨packLanes (List.replicate 16 v), 0xFFFF#16⟩

/-- The first `n` lanes active. -/
def firstLanes (n : Nat) : BitVec 16 := BitVec.ofNat 16 (2 ^ min n 16 - 1)

/-- The active lanes of a firing: the first sixteen of the elements its segment has left (R230). -/
def Firing.lanes (f : Firing) : BitVec 16 := firstLanes f.left

/-- A result lane by lane over the lanes active in `act`; the others are zero (R210, R226). -/
def laneMap (act : BitVec 16) (f : Nat → Nat × Flags) : Lanes × Flags :=
  let rs := (List.range 16).map fun i => if act.getLsbD i then f i else (0, 0#6)
  (⟨packLanes (rs.map (·.1)), act⟩, rs.foldl (fun fl r => fl ||| r.2) 0#6)

/-- The values of a word's active lanes. -/
def Lanes.active (w : Lanes) : List Nat := ((List.range 16).filter w.act.getLsbD).map (lane w.val)

/-- The lane type of MAP, ACC and SCAN: bits 7:6 of op (R214). -/
def opType (op : Nat) : LaneT := match op / 64 with
  | 0 => .f32
  | 1 => .s32
  | _ => .z32

/-- One lane of a MAP, R214. -/
def mapLane (op a b c : Nat) : Nat × Flags :=
  let t := opType op
  let yes (r : Bool × Flags) : Nat × Flags := (if r.1 then 1 else 0, r.2)
  match op % 64 with
  | 0 => (a, 0#6)
  | 1 => elemAdd t a b
  | 2 => elemSub t a b
  | 3 => elemMul t a b
  | 4 => elemFma t a b c
  | 5 => elemPick true t a b
  | 6 => elemPick false t a b
  | 7 => elemAbs t a
  | 8 => elemNeg t a
  | 9 => (a &&& b, 0#6)
  | 10 => (a ||| b, 0#6)
  | 11 => (a ^^^ b, 0#6)
  | 12 => (a * 2 ^ (b % 32) % 2 ^ 32, 0#6)
  | 13 => (a / 2 ^ (b % 32), 0#6)
  | 14 => (narrow 32 (sx 32 a / (2 ^ (b % 32) : Nat)), 0#6)
  | 15 => (if c != 0 then a else b, 0#6)
  | 16 => yes (elemCompare t .eq a b)
  | 17 => yes (elemCompare t .lt a b)
  | _ => yes (elemCompare t .le a b)

/-- A reduction of ACC or SCAN: 0 sum, 1 max, 2 min (R215, R216). -/
def reduceFn (t : LaneT) (fn : Nat) (es : List Nat) : Nat × Flags :=
  let (v, fl) := if fn == 0 then reduceAdd t es else reducePick (fn == 2) t es
  (narrow 32 v, fl)

/-- The value a part of a reduction has for one lane, or for all. -/
def Past.part (p : Past) (i : Nat) : Part := p.parts.getD i ⟨[], []⟩

/-- A reduction that goes on from a part: as one over all of its elements. -/
def reducePast (t : LaneT) (fn : Nat) (p : Part) (es : List Nat) : Nat × Flags :=
  match fn, laneFmt t with
  | 0, some f => let (c, fl) := f.round .rne false 0 (sumExact (p.terms ++ es.map f.val)); (packLane t [c], fl)
  | _, _ => reduceFn t fn (p.codes ++ es)

/-- The floating-point format of a CONV type, R217. -/
def convFmt : Nat → Option FFmt
  | 0 => some fp32
  | 1 => some bf16
  | 2 => some fp16
  | 3 => some e4m3
  | 4 => some e5m2
  | 5 => some e2m1
  | _ => none

/-- Width and signedness of an integer CONV type, R217. -/
def convInt : Nat → Nat × Bool
  | 6 => (32, true)
  | 7 => (32, false)
  | 8 => (16, true)
  | 9 => (8, true)
  | _ => (8, false)

/-- rm of a parameter word. -/
def rmOf (p : Nat) : Rm := match p % 4 with
  | 1 => .rz
  | 2 => .sr
  | _ => .rne

/-- One lane of a CONV, R217 under R33 to R35. -/
def convLane (op p0 rw a : Nat) : Nat × Flags :=
  let rm := rmOf p0
  let sat := bits p0 2 2 == 1
  let dst := op % 16
  let out (r : Int × Flags) : Nat × Flags := (narrow (convInt dst).1 r.1, r.2)
  match convFmt (op / 16), convFmt dst with
  | some f, some g => f.convert g rm sat rw (a % 2 ^ (1 + f.ebits + f.mbits))
  | some f, none =>
    let (lo, hi) := intRange (convInt dst).1 (convInt dst).2
    out (roundInt rm rw lo hi (f.val (a % 2 ^ (1 + f.ebits + f.mbits))))
  | none, d =>
    let (w, signed) := convInt (op / 16)
    let i : Int := if signed then sx w a else (a % 2 ^ w : Nat)
    match d with
    | some g => g.round rm sat rw (.ofInt i 0)
    | none => intConvert w (convInt dst).1 (convInt dst).2 sat i

/-- A 32-bit word of a table image at a byte offset, R244. -/
def tabWord (t : Vector Wide 13) (o : Nat) : Nat := lane (vget t (o / 64) 0#512) (o % 64 / 4)

/-- The parameters of a table image. -/
def tabParams (t : Vector Wide 13) : TableParams := ⟨tabWord t 0, tabWord t 4, tabWord t 8, tabWord t 20 % 4, tabWord t 12, tabWord t 16⟩

/-- The coefficients of an interval. -/
def tabCoef (t : Vector Wide 13) (i : Nat) : Nat × Nat × Nat := (tabWord t (64 + 12 * i), tabWord t (68 + 12 * i), tabWord t (72 + 12 * i))

/-- The reserved bytes of a table image are zero and its hi_mode is none reserved (R244). -/
def tabSound (t : Vector Wide 13) : Bool := tabWord t 20 < 3 && (List.range 10).all fun i => tabWord t (24 + 4 * i) == 0

/-- The derivative times B, R218. -/
def tableSlope (p : TableParams) (coef : Nat → Nat × Nat × Nat) (x b : Nat) : Nat × Flags :=
  let xv := fp32.val x
  if xv.isNan then (fp32.canon, flagIf xv.isSnan flNV)
  else
    let (d, f1) := fp32.sub x p.lo
    let (s, f2) := fp32.mul d p.invStep
    let sv := fp32.val s
    let fl := f1 ||| f2
    if sv.isNan then (fp32.canon, fl)
    else if sv.ltv (.num false 0 0) then (0, fl)
    else if !sv.ltv (.num false 64 0) then
      match p.hiMode with
      | 0 => (0, fl)
      | 1 => (b, fl)
      | _ => let (y, f) := fp32.mul b p.hiSlope; (y, fl ||| f)
    else
      let idx := (roundInt .rz 0 0 63 sv).1.toNat
      let t := sv.add (.num true idx 0)
      let (_, c1, c2) := coef idx
      let (d, f3) := rne32 (t.fma ((fp32.val c2).scale 1) (fp32.val c1))
      let (e, f4) := fp32.mul d p.invStep
      let (y, f5) := fp32.mul e b
      (y, fl ||| f3 ||| f4 ||| f5)

/-! ### What a unit does in a firing -/

/-- What a unit reads: its record `r`, its inputs and what its tile gives it. -/
structure UnitIn where
  kind : Kind
  unit : Nat
  r : Wide
  a : Lanes
  b : Lanes
  c : Lanes
  /-- Whether A brings a word: false at a firing at which a gated port is not consumed. -/
  taken : Bool
  /-- The low 16 bits of the kernel's step view. -/
  step : Nat
  tab : Vector Wide 13
deriving DecidableEq, Repr

/-- What comes of a read: carried state, outputs, flags and a fault (R233). -/
structure UnitOut where
  st : UState
  o0 : Lanes
  o1 : Lanes
  flags : Flags
  fault : Option Cause
deriving DecidableEq, Repr

/-- A result on output 0. -/
def UnitOut.one (st : UState) (r : Lanes × Flags) : UnitOut := ⟨st, r.1, Lanes.none, r.2, none⟩

/-- An element in lane 0 alone. -/
def lane0 (v : Nat) : Lanes := ⟨BitVec.ofNat 512 (v % 2 ^ 32), 1#16⟩

/-- ACC, R215 and R231. -/
def accUnit (x : UnitIn) (f : Firing) (st : UState) : UnitOut :=
  let op := rOp x.r
  let lanewise := bits op 5 5 == 1
  let fn := op % 4
  if fn == 3 then
    let w := if f.first then x.a else st.word
    let v := if lanewise then w.val else packLanes (List.replicate 16 (lane w.val 0))
    .one { st with word := w } (laneMap f.lanes fun i => (lane v i, 0#6))
  else
    let hist := (if f.first then [] else st.hist) ++ [(f.m, x.a, x.b)]
    let past := if f.first then Past.none else st.past
    let st := { st with hist := hist, past := past }
    if !f.last then .one st (Lanes.none, 0#6)
    else if lanewise then
      .one st (laneMap (firstLanes f.len) fun i =>
        reducePast (opType op) fn (past.part i) ((hist.filter fun h => h.2.1.act.getLsbD i).map fun h => lane h.2.1.val i))
    else
      let (v, fl) := reducePast (opType op) fn (past.part 0) (hist.flatMap fun h => h.2.1.active)
      .one st (lane0 v, fl)

/-- SCAN, R216. -/
def scanUnit (x : UnitIn) (f : Firing) (st : UState) : UnitOut :=
  let op := rOp x.r
  let before := if f.first then [] else st.hist
  let past := if f.first then Past.none else st.past
  let prev := before.flatMap fun h => h.2.1.active
  let upTo (i : Nat) : List Nat := ({ x.a with act := x.a.act &&& firstLanes (i + 1) } : Lanes).active
  .one { st with hist := before ++ [(f.m, x.a, x.b)], past := past } (laneMap x.a.act fun i => reducePast (opType op) (op % 2) (past.part 0) (prev ++ upTo i))

/-- REPEAT, R223. -/
def repUnit (x : UnitIn) (f : Firing) (st : UState) : UnitOut :=
  let r := rParam x.r 0
  if rOp x.r == 0 then
    let take := x.taken && (f.first || st.cnt == 0 || 0x08 ≤ rRoute x.r 0 && rRoute x.r 0 ≤ 0x0F)
    let w := if take then x.a else st.word
    ⟨{ st with word := w, cnt := (if take then r else st.cnt) - 1 }, w, Lanes.none, 0#6, none⟩
  else
    let hist := (if f.first then [] else st.hist) ++ [(f.m, x.a, x.b)]
    let past := if f.first then Past.none else st.past
    if past.n + hist.length < r && !f.last then .one { st with hist := hist, past := past } (Lanes.none, 0#6)
    else
      let act := hist.foldl (fun m h => m ||| h.2.1.act) past.act
      .one { st with hist := [], past := Past.none } (laneMap act fun i => reducePast .f32 0 (past.part i) ((hist.filter fun h => h.2.1.act.getLsbD i).map fun h => lane h.2.1.val i))

/-- INDEX, R220 and R221. -/
def indexUnit (x : UnitIn) (f : Firing) (st : UState) : UnitOut :=
  let (b, e, ok) := ((f.live.find? (·.1 == x.unit)).elim (0#32, 0#32, true) (·.2))
  let d := rParam x.r 2
  let out (far : Bool) (r : Lanes × Flags) : UnitOut :=
    ⟨st, r.1, Lanes.none, r.2, if !ok then some .canopyConfig else if far then some .coordRange else none⟩
  let beyond := e != 0#32 && x.a.active.any (e.toNat ≤ ·)
  match rOp x.r with
  | 0 => out false (laneMap f.lanes fun i => ((b.toNat + (f.len - f.left + i) * d) % 2 ^ 32, 0#6))
  | 1 => out beyond (laneMap x.a.act fun i => ((b.toNat + lane x.a.val i * d) % 2 ^ 32, 0#6))
  | _ =>
    let v (a : Nat) : Nat := a + b.toNat
    out (beyond || x.a.active.any fun a => 65536 ≤ v a / d)
      (laneMap x.a.act fun i => (v (lane x.a.val i) / d * 65536 % 2 ^ 32 + v (lane x.a.val i) % d, 0#6))

/-- SPLIT, R222. Of halves the lanes 8..15 of both outputs are inactive (DESIGN CHOICE, log 93). -/
def splitUnit (x : UnitIn) (st : UState) : UnitOut :=
  let act := x.a.act &&& x.b.act
  let sel (p : Bool) : Lanes := (laneMap act fun i => (if (lane x.b.val i != 0) == p then lane x.a.val i else 0, 0#6)).1
  match rOp x.r with
  | 0 => ⟨st, x.a, x.a, 0#6, none⟩
  | 1 => ⟨st, sel true, sel false, 0#6, none⟩
  | _ => ⟨st, (laneMap (x.a.act &&& 0x00FF#16) fun i => (lane x.a.val i, 0#6)).1,
      (laneMap (x.a.act >>> 8) fun i => (lane x.a.val (i + 8), 0#6)).1, 0#6, none⟩

/-- MERGE, R222. -/
def mergeUnit (x : UnitIn) (st : UState) : UnitOut :=
  match rOp x.r with
  | 0 => .one st (laneMap (x.a.act &&& x.b.act &&& x.c.act) fun i => (if lane x.c.val i != 0 then lane x.a.val i else lane x.b.val i, 0#6))
  | 1 => .one st (laneMap (x.a.act &&& x.b.act) fun i => fp32.add (lane x.a.val i) (lane x.b.val i))
  | _ => .one st (laneMap ((x.a.act &&& 0x00FF#16) ||| (x.b.act <<< 8)) fun i =>
      (if i < 8 then lane x.a.val i else lane x.b.val (i - 8), 0#6))

/-- DECAY, R224. -/
def decayLane (r : Wide) (step a b : Nat) : Nat × Flags :=
  let s := if rParam r 2 % 2 == 0 then step else bits (rParam r 3) 15 0
  decayed (rParam r 0) (bits (rParam r 1) 15 0) a (narrow 16 ((s : Int) - (b % 2 ^ 16 : Nat)))

/-- A unit reads its inputs and gives its outputs (all kinds but MXQ, which first only notes what it reads). RAND has no input: every lane of its word holds
G(k, c) (R225), and those of the elements its segment has left are active (DESIGN CHOICE, log 93). -/
def UnitIn.eval (x : UnitIn) (f : Firing) (st : UState) : UnitOut :=
  let r := x.r
  let op := rOp r
  let ab := x.a.act &&& x.b.act
  match x.kind with
  | .map =>
    let u := usedInputs .map r
    let act := x.a.act &&& (if u.contains 1 then x.b.act else 0xFFFF#16) &&& (if u.contains 2 then x.c.act else 0xFFFF#16)
    .one st (laneMap act fun i => mapLane op (lane x.a.val i) (lane x.b.val i) (lane x.c.val i))
  | .acc => accUnit x f st
  | .conv => .one st (laneMap x.a.act fun i => convLane op (rParam r 0) (lane x.b.val i) (lane x.a.val i))
  | .table =>
    if op == 0 then .one st (laneMap x.a.act fun i => tableEval (tabParams x.tab) (tabCoef x.tab) (lane x.a.val i))
    else .one st (laneMap ab fun i => tableSlope (tabParams x.tab) (tabCoef x.tab) (lane x.a.val i) (lane x.b.val i))
  | .mxq => ⟨{ st with hist := (st.hist ++ [(f.m, x.a, x.b)]).drop (st.hist.length - 39) }, Lanes.none, Lanes.none, 0#6, none⟩
  | .index => indexUnit x f st
  | .split => splitUnit x st
  | .merge => mergeUnit x st
  | .rep => repUnit x f st
  | .decay => .one st (laneMap ab fun i => decayLane r x.step (lane x.a.val i) (lane x.b.val i))
  | .scan => scanUnit x f st
  | .rand =>
    let v := (List.range 16).map fun i => counterGen (rParam r 1 * 2 ^ 32 + rParam r 0) ((rParam r 3 * 2 ^ 32 + rParam r 2 + 16 * f.m + i) % 2 ^ 64)
    .one st (⟨packLanes v, f.lanes⟩, 0#6)

/-- The format of an MXQ op, R219. -/
def mxqFmt : Nat → Option BFmt
  | 0 => some .mxint8
  | 1 => some .mxfp8e4
  | 2 => some .mxfp8e5
  | 3 => some .mxfp4
  | 4 => some .fk8
  | 5 => some .fk4
  | _ => none

/-- The sixteen values of a word, inactive lanes as zeros. -/
def Lanes.values (w : Lanes) : List Nat := (List.range 16).map fun i => if w.act.getLsbD i then lane w.val i else 0

/-- MXQ's outputs for one word of a block: `other` holds the values of the block's other word, `second` whether this word is the later
one, `closes` whether the block ends with it (R219). The flags are those of this word's own elements (R226). -/
def mxqOut (r : Wide) (w rnd : Lanes) (other : List Nat) (second closes : Bool) : Lanes × Lanes × Flags :=
  let own := w.values
  let xs := if second then other ++ own else own ++ other
  match mxqFmt (rOp r) with
  | none => (Lanes.none, if closes then lane0 (fp32.maxMag xs).1 else Lanes.none, (fp32.maxMag own).2)
  | some f =>
    let zeros := List.replicate 16 0
    let rnd := (List.range 16).map (lane rnd.val)
    let rws := if second then zeros ++ rnd else rnd
    let (es, ss) := f.quantiseEach (rmOf (rParam r 0)) rws xs
    let es := if second then es.drop 16 else es.take 16
    let (codes, fl) := laneMap w.act fun i => es.getD i (0, 0#6)
    (codes, if closes then lane0 (ss.getD 0 0 + 256 * ss.getD 1 0) else Lanes.none, fl)

/-! ### Adjoints (R236, R237) -/

/-- The through inputs of a kind. -/
def throughInputs : Kind → List Nat
  | .merge => [0, 1]
  | .index | .rand => []
  | _ => [0]

/-- A vertex of the gradient graph: an output of a unit (false 0, true 1), or an in port. -/
inductive GSrc where
  | out (u : Nat) (o : Bool)
  | port (k : Nat)
deriving DecidableEq, Repr

/-- What a route code names as a vertex; an INDEX is none. -/
def routeSrc (c : Nat) : Option GSrc :=
  if 0x08 ≤ c && c ≤ 0x0F then some (.port (c - 0x08))
  else if 0x20 ≤ c && c ≤ 0x3F then (if kindOf (c - 0x20) == .index then none else some (.out (c - 0x20) false))
  else if 0x40 ≤ c && c ≤ 0x5F then some (.out (c - 0x40) true)
  else none

/-- The edges into units: source, unit and through input. -/
def graphIn (fs : List (Nat × Wide)) : List (GSrc × Nat × Nat) :=
  fs.flatMap fun (u, r) => (throughInputs (kindOf u)).filterMap fun i => (routeSrc (rRoute r i)).map fun s => (s, u, i)

/-- The edges to out ports: unit and port. -/
def graphOut (fs : List (Nat × Wide)) : List (Nat × Nat) :=
  fs.flatMap fun (u, r) => if throughInputs (kindOf u) == [] then [] else ((List.range 8).filter (rMask r).getLsbD).map fun k => (u, k)

/-- The unit that carries a unit's backward op: SPLIT and MERGE exchange units within their row. -/
def backUnit (u : Nat) : Nat := match kindOf u with
  | .split => u + 1
  | .merge => u - 1
  | _ => u

/-- The backward op of R237; none where there is no template. -/
def backOp (k : Kind) (op : Nat) : Option Nat :=
  match k with
  | .map => match op % 64 with
    | 0 | 1 | 2 => some (op / 64 * 64)
    | 3 | 4 => some (op / 64 * 64 + 3)
    | fn => if fn == 8 then some op else none
  | .acc => match op % 4 with
    | 0 => some (op + 3)
    | 3 => some (op - 3)
    | _ => none
  | .scan => if op % 2 == 0 then some op else none
  | .conv => some (op % 16 * 16 + op / 16)
  | .table => if op == 0 then some 1 else none
  | .split => some ([1, 0, 2].getD op 0)
  | .merge => some ([1, 0, 2].getD op 0)
  | .rep => some (1 - op)
  | .decay => some op
  | _ => none

/-- The route code of a backward output: of input `i` of unit `u`. -/
def backRoute (u i : Nat) : Nat := (if kindOf u == .merge && i == 1 then 0x40 else 0x20) + backUnit u

/-- The derived record of a unit on the graph: where its gradients come from and go (R236 steps 2 to 4). -/
def derive (ins : List (GSrc × Nat × Nat)) (outs : List (Nat × Nat)) (u : Nat) (r : Wide) (op : Nat) : Wide :=
  let k := kindOf u
  let bu := backUnit u
  -- the source of the gradient of output `o`: the unit its forward edge led to, or an out port
  let grad (o : Bool) : Nat :=
    match ins.find? fun e => e.1 == .out u o with
    | some (_, v, i) => backRoute v i
    | none => if o then 0 else (outs.find? (·.1 == u)).elim 0 fun p => 0x08 + p.2
  let mask := (ins.filter (·.2.1 == u)).foldl (fun m e => match e.1 with
    | .port j => m ||| 2 ^ j
    | _ => m) 0
  let (a, b, c) := match k with
    | .split => (grad false, grad true, if rOp r == 1 then rRoute r 1 else 0)
    | .merge => (grad false, if rOp r == 0 then rRoute r 2 else 0, 0)
    | .table => (rRoute r 0, grad false, 0)
    | _ => (grad false, rRoute r 1, rRoute r 2)
  let n := setField r 15 8 op
  let n := setField (setField n 7 0 mask) 27 24 (kindOf bu).code
  let n := if k == .conv then setField n 159 128 (rParam r 0 / 4 % 2 * 4) else n
  let n := setField (setField (setField n 71 64 a) 79 72 b) 87 80 c
  let used := usedInputs (kindOf bu) n
  let n := if used.contains 1 then n else setField n 79 72 0
  if used.contains 2 then n else setField n 87 80 0

/-- The backward records of the rows' units for the forward records `fs` (the enabled ones), or none: ADJOINT_UNAVAILABLE (R236). The derived records
stand first: where a SPLIT on the graph and a MERGE of its row off the graph, or the other way round, both give a record for one unit, the list holds both. -/
def adjoint (fs : List (Nat × Wide)) : Option (List (Nat × Wide)) :=
  let ins := graphIn fs
  let outs := graphOut fs
  let onGraph (u : Nat) : Bool :=
    throughInputs (kindOf u) != [] && (ins.any (fun e => e.2.1 == u || e.1 == .out u false || e.1 == .out u true) || outs.any (·.1 == u))
  let srcs := ins.map (·.1) ++ outs.map fun e => GSrc.out e.1 false
  let bad := (fs.any fun (u, _) => kindOf u == .rand || kindOf u == .mxq)
    || (fs.any fun (u, r) => onGraph u && (backOp (kindOf u) (rOp r)).isNone)
    || (srcs.any fun x => 1 < (srcs.filter (· == x)).length)
    || (fs.any fun (u, r) => kindOf u == .table && !(0x08 ≤ rRoute r 0 && rRoute r 0 ≤ 0x0F))
    || (fs.any fun (u, r) => (List.range 3).any fun i => !(throughInputs (kindOf u)).contains i && (match routeSrc (rRoute r i) with
        | some (.out v _) => onGraph v
        | _ => false))
  if bad then none
  else some (((fs.filter fun x => onGraph x.1).map fun (u, r) => (backUnit u, derive ins outs u r ((backOp (kindOf u) (rOp r)).getD 0)))
    ++ fs.filter fun x => !onGraph x.1)

end Sys2Proof.Machine
end

