-- ==== Sys2Proof/Machine/CanopyRun.lean ====
section
/-! DEFINITION. Whorls and the Canopy's instructions (R227 to R235, R238 to R247): configuration commands, arming, firing, the pipeline,
disarming and cdrain. -/
namespace Sys2Proof.Machine

/-- Changes the Canopy of a tile. -/
def State.onCn (s : State) (t : Nat) (f : Canopy → Canopy) : State := s.onTile t fun x => { x with cn := f x.cn }

/-- Whether a Canopy context belongs to a hardware context: c11 to the urgent one (R234). -/
def ctxFits (u : Bool) (c : Fin 12) : Bool := (c == 11) == u

/-- Rows of a row set, ascending. -/
def rowsOf (rows : BitVec 4) : List Nat := (List.range 4).filter rows.getLsbD

/-- Units of a row set, ascending. -/
def unitsIn (rows : BitVec 4) : List Nat := (rowsOf rows).flatMap fun r => (List.range 8).map fun i => 8 * r + i

/-- The enabled records of a context in a row set. -/
def Canopy.enabled (cn : Canopy) (c : Nat) (rows : BitVec 4) : List (Nat × Wide) :=
  (unitsIn rows).filterMap fun u => if rEn (cn.recOf u c) then some (u, cn.recOf u c) else none

/-- Whether a context is armed in any row of a set. -/
def Canopy.armedIn (cn : Canopy) (c : Fin 12) (rows : BitVec 4) : Bool := cn.whorls.any fun w => w.ctx == c && w.rows &&& rows != 0#4

/-- The configuration command of a hardware context. -/
def Canopy.port (cn : Canopy) (u : Bool) : Option CfgCmd := cn.cfg[if u then (1 : Fin 2) else 0]

/-- Sets the configuration command of a hardware context. -/
def Canopy.setPort (cn : Canopy) (u : Bool) (c : Option CfgCmd) : Canopy := if u then { cn with cfg := cn.cfg.set 1 c } else { cn with cfg := cn.cfg.set 0 c }

/-! ### Configuration commands (R238 to R240, R242 to R244) -/

/-- The Canopy of the issuing tile. -/
def State.myCn (s : State) : Canopy := (s.tile s.cur.tile).cn

/-- Starts a configuration command of the issuing slot: SLOT_REUSE while the port is busy. -/
def State.configure (s : State) (kind : CfgKind) (c : Fin 12) (rows : BitVec 4) (base : Nat) (recs : List Wide) : Out' :=
  if (s.myCn.port s.cur.urgent).isSome then (s.trap .slotReuse 0#64).done
  else
    let x : CfgCmd := ⟨s.me.flow.ord, s.cur.pc, s.cur.slot, s.clock, kind, c, rows, base, recs, none⟩
    (s.onCn s.cur.tile fun n => n.setPort s.cur.urgent (some x)).done

/-- The image of `n` bank words at x[a]: its base, or the fault of R238 (log 23). -/
def State.imageBase (s : State) (a : Fin 64) (n : Nat) : Except (Cause × Word) Nat :=
  match s.wordTarget a 0 with
  | .error e => .error e
  | .ok off => if partHi s.cur.urgent < off + 64 * n then .error (.permission, s.x a) else .ok off

/-- Bank words of an image of a row set, R239. -/
def imageWords (rows : BitVec 4) : Nat := 8 * (rowsOf rows).length

/-- cld, R239. -/
def execCld (c : Fin 12) (rows : BitVec 4) (a : Fin 64) (s : State) : Out' :=
  s.notInHandler <|
    if !ctxFits s.cur.urgent c then (s.trap .canopyConfig 0#64).done
    else match s.imageBase a (imageWords rows) with
      | .error (f, p) => (s.trap f p).done
      | .ok off =>
        if s.myCn.armedIn c rows then (s.trap .canopyConfig 0#64).done else s.configure .cld c rows off []

/-- cst, R239: records as they stand at issue. -/
def execCst (c : Fin 12) (rows : BitVec 4) (a : Fin 64) (s : State) : Out' :=
  s.notInHandler <|
    if !ctxFits s.cur.urgent c then (s.trap .canopyConfig 0#64).done
    else match s.imageBase a (imageWords rows) with
      | .error (f, p) => (s.trap f p).done
      | .ok off => s.configure .cst c rows off ((unitsIn rows).map fun u => s.myCn.recOf u c)

/-- cctx, R240. -/
def execCctx (r : Fin 4) (a : Fin 64) (s : State) : Out' :=
  s.notInHandler
    (let m := BitVec.ofNat 12 (bits (s.x a).toNat 11 0)
     let several := s.myCn.whorls.any fun w => w.rows.getLsbD r && 1 < (rowsOf w.rows).length
       && (rowsOf w.rows).any fun q => vget s.myCn.mask q 0#12 != m
     if s.cur.urgent || m.getLsbD 11 || several then (s.trap .canopyConfig 0#64).done
     else (s.act 1 (.cctx r (s.x a))).done)

/-- Whether a unit takes part in an armed whorl of a context. -/
def Canopy.unitArmed (cn : Canopy) (u : Nat) (c : Fin 12) : Bool := rEn (cn.recOf u c) && cn.armedIn c (BitVec.ofNat 4 (2 ^ (u / 8)))

/-- cparam, R242 and R224. -/
def execCparam (u : Fin 32) (c : Fin 12) (a : Fin 64) (p : Fin 12) (s : State) : Out' :=
  s.notInHandler
    (let v := bits (s.x a).toNat 31 0
     let kind := kindOf u
     let decay := kind == .decay && s.myCn.unitArmed u c
     if !ctxFits s.cur.urgent c || kind.params ≤ p.val || (decay && p.val ≤ 1) then (s.trap .canopyConfig 0#64).done
     else if decay && p == 2 && v % 2 == 0 && !s.stepDependent then (s.trap .ringUndeclared 0#64).done
     else if !recordSound u (setField (s.myCn.recOf u c) (159 + 32 * p) (128 + 32 * p) v) then (s.trap .canopyConfig 0#64).done
     else (s.act 1 (.cparam u c p (BitVec.ofNat 32 v))).done)

/-- cadj, R243. Of two records for one unit the first is written: the one derived from a unit on the graph, and not the copy of one off it (DESIGN CHOICE,
log 95). -/
def execCadj (f b : Fin 12) (rows : BitVec 4) (s : State) : Out' :=
  s.notInHandler
    (if !ctxFits s.cur.urgent f || !ctxFits s.cur.urgent b || f == b || s.myCn.armedIn b rows then (s.trap .canopyConfig 0#64).done
     else match adjoint (s.myCn.enabled f rows) with
       | none => (s.trap .adjointUnavailable 0#64).done
       | some rs => s.configure .cadj b rows 0 ((unitsIn rows).map fun u => (rs.find? (·.1 == u)).elim 0#512 (·.2)))

/-- ctab, R244. -/
def execCtab (u : Fin 32) (a : Fin 64) (s : State) : Out' :=
  s.notInHandler <|
    let used := s.myCn.whorls.any fun w => (w.ctx == 11) == s.cur.urgent && w.rows.getLsbD (u.val / 8) && rEn (s.myCn.recOf u w.ctx)
    if kindOf u != .table || used then (s.trap .canopyConfig 0#64).done
    else match s.imageBase a 13 with
      | .error (f, p) => (s.trap f p).done
      | .ok off => s.configure (.ctab u) 0 0#4 off []

/-- cwhorl, R241. -/
def execCwhorl (c : Fin 12) (rows : BitVec 4) (k d : Fin 64) (s : State) : Out' :=
  s.notInHandler
    (if !ctxFits s.cur.urgent c then (s.trap .canopyConfig 0#64).done
     else
       let (id, s) := s.fresh
       let x : WCmd := ⟨id, s.me.flow.ord, s.cur.pc, s.cur.slot, s.clock + d.val, k, c, rows⟩
       (s.onCn s.cur.tile fun n => { n with cmds := n.cmds ++ [x] }).done)

/-- cdrain, R245: its condition is judged from the next cycle on. -/
def execCdrain (rows : BitVec 4) (k : Fin 64) (s : State) : Out' :=
  s.notInHandler
    (let (id, s) := s.fresh
     let x : DrainReq := ⟨id, s.cur.urgent, rows, k, s.clock⟩
     (s.onCn s.cur.tile fun n => { n with drains := n.drains ++ [x] }).done)

/-- The bank words a configuration command moves, R239 and R244. -/
def CfgCmd.words (c : CfgCmd) : Nat :=
  match c.kind with
  | .cld | .cst => imageWords c.rows
  | .cadj => 0
  | .ctab _ => 13

/-- The last cycle the port is busy with a command. -/
def CfgCmd.end' (c : CfgCmd) : Nat :=
  match c.kind with
  | .cld => c.iss + imageWords c.rows + 1
  | .cst => c.iss + imageWords c.rows
  | .cadj => c.iss + 8
  | .ctab _ => c.iss + 14

/-- The word a command moves in a cycle. -/
def CfgCmd.wordAt (c : CfgCmd) (now : Nat) : Option Nat :=
  if c.iss < now && now ≤ c.iss + c.words && c.cut.isNone then some (now - c.iss - 1) else none

/-- The access of a hardware context's configuration command in this cycle. -/
def State.configTouches (s : State) (t : Nat) (u : Bool) (now : Nat) : List Touch :=
  match (s.tile t).cn.port u with
  | none => []
  | some c => match c.wordAt now with
    | none => []
    | some j => let o := c.base + 64 * j; [⟨spadSpan t o 64, .alone, t, u, .config, c.ord, c.pc, c.slot⟩]

/-- A collision takes from a configuration command what it has scheduled from this cycle on (R63). -/
def State.cutConfig (s : State) (t : Nat) (u : Bool) (now : Nat) : State :=
  s.onCn t fun n => n.setPort u ((n.port u).map fun c => { c with cut := some now })

/-- The write or read of a configuration command in this cycle; the port is left once its last cycle has passed. -/
def State.configMove (s : State) (t : Nat) (u : Bool) (now : Nat) : State :=
  match (s.tile t).cn.port u with
  | none => s
  | some c =>
    let s := match c.wordAt now with
      | none => s
      | some j =>
        let o := c.base + 64 * j
        match c.kind with
        | .cst => s.writeLoc (.spad t o) (leBytes 64 (c.recs.getD j 0#512).toNat)
        | _ => if s.badWord (.spad t (o / 64)) then (s.spoilCore t u).onCn t fun n => n.setPort u (some { c with cut := some now })
          else s.onCn t fun n => n.setPort u (some { c with recs := c.recs ++ [BitVec.ofNat 512 (leNat (s.readLoc (.spad t o) 64))] })
    if c.end' ≤ now then s.onCn t fun n => n.setPort u none else s

/-- Writes records of a context. -/
def Canopy.putRecs (cn : Canopy) (c : Fin 12) (l : List (Nat × Wide)) : Canopy :=
  { cn with recs := l.foldl (fun rs (u, r) => vmod rs u fun v => v.set c r) cn.recs }

/-- The table of a TABLE unit of a hardware context: its place in `tabs`. -/
def tabPlace (u : Nat) (urgent : Bool) : Nat := (if u < 24 then 0 else 2) + (if urgent then 1 else 0)

/-- A configuration command takes effect, R239, R243, R244. -/
def State.landConfig (s : State) (t : Nat) (u : Bool) (now : Nat) : State :=
  match (s.tile t).cn.port u with
  | none => s
  | some c =>
    if c.end' != now || c.cut.isSome then s
    else
      let l := (unitsIn c.rows).zip c.recs
      match c.kind with
      | .cst => s
      | .cld => if l.all fun (i, r) => recordSound i r then s.onCn t fun n => n.putRecs c.ctx l else s.raise t u .canopyConfig 0#64 c.pc c.slot
      | .cadj => s.onCn t fun n => n.putRecs c.ctx l
      | .ctab i =>
        let tab : Vector Wide 13 := Vector.ofFn fun j => c.recs.getD j 0#512
        if tabSound tab then s.onCn t fun n => { n with tabs := vset n.tabs (tabPlace i u) tab }
        else s.raise t u .canopyConfig 0#64 c.pc c.slot

/-- cctx and cparam take effect, R240 and R242. -/
def State.landParam (s : State) (t : Nat) (a : Act) : State :=
  match a.kind with
  | .cctx r v => s.onCn t fun n => { n with mask := n.mask.set r (BitVec.ofNat 12 (bits v.toNat 11 0)) }
  | .cparam u c p v => s.onCn t fun n => n.putRecs c [(u.val, setField (n.recOf u c) (159 + 32 * p.val) (128 + 32 * p.val) v.toNat)]
  | _ => s

/-- Everything of the Canopy's configuration that takes effect in this cycle, in issue order (R242). -/
def State.landCanopy (s : State) (t : Nat) (u : Bool) : State :=
  let now := s.now t u
  let as := (s.tctx t u).acts.filter (·.due == now)
  let ord := ((s.tile t).cn.port u).elim 0 (·.ord)
  let s := (as.filter fun a => a.ord < ord).foldl (fun s a => s.landParam t a) s
  let s := s.landConfig t u now
  (as.filter fun a => ord ≤ a.ord).foldl (fun s a => s.landParam t a) s

/-! ### Arming (R228, R230, R231, R241, R247) -/

/-- The in port of a route code. -/
def inPort (c : Nat) : Option Nat := if 0x08 ≤ c && c ≤ 0x0F then some (c - 0x08) else none

/-- The unit of a route code. -/
def routeUnit (c : Nat) : Option Nat :=
  if 0x20 ≤ c && c ≤ 0x3F then some (c - 0x20) else if 0x40 ≤ c && c ≤ 0x5F then some (c - 0x40) else none

/-- A unit that gates the port its A names: REPEAT of op 0, ACC of function spread (R231). -/
def gates (u : Nat) (r : Wide) : Bool := (kindOf u == .rep && rOp r == 0) || (kindOf u == .acc && rOp r % 4 == 3)

/-- Gated ports with their units. -/
def gatedPorts (us : List (Nat × Wide)) : List (Nat × Nat) :=
  us.filterMap fun (u, r) => if gates u r then (inPort (rRoute r 0)).map fun k => (k, u) else none

/-- Uses of an in port by inputs A, B and C. -/
def portUses (us : List (Nat × Wide)) (k : Nat) : Nat :=
  (us.flatMap fun (_, r) => (List.range 3).filter fun i => inPort (rRoute r i) == some k).length

/-- Ports consumed at every firing, ascending; the first is the lead port (R230). -/
def everyPorts (us : List (Nat × Wide)) : List Nat :=
  (List.range 8).filter fun k => 0 < portUses us k && !(gatedPorts us).any (·.1 == k)

/-- INDEX parameter ports with their units (R221). -/
def paramPorts (us : List (Nat × Wide)) : List (Nat × Nat) := us.filterMap fun (u, r) => (inPort (rRoute r 3)).map fun k => (k, u)

/-- Out ports with the units that drive them. -/
def outPorts (us : List (Nat × Wide)) : List (Nat × Nat) := us.flatMap fun (u, r) => ((List.range 8).filter (rMask r).getLsbD).map fun k => (k, u)

/-- The in ports a whorl consumes. -/
def inPorts (us : List (Nat × Wide)) : List Nat := everyPorts us ++ (gatedPorts us).map (·.1) ++ (paramPorts us).map (·.1)

/-- INDEX units of op 0. -/
def countUnits (us : List (Nat × Wide)) : List (Nat × Wide) := us.filter fun (u, r) => kindOf u == .index && rOp r == 0

/-- ACC units of function spread. -/
def spreadUnits (us : List (Nat × Wide)) : List (Nat × Wide) := us.filter fun (u, r) => kindOf u == .acc && rOp r % 4 == 3

/-- One round of the depths of R228. -/
def deepen (us : List (Nat × Wide)) (ds : List (Nat × Nat)) : List (Nat × Nat) :=
  us.map fun (u, r) => (u, (List.range 3).foldl (fun m i => match routeUnit (rRoute r i) with
    | some v => max m (((ds.find? (·.1 == v)).elim 0 (·.2)) + (kindOf v).latency)
    | none => m) 0)

/-- The depths of R228; none when the routes have a cycle. -/
def depths (us : List (Nat × Wide)) : Option (List (Nat × Nat)) :=
  let ds := (List.range us.length).foldl (fun ds _ => deepen us ds) (us.map fun x => (x.1, 0))
  if deepen us ds == ds then some ds else none

/-- The depth of a unit of a whorl. -/
def Whorl.depthOf (w : Whorl) (u : Nat) : Nat := (w.depth.find? (·.1 == u)).elim 0 (·.2)

/-- The fault of arming a whorl, R247 and R224; of the two CANOPY_CONFIG comes first (DESIGN CHOICE, log 93). -/
def State.armFault (s : State) (t : Nat) (c : Fin 12) (rows : BitVec 4) : Option Cause :=
  let cn := (s.tile t).cn
  let us := cn.enabled c rows
  let masks := (rowsOf rows).map fun r => vget cn.mask r 0#12
  let others := cn.whorls.map fun w => cn.enabled w.ctx w.rows
  let lead := (everyPorts us).head?
  let dup (l : List Nat) : Bool := l.eraseDups.length != l.length
  let stray (c : Nat) : Bool := match routeUnit c with
    | some v => !us.any (·.1 == v)
    | none => false
  let noRand (u : Nat) (r : Wide) : Bool := (kindOf u == .conv || kindOf u == .mxq) && (usedInputs (kindOf u) r).contains 1 && rRoute r 1 != 0x3F
  let stepped := us.any fun (u, r) => kindOf u == .decay && rParam r 2 % 2 == 0
  let bad := us.isEmpty
    || us.any (fun (_, r) => (List.range 3).any fun i => stray (rRoute r i))
    || (depths us).isNone
    || others.any (fun o => (inPorts us).any (inPorts o).contains || ((outPorts us).map (·.1)).any ((outPorts o).map (·.1)).contains)
    || dup ((outPorts us).map (·.1))
    || masks.any (fun m => masks.head?.any (· != m))
    || cn.armedIn c rows
    || (gatedPorts us).any (fun (k, _) => 1 < portUses us k || (paramPorts us).any (·.1 == k))
    || (lead.isNone && us.any fun (u, r) => kindOf u == .rep && rOp r == 0)
    || (lead.isNone && (countUnits us).length + (spreadUnits us).length != 1)
    || (lead.isSome && !(countUnits us).isEmpty)
    || us.any (fun (u, r) => noRand u r)
  if bad then some .canopyConfig
  else if stepped && !(s.kernelOf t (c == 11)).any (·.stepdep) then some .ringUndeclared
  else none

/-- A cwhorl reaches its start cycle, R69, R71 and R241. -/
def State.startWhorl (s : State) (t : Nat) (c : WCmd) : State :=
  let u := c.ctx == 11
  let now := s.gcyc.toNat
  let s := s.onCn t fun n => { n with cmds := n.cmds.filter (·.id != c.id) }
  if c.kpre != 63 && (s.tctx t u).regs.k[c.kpre] == 0#32 then s.raise t u .timingMiss (BitVec.ofNat 64 c.kpre.val) c.pc c.slot
  else if (s.tile t).cn.armed == some now then s.raise t u .slotReuse 0#64 c.pc c.slot
  else
    let s := if c.kpre == 63 then s else s.onCtx t u fun x => { x with regs := x.regs.takeK c.kpre 1 }
    let s := s.onCn t fun n => { n with armed := some now }
    match s.armFault t c.ctx c.rows with
    | some f => s.raise t u f 0#64 c.pc c.slot
    | none => s.onCn t fun n =>
      let us := n.enabled c.ctx c.rows
      let st (u : Nat) (r : Wide) : UState :=
        ⟨[], Lanes.none, 0, if kindOf u == .index then BitVec.ofNat 32 (rParam r 0) else 0#32, if kindOf u == .index then BitVec.ofNat 32 (rParam r 1) else 0#32, Past.none⟩
      { n with whorls := n.whorls ++ [⟨c.id, c.ctx, c.rows, (depths us).getD [], 0, 0, 0, 0, us.map fun (u, r) => (u, st u r), [], [], false, c.pc, c.slot⟩] }

/-! ### Firing (R227, R229 to R231) -/

/-- The context a row selects in a cycle, R227. -/
def rowSelects (mask : BitVec 12) (g : Nat) : Option Nat :=
  let l := (List.range 12).filter mask.getLsbD
  l[g % l.length]?

/-- Λ of a whorl, R228. -/
def Whorl.lambda (w : Whorl) (us : List (Nat × Wide)) : Nat := ((outPorts us).map (·.2)).foldl (fun m u => max m (w.depthOf u + (kindOf u).latency)) 0

/-- Whether a hardware context's clock lets its whorls fire: its group counts (R229). -/
def State.firesNow (s : State) (t : Nat) (w : Whorl) : Bool :=
  let urgentRuns := (s.groupOf t true).any (·.counts)
  let cn := (s.tile t).cn
  if w.ctx == 11 then urgentRuns
  else !urgentRuns && (s.groupOf t false).any fun g => g.counts && (rowsOf w.rows).all fun r => rowSelects (vget cn.mask r 0#12) g.cnt == some w.ctx.val

/-- Changes one whorl of a tile. -/
def State.onWhorl (s : State) (t id : Nat) (f : Whorl → Whorl) : State :=
  s.onCn t fun n => { n with whorls := n.whorls.map fun w => if w.id == id then f w else w }

/-- A fault of a whorl: it fires no more, and the tile traps (R233). -/
def State.whorlTrap (s : State) (t : Nat) (w : Whorl) (m : Nat) (c : Cause) : State :=
  let u := w.ctx == 11
  let s := s.onWhorl t w.id fun w => { w with dead := true, flight := w.flight.filter (·.m < m) }
  if (s.groupOf t u).any (·.counts) then s.raise t u c 0#64 w.pc w.slot
  else match s.groupOf t u with
    | some g => s.raiseAsync g.id t c 0#64
    | none => s

/-- A word of a port that can be consumed in this cycle (R211). -/
def State.headWord (s : State) (t k : Nat) : Option CWord :=
  match (vget (s.tile t).cn.inp k []).head? with
  | some w => if w.landed < s.gcyc.toNat then some w else none
  | none => none

/-- The length of the segment a firing begins: from the lead port, an INDEX of op 0 or a spread; SEGMENT_MISMATCH (R230, R231). -/
def segmentLen (us : List (Nat × Wide)) (head : Nat → Option CWord) (live : List (Nat × BitVec 32 × BitVec 32 × Bool)) : Except Cause Nat :=
  match everyPorts us with
  | lead :: rest =>
    match (head lead).bind (·.pre) with
    | none => .error .segmentMismatch
    | some n => if rest.all fun k => (head k).bind (·.pre) == some n then .ok n else .error .segmentMismatch
  | [] =>
    match countUnits us, spreadUnits us with
    | (u, _) :: _, _ => .ok ((live.find? (·.1 == u)).elim 0 (·.2.2.1.toNat))
    | [], (_, r) :: _ => .ok (rParam r 0)
    | [], [] => .ok 0

/-- The live values of the INDEX units after their parameter words of a round, R220 and R221. -/
def liveValues (us : List (Nat × Wide)) (w : Whorl) (begin' : Bool) (head : Nat → Option CWord) : List (Nat × BitVec 32 × BitVec 32 × Bool) :=
  us.filterMap fun (u, r) =>
    if kindOf u != .index then none
    else
      let st := (w.units.find? (·.1 == u)).elim (0#32, 0#32) fun x => (x.2.base, x.2.ext)
      let word := if begin' then (inPort (rRoute r 3)).bind head else none
      match word with
      | none => some (u, st.1, st.2, true)
      | some x =>
        let v := BitVec.ofNat 32 (lane x.lanes.val 0)
        match lane x.lanes.val 1 with
        | 0 => some (u, v, st.2, true)
        | 1 => some (u, st.1, v, true)
        | 2 => some (u, st.1, st.2, true)
        | _ => some (u, st.1, st.2, false)

/-- The gated ports a firing consumes, with the firings each REPEAT waits before its next word (R231). -/
def gateStep (us : List (Nat × Wide)) (w : Whorl) (begin' : Bool) : List Nat × List (Nat × Nat) :=
  let l : List (Option Nat × Nat × Nat) := (gatedPorts us).map fun (k, u) =>
    let r := (us.find? (·.1 == u)).elim 0#512 (·.2)
    let left := if begin' then 0 else (w.gate.find? (·.1 == u)).elim 0 (·.2)
    if kindOf u == .rep then (if left == 0 then (some k, u, rParam r 0 - 1) else (none, u, left - 1))
    else (if begin' then some k else none, u, 0)
  (l.filterMap (·.1), l.map fun x => (x.2.1, x.2.2))

/-- An armed whorl fires if it can, R229. A port that an INDEX takes its parameters from and an input names too, or two INDEX units, gives one word for both
(DESIGN CHOICE, log 95). -/
def State.fireWhorl (s : State) (t : Nat) (w : Whorl) : State :=
  let cn := (s.tile t).cn
  let us := cn.enabled w.ctx w.rows
  let begin' := w.seg == 0
  let head (k : Nat) := s.headWord t k
  let spent := begin' && (countUnits us).any fun (_, r) => rParam r 3 ≤ w.round
  let (gated, gate) := gateStep us w begin'
  let need := (everyPorts us ++ gated ++ (if begin' then (paramPorts us).map (·.1) else [])).eraseDups
  let outs := ((outPorts us).map (·.1)).eraseDups
  let lam := w.lambda us
  let pending := (w.flight.filter fun f => s.gcyc.toNat < f.at_ + lam).length
  if w.dead || spent || !s.firesNow t w || !need.all (fun k => (head k).isSome) || outs.any (fun k => 64 ≤ (vget cn.outp k []).length + pending) then s
  else
    let live := liveValues us w begin' head
    match (if begin' then segmentLen us head live else .ok w.len) with
    | .error c => s.whorlTrap t w w.fired c
    | .ok len =>
      let left := if begin' then len else w.seg
      let f : Firing := ⟨w.fired, s.gcyc.toNat, begin', left ≤ 16, left, len, need.map fun k => (k, (head k).elim Lanes.none (·.lanes)), live, [], []⟩
      let hw : Fin 2 := if w.ctx == 11 then 1 else 0
      let s := s.onCn t fun n => { n with
        inp := need.foldl (fun v k => vmod v k (·.drop 1)) n.inp
        fires := n.fires.set hw (n.fires[hw] + 1) }
      s.onWhorl t w.id fun w => { w with
        seg := left - 16, len := len, fired := w.fired + 1, gate := gate, flight := w.flight ++ [f]
        round := if f.last && !(countUnits us).isEmpty then w.round + 1 else w.round
        units := w.units.map fun (u, st) => match live.find? (·.1 == u) with
          | some (_, b, e, _) => (u, { st with base := b, ext := e })
          | none => (u, st) }

/-- whorl fire, R229. -/
def execWhorlFire (t c : Nat) (s : State) : Out' :=
  match (s.tile t).cn.whorls.find? (·.id == c) with
  | some w => (s.fireWhorl t w).done
  | none => s.done

/-! ### The pipeline (R229, R233, R235) -/

/-- What an input of a unit reads in a firing, and whether a word came (R213). -/
def unitInput (r : Wide) (f : Firing) (i : Nat) : Lanes × Bool :=
  let c := rRoute r i
  match inPort c, routeUnit c with
  | some k, _ => match f.ins.find? (·.1 == k) with
    | some x => (x.2, true)
    | none => (Lanes.none, false)
  | none, some u => match f.outs.find? (·.unit == u) with
    | some o => (if 0x40 ≤ c then o.o1 else o.o0, true)
    | none => (Lanes.none, true)
  | none, none => if c == 1 || c == 2 then (Lanes.const (rParam r (c - 1)), true) else (Lanes.none, true)

/-- A free word of lanes (log 5). -/
def State.freeLanes (s : State) (act : BitVec 16) : Lanes × State :=
  let (v, s) := s.freeNat
  (⟨(laneMap act fun i => (v / 2 ^ (32 * i) % 2 ^ 32, 0#6)).1.val, act⟩, s)

/-- The outputs of an MXQ for a firing, `L` cycles after it read, by the record `r` it read (R219, R229); a block whose later word has not been read by then
gives a free value (log 24). A segment of length 0 has no block. -/
def State.mxqResult (s : State) (r : Wide) (f : Firing) (st : UState) : (Lanes × Lanes × Flags) × State :=
  let word (m : Nat) : Option (Lanes × Lanes) := (st.hist.find? (·.1 == m)).map (·.2)
  let own := (word f.m).getD (Lanes.none, Lanes.none)
  let second := (f.len - f.left) / 16 % 2 == 1
  let closes := (second || f.last) && f.left != 0
  let other := if second then (word (f.m - 1)).map (·.1) else if f.last then some Lanes.none else (word (f.m + 1)).map (·.1)
  match other with
  | some o => (mxqOut r own.1 own.2 o.values second closes, s)
  | none => let (l, s) := s.freeLanes (if rOp r == 6 then 0#16 else own.1.act); ((l, Lanes.none, 0#6), s)

/-- Notes what a unit put out for a firing, and what it carries on. -/
def State.noteUnit (s : State) (t id m : Nat) (o : UOut) (st : UState) : State :=
  s.onWhorl t id fun w => { w with
    flight := w.flight.map fun f => if f.m == m then { f with outs := f.outs ++ [o] } else f
    units := w.units.map fun x => if x.1 == o.unit then (o.unit, st) else x }

/-- A whorl and a firing as they stand now; none once the firing is gone. -/
def State.firing (s : State) (t id m : Nat) : Option (Whorl × Firing) :=
  ((s.tile t).cn.whorls.find? (·.id == id)).bind fun w => (w.flight.find? (·.m == m)).map fun f => (w, f)

/-- What a unit carries. -/
def Whorl.unitState (w : Whorl) (u : Nat) : UState := (w.units.find? (·.1 == u)).elim UState.start (·.2)

/-- An MXQ unit reads its words and its record; its results come later. -/
def State.readBlock (s : State) (t id m u : Nat) (r : Wide) (st : UState) : State :=
  s.onWhorl t id fun w => { w with
    flight := w.flight.map fun f => if f.m == m then { f with recs := f.recs ++ [(u, r)] } else f
    units := w.units.map fun x => if x.1 == u then (u, st) else x }

/-- The results of MXQ units for a firing, due in this cycle (R219). -/
def State.blockResults (s : State) (t : Nat) (w : Whorl) (us : List (Nat × Wide)) (f : Firing) : State :=
  us.foldl (fun s (u, r) =>
    if kindOf u == .mxq && f.at_ + w.depthOf u + 34 == s.gcyc.toNat then
      match s.firing t w.id f.m with
      | some (w, f) =>
        let ((o0, o1, fl), s) := s.mxqResult ((f.recs.find? (·.1 == u)).elim r (·.2)) f (w.unitState u)
        (s.noteUnit t w.id f.m ⟨u, o0, o1⟩ (w.unitState u)).flagCtx t (w.ctx == 11) fl
      | none => s
    else s) s

/-- The units of a firing that read in this cycle (R229). -/
def State.readUnits (s : State) (t : Nat) (w : Whorl) (us : List (Nat × Wide)) (f : Firing) : State :=
  let urgent := w.ctx == 11
  us.foldl (fun s (u, r) =>
    if f.at_ + w.depthOf u != s.gcyc.toNat then s
    else match s.firing t w.id f.m with
      | none => s
      | some (w, f) =>
        let (a, taken) := unitInput r f 0
        let x : UnitIn := ⟨kindOf u, u, r, a, (unitInput r f 1).1, (unitInput r f 2).1, taken,
          ((s.kernelOf t urgent).elim 0 (·.stepView)) % 2 ^ 16, vget (s.tile t).cn.tabs (tabPlace u urgent) (Vector.replicate 13 0#512)⟩
        let o := x.eval f (w.unitState u)
        match o.fault with
        | some c => s.whorlTrap t w f.m c
        | none =>
          let s := s.flagCtx t urgent o.flags
          if kindOf u == .mxq then s.readBlock t w.id f.m u r o.st else s.noteUnit t w.id f.m ⟨u, o.o0, o.o1⟩ o.st) s

/-- The words of a firing reach the out ports at f + Λ (R229, R408). -/
def State.deliver (s : State) (t : Nat) (w : Whorl) (us : List (Nat × Wide)) (f : Firing) : State :=
  if f.at_ + w.lambda us != s.gcyc.toNat then s
  else
    let tag : BitVec 8 := if w.ctx == 11 then w.rows.setWidth 8 <<< 4 else w.rows.setWidth 8
    s.onCn t fun n => { n with outp := (outPorts us).foldl (fun v (k, u) =>
      let l := (f.outs.find? (·.unit == u)).elim Lanes.none (·.o0)
      vmod v k fun q => q ++ [⟨l, none, s.gcyc.toNat, tag⟩]) n.outp }

/-- The pipelines of a tile's whorls before the firings of a cycle, whatever its groups do (R235): results of MXQ units, and the words that
reach the out ports. -/
def State.pipeOut (s : State) (t : Nat) : State :=
  (s.tile t).cn.whorls.foldl (fun s w =>
    let us := (s.tile t).cn.enabled w.ctx w.rows
    let s := w.flight.foldl (fun s f => s.blockResults t w us f) s
    let live := ((s.tile t).cn.whorls.find? (·.id == w.id)).elim [] (·.flight)
    live.foldl (fun s f => s.deliver t w us f) s) s

/-- And after them: the units that read in this cycle; firings whose last unit has put out leave. -/
def State.pipeIn (s : State) (t : Nat) : State :=
  (s.tile t).cn.whorls.foldl (fun s w =>
    let us := (s.tile t).cn.enabled w.ctx w.rows
    let s := w.flight.foldl (fun s f => s.readUnits t w us f) s
    let done := us.foldl (fun m (u, _) => max m (w.depthOf u + (kindOf u).latency)) 0
    s.onWhorl t w.id fun w => { w with flight := w.flight.filter fun f => s.gcyc.toNat < f.at_ + done }) s

/-! ### Disarming and draining (R232, R245) -/

/-- Whether a stream feeds an in port: one that holds an engine (log 60). -/
def Stream.feeds (x : Stream) (t k : Nat) : Bool := x.tile == t && x.engine.isSome && wEnd x.dst == 3 && wPort x.dst == k

/-- Whether an in port is empty and its stream has delivered its last element (R232): one that still feeds it, or one that has left since the port was last
released. -/
def State.portFed (s : State) (t k : Nat) : Bool :=
  let xs := s.traffic.streams.filter fun (x : Stream) => x.feeds t k
  (vget (s.tile t).cn.inp k []).isEmpty && xs.all s.delivered && (vget (s.tile t).cn.fed k 0#2 != 0#2 || xs.any fun x => !x.spent)

/-- Whether a whorl disarms in this cycle, R232. -/
def State.whorlOver (s : State) (t : Nat) (w : Whorl) : Bool :=
  let us := (s.tile t).cn.enabled w.ctx w.rows
  !w.dead && (inPorts us).all (s.portFed t) && (countUnits us).all (fun (_, r) => rParam r 3 ≤ w.round)
    && w.flight.all (fun f => f.at_ + w.lambda us ≤ s.gcyc.toNat)

/-- whorl disarm, R232: its ports are released. -/
def execWhorlDisarm (t c : Nat) (s : State) : Out' :=
  match (s.tile t).cn.whorls.find? (·.id == c) with
  | none => s.done
  | some w =>
    if !s.whorlOver t w then s.done
    else
      let us := (s.tile t).cn.enabled w.ctx w.rows
      let spend (x : Stream) : Stream := if (inPorts us).any (x.feeds t) then { x with spent := true } else x
      let s := { s with traffic.streams := s.traffic.streams.map spend }
      (s.onCn t fun n => { n with
        whorls := n.whorls.filter (·.id != c)
        fed := (inPorts us).foldl (fun v k => vset v k 0#2) n.fed
        closed := ((outPorts us).map fun x => x.1).eraseDups.foldl (fun v k => vmod v k (· + 1)) n.closed }).done

/-- Whether a tag names one of the rows of a hardware context. -/
def tagged (tag : BitVec 8) (u : Bool) (rows : BitVec 4) : Bool := (if u then (tag >>> 4).setWidth 4 else tag.setWidth 4) &&& rows != 0#4

/-- Whether a stream holds a word of some rows that it has not written, R245. -/
def Stream.carries (x : Stream) (u : Bool) (rows : BitVec 4) : Bool :=
  x.buf.any (fun b => tagged b.rows u rows) || (!x.pack.isEmpty && tagged x.tags u rows)
    || x.run.any (fun r => tagged r.rows u rows) || (!x.staged.isEmpty && tagged x.stagedRows u rows) || x.reqRows.any fun r => tagged r.2 u rows

/-- Whether the rows of a cdrain are idle and every word of theirs has been taken and written, R245. -/
def State.rowsIdle (s : State) (t : Nat) (d : DrainReq) : Bool :=
  let cn := (s.tile t).cn
  !cn.whorls.any (fun w => (w.ctx == 11) == d.urgent && w.rows &&& d.rows != 0#4)
    && cn.outp.all (fun q => !q.any fun w => tagged w.rows d.urgent d.rows)
    && !s.traffic.streams.any fun x => x.tile == t && x.carries d.urgent d.rows

/-- cdrain's token lands, R245: at the first cycle after its issue in which its rows are idle, also while its group is stopped. -/
def execCdrainToken (t n : Nat) (s : State) : Out' :=
  match (s.tile t).cn.drains.find? (·.id == n) with
  | none => s.done
  | some d =>
    if (s.groupOf t d.urgent).any (fun g => !g.counts || d.iss < g.cnt) && s.rowsIdle t d then
      ((s.onCn t fun c => { c with drains := c.drains.filter (·.id != n) }).token t d.urgent d.k 1).done
    else s.done

/-- An engine command reaches its start cycle, R69: a matrix command or a cwhorl. -/
def State.startEngine (s : State) (t c : Nat) : State :=
  match (s.tile t).mx.cmds.find? fun m => m.id == c && !m.started with
  | some m => if (s.groupOf t false).any fun g => g.counts && g.cnt == m.start then s.startMatrix t m else s
  | none =>
    match (s.tile t).cn.cmds.find? (·.id == c) with
    | some w => if (s.groupOf t (w.ctx == 11)).any fun g => g.counts && g.cnt == w.start then s.startWhorl t w else s
    | none => s

/-- engine command start, R69. -/
def execEngineCommandStart (t c : Nat) (s : State) : Out' := (s.startEngine t c).done

/-- Inserts a pair by its key, after equal ones. -/
def insertByKey {α : Type} (x : Nat × α) : List (Nat × α) → List (Nat × α)
  | [] => [x]
  | y :: r => if x.1 < y.1 then x :: y :: r else y :: insertByKey x r

/-- A list of pairs in the order of their keys. -/
def sortByKey {α : Type} (l : List (Nat × α)) : List (Nat × α) := l.foldl (fun a x => insertByKey x a) []

/-- The commands of a tile that start in this cycle, in issue order (R69). -/
def State.startsDue (s : State) (t : Nat) : List Nat :=
  let due (u : Bool) (n : Nat) : Bool := (s.groupOf t u).any fun g => g.counts && g.cnt == n
  let x := s.tile t
  let l := (x.mx.cmds.filter fun m => !m.started && due false m.start).map (fun m => (m.ord, m.id))
    ++ (x.cn.cmds.filter fun w => due (w.ctx == 11) w.start).map fun w => (w.ord, w.id)
  (sortByKey l).map (·.2)

end Sys2Proof.Machine
end

