-- ==== Sys2Proof/Machine/CommandQueue.lean ====
section
/-! DEFINITION. The command queue's dispatch (R168, R169), the landing of tokens, reloads and reports (R183, R186, R319), and the decoder units
(R177). -/
namespace Sys2Proof.Machine

/-- Whether what an entry waits for has been applied (R182, R353); the writes of a staged stream count as applied when its capture is complete, which is when
its token lands (R172; DEDUCED, log 93). -/
def State.applied (s : State) (t : Nat) (r : WRef) : Bool :=
  match r with
  | .stream id => !s.traffic.streams.any (·.id == id)
  | .engine id => !((s.tile t).mx.cmds.any (·.id == id)) && (s.tile t).cn.drains.all fun d => d.id != id || s.rowsIdle t d

/-- The free engine of a context that became free earliest, R169. -/
def State.freeEngine (s : State) (t : Nat) (u : Bool) : Option Nat :=
  let own := if u then [12, 13, 14, 15] else List.range 12
  let used := (s.streamsOf t u).filterMap (·.engine)
  let free := own.filter fun e => !used.contains e
  let at_ (e : Nat) : Nat := vget (s.tile t).engFree e 0
  free.foldl (fun m e => match m with
    | none => some e
    | some b => if at_ e < at_ b then some e else some b) none

/-- The precondition counter of an entry. -/
def QKind.pre : QKind → Fin 64
  | .stream _ k => k
  | _ => 63

/-- Whether a queued command is ready, R168. -/
def State.readyCmd (s : State) (t : Nat) (u : Bool) (c : QCmd) : Bool :=
  let k := c.kind.pre
  (k == 63 || (s.tctx t u).regs.k[k] != 0#32) && c.after.all (s.applied t)
    && (match c.kind with
      | .stream _ _ => (s.freeEngine t u).isSome
      | _ => true)

/-- command-queue dispatch, R168: the oldest ready command, with its precondition's decrement. -/
def execCmdqDispatch (t : Nat) (u : Bool) (s : State) : Out' :=
  match (s.tctx t u).cmdq.find? (s.readyCmd t u) with
  | none => s.done
  | some c =>
    let g := (s.tctx t u).group.getD 0
    let s := s.onCtx t u fun x => { x with
      cmdq := x.cmdq.filter (· != c)
      regs := if c.kind.pre == 63 then x.regs else x.regs.takeK c.kind.pre 1 }
    match c.kind with
    | .stream id _ =>
      let e := s.freeEngine t u
      let mine := (s.traffic.streams.filter (·.id == id)).map fun x => { x with engine := e }
      State.done { s with traffic.streams := s.traffic.streams.filter (·.id != id) ++ mine }
    | .tok tile none k n =>
      let (id, s) := s.fresh
      State.done { s with traffic.toks := s.traffic.toks ++ [⟨id, t, g, tile, u, k, n⟩] }
    | .tok tile (some rank) k n =>
      let ctx := (s.group g).elim 0 (·.ctx)
      match s.sendToken ctx t rank tile k n with
      | none => (s.tileFault g t .linkDown).done
      | some (p, s) =>
        let (id, s) := s.fresh
        State.done { s with links.reqs := s.links.reqs ++ [⟨id, none, some g, ctx, 0xFFFF, p, s.gcyc.toNat, t, none⟩] }
    | .tdsync tid k =>
      let (id, s) := s.fresh
      State.done { s with traffic.reloads := s.traffic.reloads ++ [⟨id, (s.group g).elim 0 (·.ctx), g, t, u, tid, k⟩] }
    | .bars b w n =>
      let (id, s) := s.fresh
      State.done { s with crown.bReqs := s.crown.bReqs ++ [⟨id, n, g, t, u, (s.group g).elim 0 (·.place.die), b, none, w, true⟩] }

/-- A token addition is delivered, R183. -/
def execTokDelivery (n : Nat) (s : State) : Out' :=
  match s.traffic.toks.find? (·.id == n) with
  | none => s.done
  | some m =>
    let s := { s with traffic.toks := s.traffic.toks.filter (·.id != n) }
    (if (s.tctx m.tile m.urgent).group == some m.group then s.token m.tile m.urgent m.k m.n else s).done

/-- A descriptor reload is complete, R162 and R186: every Root holds the new version. -/
def execTdsyncDone (n : Nat) (s : State) : Out' :=
  match s.traffic.reloads.find? (·.id == n) with
  | none => s.done
  | some r =>
    let s := { s with traffic.reloads := s.traffic.reloads.filter (·.id != n) }
    let s := ((s.dropDesc r.ctx r.tid).tensorView r.ctx r.tid 0).2
    (if (s.tctx r.tile r.urgent).group == some r.group then s.token r.tile r.urgent r.k 1 else s).done

/-- The oldest free decoder unit is given to the oldest waiting sdec, R177. -/
def execDecoderAssign (s : State) : Out' :=
  let free := (List.range 16).filter fun i => (vget s.traffic.units i (none, 0)).1.isNone
  let at_ (i : Nat) : Nat := (vget s.traffic.units i (none, 0)).2
  let unit := free.foldl (fun m i => match m with
    | none => some i
    | some b => if at_ i < at_ b then some i else some b) none
  match unit, s.traffic.streams.find? fun x => x.op == StreamOp.sdec && x.engine.isSome && x.unit.isNone with
  | some i, some x =>
    State.done { s.onStream x.id (fun y => { y with unit := some i }) with traffic.units := vset s.traffic.units i (some x.id, at_ i) }
  | _, _ => s.done

/-- An asynchronous fault reaches the issuing tile, R319. -/
def execAsyncFaultReport (n : Nat) (s : State) : Out' :=
  match s.traffic.faults.find? (·.id == n) with
  | none => s.done
  | some f => ({ s with traffic.faults := s.traffic.faults.filter (·.id != n) }.raiseAsync f.group f.tile f.cause f.info).done

end Sys2Proof.Machine
end

