-- ==== Sys2Proof/Machine/Crown.lean ====
section
/-! DEFINITION. What the steps of the Crown share: its own accesses to HBM, the trap queue's records (R376, R377), the release of a group
(R309), the end of a kernel (R283, R302) and the segment pool with the crossing of segments (R279 to R281). -/
namespace Sys2Proof.Machine

/-- A host command to the Crown: nothing happens before the Crown runs (R393). -/
def State.whenRunning (s : State) (f : State) : Out' := if s.boot.stage == 2#4 then f.done else s.done

/-- An MSI-X message leaves over the PCIe link; while the link carries nothing it is lost (R383, R390; DESIGN CHOICE, log 90). -/
def State.msix (s : State) (v : Nat) : State := if s.pcieUp then s.emit (.msix v) else s

/-! ### The Crown's accesses to HBM -/

/-- A write of the Crown: it settles what stands above its lines, as far as that goes, and lands (R295). It waits for no page (DESIGN CHOICE, log 89). -/
def State.crownWrite (s : State) (a : Nat) (bs : List Byte) : State := ((linesOf a bs.length).foldl State.settleLine s).landHbm a bs

/-- Zeroes a range of heartwood with every committed version in it gone. -/
def State.zeroHbm (s : State) (lo n : Nat) : State :=
  { s with hbm := s.hbm.zero lo (lo + n), hbmBad := freshWords lo n s.hbmBad, roots.versions := s.roots.versions.filter fun v => v.line < lo / 256 || (lo + n) / 256 ≤ v.line }

/-! ### The release of a group (R309) -/

/-- What a hardware context leaves of the Canopy when its kernel ends or another enters, R234 and R309: its words leave the ports, those that its streams have
brought and those that its whorls have emitted. `shared` keeps the counts of R154 for the other context's streams. -/
def Canopy.clear (cn : Canopy) (u shared : Bool) : Canopy :=
  let other (w : CWord) : Bool := if u then w.rows &&& 0x0F#8 != 0#8 else w.rows &&& 0xF0#8 != 0#8
  let mine (c : Fin 12) : Bool := (c == 11) == u
  let e := Canopy.entry
  { cn with
    recs := cn.recs.map fun r => Vector.ofFn fun i => if mine i then 0#512 else r[i]
    mask := if u then cn.mask else e.mask
    inp := cn.inp.map (·.filter other)
    outp := cn.outp.map (·.filter other)
    fed := cn.fed.map fun b => if u then b &&& 1#2 else b &&& 2#2
    closed := if shared then cn.closed else e.closed
    tabs := Vector.ofFn fun i => if (i.val % 2 == 1) == u then Vector.replicate 13 0#512 else cn.tabs[i]
    whorls := cn.whorls.filter fun w => !mine w.ctx
    cmds := cn.cmds.filter fun w => !mine w.ctx
    cfg := cn.cfg.set (if u then 1 else 0 : Fin 2) none
    drains := cn.drains.filter fun d => d.urgent != u
    fires := cn.fires.set (if u then 1 else 0 : Fin 2) 0 }

/-- A hardware context leaves a tile: its part of scratchpad is zeroed and its state ends (R309). -/
def Tile.vacate (x : Tile) (u : Bool) (now : Nat) : Tile :=
  let other := (x.ctx (!u)).group.isSome
  let x := { x with
    spad := x.spad.zero (partLo u) (partHi u)
    spadBad := freshWords (partLo u) (partHi u - partLo u) x.spadBad
    cn := x.cn.clear u other
    mx := if u then x.mx else Matrix.entry }
  let x := x.onCtx u fun _ => TileCtx.idle
  if other then x else { x with power := .free now }

/-- Zeroes a region of shared scratchpad, R277 and R309. -/
def State.zeroRegion (s : State) (i : Nat) : State :=
  { s with
    shared := vmod s.shared (i / 16) fun m => m.zero (i % 16 * 2 ^ 22) ((i % 16 + 1) * 2 ^ 22)
    sharedBad := s.sharedBad.filter fun x => x.1 != i / 16 || x.2 / 2 ^ 16 != i % 16 }

/-- The regions of a group are zeroed and unbound, R277 and R309. -/
def State.freeRegions (s : State) (g : Nat) : State :=
  (List.range 64).foldl (fun s i =>
    if vget s.regions i none == some g then { s.zeroRegion i with regions := vset s.regions i none } else s) s

/-- Everything of a group that is on its way ends: streams, tokens, reports, requests (R178, R300); a descriptor reload goes on without its
token. -/
def State.dropTraffic (s : State) (g : Nat) : State :=
  let s := (s.traffic.streams.filter (·.group == g)).foldl State.endStream s
  { s with
    traffic.toks := s.traffic.toks.filter (·.group != g)
    traffic.reloads := s.traffic.reloads.map fun r => if r.group == g then { r with k := 63 } else r
    traffic.faults := s.traffic.faults.filter (·.group != g)
    links.reqs := s.links.reqs.filter (·.group != some g) }

/-- A tile a group takes part in: the groups of the tiles that hold it. -/
def Group.meets (g h : Group) : Bool := g.tiles.any h.has

/-- Whether an urgent group other than `g` holds a tile of `h`. -/
def State.coveredBy (s : State) (h : Group) (g : Nat) : Bool := s.crown.groups.any fun o => o.urgent && o.id != g && o.meets h

/-- Gives back save slots, R337. -/
def State.freeSlots (s : State) (g : Group) : State :=
  match g.saveSlot with
  | none => s
  | some n => { s with
      crown.cwork := vmod s.crown.cwork g.ctx fun w => { w with slots := w.slots.filter fun i => i < n || n + g.tiles.length ≤ i }
      saved := s.saved.filter (·.group != g.id) }

/-- A group is released, R309 and R345. The groups an urgent group paused resume when no urgent group is left on their tiles (R335); a request to pause
that has not yet stopped its group is then over (DESIGN CHOICE, log 92). -/
def State.releaseGroup (s : State) (id : Nat) : State :=
  match s.group id with
  | none => s
  | some g =>
    let s := (s.dropTraffic id).freeSlots g
    let s := if g.st == GState.switchedOut then s
      else g.tiles.foldl (fun s t => s.onTile t fun x => x.vacate g.urgent s.gcyc.toNat) s
    let s := (s.freeRegions id).unbindBarriers id
    let s := { s with crown.groups := s.crown.groups.filter (·.id != id) }
    let left := if g.urgent then s.crown.groups.filter fun h => !h.urgent && g.meets h && !s.coveredBy h id else []
    let woken := left.filter (·.paused)
    let calm (h : Group) : Group := if !h.paused && h.saveSlot.isNone && left.any (·.id == h.id) then { h with pauseAt := none } else h
    let s := { s with crown.groups := s.crown.groups.map calm }
    s.push (woken.map fun h => .event (.urgentReleaseResume h.id))

/-! ### The end of a kernel -/

/-- A kernel is live from its dispatch until it is committed or aborted, R289. -/
def KState.live : KState → Bool
  | .retry => false
  | _ => true

/-- A context whose last live kernel has ended returns to ready, R272. -/
def State.settleContext (s : State) (c : Nat) : State :=
  if s.crown.kernels.any fun k => k.ctx == c && k.st.live then s
  else s.onCtxt c fun x => match x.st with
    | .active | .quiescing => { x with st := .ready }
    | _ => x

/-- Writes a done doubleword, R283; none when the field is 0 or no multiple of 8. -/
def State.writeDone (s : State) (record : Wide) (ticket : Option Nat) (cause : Option Cause) : State :=
  let a := fieldOf record 127 88
  if a == 0 || a % 8 != 0 then s
  else s.crownWrite a (leBytes 8 (ticket.getD 0xFFFF + cause.elim 0 fun c => 2 ^ 24 + c.code * 2 ^ 16))

/-- A record reaches its end, R282. -/
def State.endRecord (s : State) (k : Kernel) : State :=
  s.onQueue k.origin.1 fun x => { x with live := x.live.filter (·.1 != k.id) }

/-- A kernel reaches its end: its doubleword, its record's end, and it is gone (R283, R289, R302). -/
def State.endKernel (s : State) (k : Kernel) (cause : Option Cause) : State :=
  let s := (s.writeDone k.record k.ticket cause).endRecord k
  { s with crown.kernels := s.crown.kernels.filter (·.id != k.id) }.settleContext k.ctx

/-- The retried causes of R299; a USER_ABORT by its retry bit. -/
def Kernel.retries (k : Kernel) (c : Cause) : Bool :=
  match c with
  | .integrity | .meshError | .txConflict | .sapFull => true
  | .userAbort => k.abortCode.any fun x => bits x.1 11 11 == 1
  | _ => false

/-- Whether an abort with a cause is final, R302 and R308. -/
def Kernel.final (k : Kernel) (c : Cause) : Bool := k.ticket.isNone || k.inPlace || k.serial || !k.retries c

/-! ### The trap queue (R376, R377) -/

/-- A record's 64 bytes, written in gcy `now`. -/
def TqRec.bytes (r : TqRec) (now : Nat) : List Byte :=
  leBytes 64 (r.info.toNat * 2 ^ 448 + now * 2 ^ 384 + r.fid * 2 ^ 352 + r.ticket * 2 ^ 336 + bits r.fpc 17 0 * 2 ^ 318 + r.slot * 2 ^ 310
    + r.tile * 2 ^ 301 + (if r.fatal then 2 ^ 15 else 0) + (if r.write then 2 ^ 14 else 0) + r.cause.code)

/-- TQSTAT.free, R376. -/
def Ctxt.room (x : Ctxt) : Nat := x.trapLen - 1 - (((x.tqTail.toNat : Int) - x.tqHead.toNat) % x.trapLen).toNat

/-- The waiting record that is written next, R377: the oldest while free is above 32; otherwise the oldest fatal one that waits for no
record before it of its own window (log 25). -/
def nextRecord (free : Nat) : List TqRec → List TqRec → Option (TqRec × List TqRec)
  | _, [] => none
  | before, r :: l =>
    if (before.isEmpty && 32 < free) || (r.fatal && before.all fun b => b.owner == 0 || b.owner != r.owner) then some (r, before ++ l)
    else nextRecord free (before ++ [r]) l

/-- The driver moves a trap queue's head, R376. -/
def execTqptrHeadWrite (c : Fin 64) (w : Word) (s : State) : Out' :=
  s.whenRunning (s.onCtxt c fun x => { x with tqHead := w.setWidth 16 })

/-- Whether a record of a window, or of a kernel's end, is still to be written (R377). -/
def State.untold (s : State) (c owner : Nat) : Bool := (s.ctxt c).waiting.any (·.owner == owner)

/-! ### Segments (R279 to R281) -/

/-- Records between head and tail, R279. -/
def Queue.count (q : Queue) : Nat := (q.tailSeq - q.headSeq).toNat

/-- The slot of a segment an address names. -/
def slotOf (a : Nat) : Nat := bits a 11 6

/-- The segment an address lies in. -/
def segOf (a : Nat) : Nat := a / 4096 * 4096

/-- The next segment a segment's link slot names; 0 for none. -/
def State.linkOf (s : State) (a : Nat) : Nat := bits (s.viewNum (segOf a + 4032) 8) 39 12 * 4096

/-- Takes a segment from the pool (which one is a free value, log 5); vector 64 fires when the pool empties (R383). -/
def State.takeSegment (s : State) : Option (Nat × State) :=
  match s.boot.segs with
  | [] => none
  | a :: l =>
    let (i, s) := s.freeNat
    let g := (a :: l).getD (i % (l.length + 1)) a
    let s := { s with boot.segs := (a :: l).erase g }
    some (g, if l.isEmpty then s.msix 64 else s)

/-- The head passes the link of a segment it has left; the segment returns to the pool (R281). -/
def State.passHead (s : State) (q : Nat) : State :=
  let x := s.queue q
  let n := s.linkOf x.headSlot
  if slotOf x.headSlot == 63 && n != 0 && slotOf x.tailSlot != 63 then
    let s := s.onQueue q fun x => { x with headSlot := n }
    if s.boot.segs.length < 65536 then { s with boot.segs := s.boot.segs ++ [segOf x.headSlot] } else s
  else s

/-- A tail at slot 63 crosses: through the link, or into a segment of the pool; none when the pool is empty (R281). -/
def State.crossTail (s : State) (q : Nat) : Option State :=
  let x := s.queue q
  let go (s : State) (n : Nat) : State :=
    (s.onQueue q fun x => { x with tailSlot := n, st := if x.st == QState.stalled then .enabled else x.st }).passHead q
  match s.linkOf x.tailSlot with
  | 0 =>
    match s.takeSegment with
    | none => none
    | some (g, s) => some (go ((s.crownWrite (g + 4032) (leBytes 64 0)).crownWrite (segOf x.tailSlot + 4032) (leBytes 8 g)) g)
  | n => some (go s n)

/-- A queue's record of a cause: queue in bits 26:16 and seq in bits 15:0 (R376). -/
def queueRecord (c : Cause) (q : Nat) (seq : BitVec 16) : TqRec := .plain c (q * 2 ^ 16 + seq.toNat) none false

/-- Whether a queue's record waits still for room in the trap queue of its context, so that what it reports waits with it (R377). -/
def State.queueUntold (s : State) (c : Cause) (q : Nat) (seq : BitVec 16) : Bool := (s.ctxt (s.queue q).ctx).waiting.contains (queueRecord c q seq)

/-- Whether a stalled queue may cross: its QUEUE_OVERFLOW record has been written (R281, R377). -/
def State.mayCross (s : State) (q : Nat) : Bool := (s.queue q).st == QState.stalled && !s.queueUntold .queueOverflow q (s.queue q).tailSeq

/-- Crossings that wait complete while the pool holds segments, the lowest queue first (R281, R284; log 26). -/
def State.settlePool : Nat → State → State
  | 0, s => s
  | n + 1, s =>
    if s.boot.segs.isEmpty then s
    else match (List.range 2048).find? s.mayCross with
      | none => s
      | some q => (s.crossTail q).elim s (State.settlePool n)

/-- A tail that has reached slot 63 crosses, or the queue stalls with its record (R281). -/
def State.reachTail (s : State) (q : Nat) : State :=
  let x := s.queue q
  if slotOf x.tailSlot != 63 || x.st == QState.stalled then s
  else match s.crossTail q with
    | some s => s.settlePool 2048
    | none =>
      let s := s.onQueue q fun x => { x with st := .stalled }
      s.record x.ctx (queueRecord .queueOverflow q x.tailSeq)

/-- Publishes `n` records, R281 and R285: a pop of this gcy does not see a record pushed onto an empty queue. -/
def State.publish (s : State) (q n : Nat) : State :=
  s.onQueue q fun x => { x with
    tailSlot := x.tailSlot + 64 * n
    tailSeq := x.tailSeq + BitVec.ofNat 16 n
    pushed := if x.count == 0 && n != 0 then some s.gcyc.toNat else x.pushed }

/-- The head leaves its slot, R281. -/
def State.popHead (s : State) (q : Nat) : State :=
  ((s.onQueue q fun x => { x with headSlot := x.headSlot + 64, headSeq := x.headSeq + 1, checked := false, retiring := none }).passHead q).settlePool 2048

/-- A trap-queue record is written, or finds no room, R377; a queue whose record has waited may then cross (R281). -/
def execTrapRecordWrite (c : Fin 64) (s : State) : Out' :=
  let x := s.ctxt c
  match nextRecord x.room [] x.waiting with
  | none => s.done
  | some (r, rest) =>
    if x.room == 0 then
      let s := s.onCtxt c fun x => { x with waiting := rest, fatal := true, ovf := true }
      (match x.st with
        | .faulted | .destroyed => s
        | _ => s.enterFaulted c).done
    else
      let s := s.crownWrite (x.trapBase + 64 * x.tqTail.toNat) (r.bytes s.gcyc.toNat)
      (State.settlePool 2048 ((s.onCtxt c fun y => { y with
        waiting := rest ++ y.waiting.drop x.waiting.length
        tqTail := BitVec.ofNat 16 ((x.tqTail.toNat + 1) % x.trapLen) }).msix c)).done

end Sys2Proof.Machine
end

