-- ==== Sys2Proof/Machine/Queue.lean ====
section
/-! DEFINITION. Queues and the launch of kernels (R279 to R292, R249, R251, R95 to R98, R314): tail writes and appends, the checks of a
head, readiness, selection and dispatch. -/
namespace Sys2Proof.Machine

/-! ### Binding and pushes -/

/-- A write to QCFG, R280 and R284. Every RW field takes what is written: ctx only while the queue is unbound, and en also where the table of R284 gives
the write no transition. A cap of 0 leaves the queue with nothing to bind by. On a bound queue a cap below the count, which R279 excludes, is not taken
(DESIGN CHOICE, log 39). -/
def execQcfgWrite (q : Fin 2048) (w : Word) (s : State) : Out' :=
  let v := w.toNat
  let cap := bits v 47 32
  let ready := match (s.ctxt (s.queue q).ctx).st with
    | .ready | .active => true
    | _ => false
  s.whenRunning <| s.onQueue q fun x =>
    let x := if bits v 59 59 == 1 then { x with rej := false } else x
    let x := { x with en := bits v 63 63 == 1 }
    match x.st with
    | .unbound => { x with configured := cap != 0, ctx := bits v 53 48, cap := cap }
    | st =>
      let x := if cap < max 1 x.count then x else { x with cap := cap }
      { x with st := if x.en then (if st == QState.disabled && ready then .enabled else st) else if st == QState.enabled then .disabled else st }

/-- A tail write that names slot `a` takes effect, R280, R281 and R284. A stalled queue's tail stands at its link slot: it takes a write that names this
slot, and publishes nothing beyond. -/
def State.tailWrite (s : State) (q a : Nat) : State :=
  let x := s.queue q
  let reject := s.onQueue q fun x => { x with rej := true }
  match x.st with
  | .unbound =>
    if x.configured && a % 4096 == 0 && s.linkOf a == 0 then
      s.onQueue q fun x => { x with st := .disabled, headSlot := a, tailSlot := a, headSeq := 0#16, tailSeq := 0#16, checked := false
                                    retiring := none }
    else reject
  | _ =>
    let n := (a - x.tailSlot) / 64
    if a < x.tailSlot || segOf a != segOf x.tailSlot || x.cap < x.count + n then reject
    else (s.publish q n).reachTail q

/-- A write to QTAIL, R281; behind an append that the queue has received and not made it waits its turn (R288). -/
def execQtailWrite (q : Fin 2048) (w : Word) (s : State) : Out' :=
  let a := bits w.toNat 39 6 * 64
  s.whenRunning (if (s.queue q).pushes.isEmpty then s.tailWrite q a else s.onQueue q fun x => { x with pushes := x.pushes ++ [.tail a] })

/-- A write to SEGPOOL, R281, R396 and R397. -/
def execSegpoolPush (w : Word) (s : State) : Out' :=
  let a := bits w.toNat 39 12 * 4096
  let s := if bits w.toNat 63 63 == 1 && s.boot.stage == 2#4 then { s with boot.segRej := false } else s
  s.whenRunning
    (if a == 0 then s
     else if 65536 ≤ s.boot.segs.length then { s with boot.segRej := true }
     else State.settlePool 2048 { s with boot.segs := s.boot.segs ++ [a] })

/-- A device append is made, R287 and R288: its record takes the tail slot, and a DIRECT kernel's token lands. -/
def State.makeAppend (s : State) (q : Nat) (a : Append) : State :=
  let s := (s.crownWrite (s.queue q).tailSlot (leBytes 64 a.record.toNat)).publish q 1
  (if (s.tctx a.tile a.urgent).group == some a.kernel then s.token a.tile a.urgent a.k 1 else s).reachTail q

/-- Whether a queue can take in an append: it is not stalled, and it has room below its cap (R284, R287). -/
def Queue.takes (x : Queue) : Bool := x.st != QState.stalled && x.count < x.cap

/-- The Crown takes in what a queue has received first, R287 and R288: a tail write, or an append when there is room. An append whose queue is unbound is
dropped, and so is one that no pop can make room for, since the queue's context is destroyed and its queues become unbound (R274). -/
def execQlaunchAppend (n : Nat) (s : State) : Out' :=
  let x := s.queue n
  let rest (l : List Push) : State := s.onQueue n fun x => { x with pushes := l }
  match x.pushes with
  | [] => s.done
  | .tail a :: l => ((rest l).tailWrite n a).done
  | .append a :: l => (if x.st == QState.unbound then rest l
    else if x.takes then (rest l).makeAppend n a
    else if (s.ctxt x.ctx).st == CtxtState.destroyed then rest l
    else s).done

/-! ### Images (R95 to R98) -/

/-- Bits hi:lo of an image's header. -/
def State.imageField (s : State) (a hi lo : Nat) : Nat := bits (s.viewNum a 64) hi lo

/-- A section table entry, R96. -/
def State.section (s : State) (a i : Nat) : Nat := s.viewNum (a + s.imageField a 319 256 + 32 * i) 32

/-- The sections of an image for one kind of context, with their numbers. -/
def State.sections (s : State) (a : Nat) (urgent : Bool) : List (Nat × Nat) :=
  ((List.range (s.imageField a 63 48)).map fun i => (i, s.section a i)).filter fun x => (bits x.2 192 192 == 1) == urgent

/-- The entry bundle address of a section for an entry vector; none when it has none (R96). -/
def State.entryOf (s : State) (a e sec : Nat) : Option Nat :=
  let v := s.viewNum (a + s.imageField a 383 320 + 4 * (e * s.imageField a 63 48 + sec)) 4
  if v == 0xFFFFFFFF then none else some v

/-- The required features a T8 lacks, R98. -/
def State.lacksFeature (s : State) (a : Nat) : Bool := s.imageField a 127 64 / 2 ^ 11 != 0

/-! ### The checks of a head (R283) -/

/-- A predecessor word without reserved bits, R282. -/
def predSound (w : Nat) : Bool := bits w 29 27 == 0 && bits w 31 30 != 3 && (bits w 31 30 != 1 || bits w 26 16 == 0)

/-- The predecessor words of a record, pred0 first. -/
def preds (r : Wide) : List Nat := (List.range 4).map fun i => fieldOf r (223 + 32 * i) (192 + 32 * i)

/-- A record's own fields, R282 and R283. -/
def recordFits (r : Wide) (ctx : Nat) : Bool :=
  let rows := fieldOf r 146 143
  let cols := fieldOf r 142 139
  fieldOf r 138 128 == 0 && fieldOf r 87 0 == 0 && fieldOf r 447 400 != 0 && fieldOf r 399 360 % 64 == 0 && fieldOf r 127 88 % 8 == 0
    && fieldOf r 159 154 == ctx && (preds r).all predSound
    && (if fieldOf r 147 147 == 1 then (rows == 1 || rows == 2 || rows == 4) && cols == 0 else 1 ≤ rows && rows ≤ 10 && 1 ≤ cols && cols ≤ 12)

/-- The image against the record, R283; every section of the record's kind must have the entry, with several urgent ones each of them (DESIGN CHOICE,
log 85). -/
def State.imageFits (s : State) (r : Wide) : Bool :=
  let a := fieldOf r 399 360
  let e := fieldOf r 191 176
  let urgent := fieldOf r 153 151 == 7
  let secs := s.sections a urgent
  s.imageField a 31 0 == 0x4D4E4C42 && s.imageField a 223 192 ≤ 65536
    && s.imageField a 135 128 == fieldOf r 147 147 && s.imageField a 143 136 == fieldOf r 146 143 && s.imageField a 151 144 == fieldOf r 142 139
    && e < s.imageField a 175 160 && !secs.isEmpty && secs.all fun x => (s.entryOf a e x.1).isSome

/-- The cause a head is retired with, R283; none when it passes. -/
def State.headFault (s : State) (r : Wide) (ctx : Nat) : Option Cause :=
  if !recordFits r ctx || !s.imageFits r || (fieldOf r 153 151 == 7 && !(s.ctxt ctx).urgent) then some .launchInvalid
  else if s.lacksFeature (fieldOf r 399 360) then some .featureAbsent
  else none

/-- The head record of a queue. -/
def State.headRecord (s : State) (q : Nat) : Wide := BitVec.ofNat 512 (s.viewNum (s.queue q).headSlot 64)

/-- Whether the Crown considers a queue's head now, R280 and R284 to R286: the queue is enabled, and its record was not pushed in this gcy. -/
def State.considers (s : State) (q : Nat) : Bool :=
  let x := s.queue q
  s.boot.crownEn && x.st == QState.enabled && x.en && x.count != 0 && x.pushed != some s.gcyc.toNat

/-- A head that has failed its checks is retired once its record is written, R283 and R377. -/
def State.retireHead (s : State) (q : Nat) (c : Cause) : State :=
  if s.queueUntold c q (s.queue q).headSeq then s else (s.writeDone (s.headRecord q) none (some c)).popHead q

/-- The Crown considers a head, R283 and R286: one that fails its checks is reported and retired, whether or not it is ready. -/
def execHeadConsider (q : Nat) (s : State) : Out' :=
  let x := s.queue q
  if !s.considers q || x.checked then s.done
  else match x.retiring with
    | some c => (s.retireHead q c).done
    | none => match s.headFault (s.headRecord q) x.ctx with
      | none => (s.onQueue q fun x => { x with checked := true }).done
      | some c => ((s.onQueue q fun x => { x with retiring := some c }).record x.ctx (queueRecord c q x.headSeq)).done

/-! ### Readiness (R251, R282, R286, R290) -/

/-- The end mark of a queue, R282: the sequence number of its oldest record that has not reached its end. -/
def Queue.mark (q : Queue) : BitVec 16 := q.live.head?.elim q.headSeq (·.2)

/-- A predecessor is satisfied, R282. -/
def State.predDone (s : State) (c w : Nat) : Bool :=
  match bits w 31 30 with
  | 1 => ((s.ctxt c).ct - BitVec.ofNat 16 w).toNat < 32768
  | 2 => let n := ((s.queue (bits w 26 16)).mark - BitVec.ofNat 16 w).toNat; 1 ≤ n && n ≤ 32768
  | _ => true

/-- Tickets of a context that have been issued and not passed, R291. -/
def Ctxt.liveTickets (x : Ctxt) : Nat := (x.next - x.ct - 1).toNat

/-- A candidate for selection: retry or head, its number. -/
abbrev Candidate := Bool × Nat

/-- The order of selection, R286 and R290: deadline, kernels in retry first, the one dispatched earlier, the queue number. -/
def State.before (s : State) (x y : Candidate) (rx ry : Wide) : Bool :=
  let dx := fieldOf rx 511 448
  let dy := fieldOf ry 511 448
  let disp (n : Nat) : Nat := (s.kernel n).elim 0 (·.disp)
  if dx != dy then dx < dy
  else match x.1, y.1 with
    | true, false => true
    | false, true => false
    | true, true => disp x.2 < disp y.2
    | false, false => x.2 < y.2

/-- Whether a kernel in retry in serial mode holds back a dispatch of its context that `own` asks for, R290: any but its own, and of several serial
retries, which the rule would have hold back each other, the first in the order of selection goes on (DESIGN CHOICE, log 92). -/
def State.holdsBack (s : State) (own : Nat) (serial : Bool) (k : Kernel) : Bool :=
  k.st == KState.retry && k.serial && k.id != own
    && !(serial && (s.kernel own).any fun o => !s.before (true, k.id) (true, own) k.record o.record)

/-- A context permits a dispatch, R251 and R290, and none while a STEP_WRITE rebases it (R248). `own` is the kernel in retry that asks. -/
def State.permits (s : State) (c : Nat) (direct stepdep serial : Bool) (own : Nat) : Bool :=
  let x := s.ctxt c
  let ks := s.crown.kernels.filter (·.ctx == c)
  (match x.st with
    | .ready | .active => true
    | _ => false)
    && (direct || (x.liveTickets < 256 && !s.roots.versions.any fun v => v.ctx == c && v.ticket == x.next.toNat))
    && (!stepdep || ks.all fun k => k.st == KState.retry)
    && (!serial || x.liveTickets == 0)
    && (vget s.crown.cwork c ⟨none, false, none, 0, []⟩).stepWrite.isNone
    && !ks.any (s.holdsBack own serial)

/-- DIRECT of R308: not when the record is step-dependent (R251). -/
def directRecord (r : Wide) : Bool := fieldOf r 149 149 == 1 && fieldOf r 150 150 == 0

/-- The record of a candidate that is ready, R286 and R290. -/
def State.readyRecord (s : State) (x : Candidate) : Option Wide :=
  if x.1 then
    (s.kernel x.2).bind fun k =>
      if s.boot.crownEn && k.st == KState.retry && s.permits k.ctx false k.stepdep k.serial k.id then some k.record else none
  else
    let q := s.queue x.2
    if s.considers x.2 && q.checked then
      let r := s.headRecord x.2
      if (preds r).all (s.predDone q.ctx) && s.permits q.ctx (directRecord r) (fieldOf r 150 150 == 1) false 0 then some r else none
    else none

/-! ### Placements (R314) -/

/-- A record's group at a place; its id is the kernel's. -/
def groupAt (r : Wide) (id : Nat) (p : Place) : Group where
  id := id
  ctx := fieldOf r 159 154
  urgent := fieldOf r 153 151 == 7
  whole := fieldOf r 147 147 == 1
  rows := fieldOf r 146 143
  cols := fieldOf r 142 139
  place := p
  cnt := 0
  st := .placing 0
  window := []
  pend := []
  pauseAt := none
  paused := false
  sync := none
  recorded := []
  saveSlot := none
  switchNo := 0

/-- A placement the table of R314 permits. -/
def Group.fits (g : Group) : Bool :=
  if g.whole then g.place.row == 0 && g.place.col == 0
      && (g.rows == 1 && g.place.die < 4 || g.rows == 2 && (g.place.die == 0 || g.place.die == 2) || g.rows == 4 && g.place.die == 0)
  else g.place.die < 4 && g.place.row + g.rows ≤ 10 && g.place.col + g.cols ≤ 12

/-- Tiles that a group holds; a switched-out group holds none (R337). -/
def Group.holds (g : Group) (t : Nat) : Bool := g.st != GState.switchedOut && g.has t

/-- Tiles promised to a dispatched kernel without a group, R286 and R316. -/
def Kernel.promised (k : Kernel) (t : Nat) : Bool :=
  k.st == KState.dispatching && k.target.any fun p => (groupAt k.record k.id p).has t

/-- Whether a tile is open to a group: for a main group no group holds it and none is promised it; for an urgent one no urgent group does,
and the main group on it may be paused (R11, R314, R334). A gated tile is woken (R316). -/
def State.open' (s : State) (urgent : Bool) (t : Nat) : Bool :=
  !(s.crown.groups.any fun h => h.holds t
      && (!urgent || h.urgent || (match h.st with
        | .running | .freezing _ | .frozen => (s.kernel h.id).any (·.inPlace)
        | _ => true)))
    && !s.crown.kernels.any fun k => k.promised t && (!urgent || (groupAt k.record k.id ⟨0, 0, 0⟩).urgent)

/-- Whether a selection is a candidate's. -/
def Selection.of (z : Selection) (x : Candidate) : Bool := z.retry == x.1 && z.n == x.2

/-- Whether a tile is kept from a candidate as the target of a selection, R286: for a waiting one those of the selections made before its own, so that of
two targets that overlap the older is kept free (DESIGN CHOICE, log 92). -/
def State.targeted (s : State) (x : Candidate) (t : Nat) : Bool :=
  (s.crown.sels.takeWhile fun z => !z.of x).any fun z => ((if z.retry then (s.kernel z.n).map (·.record) else some (s.headRecord z.n)).any
    fun r => (groupAt r 0 z.target).has t)

/-- A placement whose tiles are all open and outside the targets kept from it. -/
def State.placeable (s : State) (x : Candidate) (g : Group) : Bool := g.tiles.all fun t => s.open' g.urgent t && !s.targeted x t

/-- Every placement of a record's shape that R314 permits. -/
def placesOf (r : Wide) : List Place :=
  ((List.range 4).flatMap fun d => (List.range 10).flatMap fun a => (List.range 12).map fun b => (⟨d, a, b⟩ : Place)).filter
    fun p => (groupAt r 0 p).fits

/-- The class of a record, R282. -/
def classOf (r : Wide) : Nat := fieldOf r 153 151

/-- A candidate is selected: it waits already, or none that is ready and not waiting comes before it (R286). A record of class 7 keeps no selection while no
victim can be paused for it, and holds back no other then (DESIGN CHOICE, log 92). -/
def State.selected (s : State) (x : Candidate) (r : Wide) : Bool :=
  let waits (y : Candidate) : Bool := s.crown.sels.any (·.of y)
  let stands (y : Candidate) (ry : Wide) : Bool := classOf ry != 7 || (placesOf ry).any fun p => s.placeable y (groupAt ry 0 p)
  let others := (s.crown.kernels.map fun k => (true, k.id)) ++ (List.range 2048).map fun q => (false, q)
  waits x || !others.any fun y => y != x && !waits y && (s.readyRecord y).any fun ry => s.before y x ry r && stands y ry

/-! ### Dispatch (R289 to R291) -/

/-- A kernel's tiles that sleep are woken, R316. -/
def State.wakeTiles (s : State) (g : Group) : State :=
  s.push ((g.tiles.filter fun t => match (s.tile t).power with
    | .gating _ => true
    | .gated => true
    | _ => false).map fun t => .event (.tileWake t))

/-- A dispatch of a record in context `c`, R291: the kernel takes its ticket and its step view. -/
def State.startKernel (s : State) (k : Kernel) (p : Place) : State :=
  let x := s.ctxt k.ctx
  let ticket := if directRecord k.record then none else some x.next.toNat
  let k := { k with
    st := .dispatching
    ticket := ticket
    disp := s.gcyc.toNat
    stepView := if k.stepdep then x.step.toNat else 0
    target := some p }
  let s := s.onCtxt k.ctx fun x => { x with
    next := if ticket.isSome then x.next + 1 else x.next
    st := if x.st == CtxtState.ready then .active else x.st }
  let rest := s.crown.kernels.filter fun o => o.id != k.id
  { s with crown.kernels := rest ++ [k] }.wakeTiles (groupAt k.record k.id p)

/-- A kernel before its first dispatch, with the copies of R283. -/
def State.newKernel (s : State) (q : Nat) : Kernel × State :=
  let (id, s) := s.fresh
  let x := s.queue q
  let r := s.headRecord q
  ({ id := id, ctx := x.ctx, origin := (q, x.headSeq.toNat), record := r
     mbox := BitVec.ofNat 512 (s.viewNum (fieldOf r 359 320) 64)
     st := .dispatching, ticket := none, disp := 0, aborts := 0, serial := false, inPlace := false, wantsPlace := false
     cause := none, abortCode := none, escapes := [], advance := 0, stepView := 0, reads := [], writes := [], abortAt := 0
     target := none, sweep := none, told := false }, s)

/-- Whether a waiting record keeps its selection while it is not ready for a time, R286: its kernel is in retry, or its queue has it as its enabled head. -/
def State.stillSelected (s : State) (x : Candidate) : Bool :=
  if x.1 then (s.kernel x.2).any (·.st == KState.retry) else (s.queue x.2).st == QState.enabled && (s.queue x.2).en && (s.queue x.2).count != 0

/-- Whether a selection made at `since` may not take a tile as its target, R286: a group placed after it holds the tile, or it is promised to a kernel
dispatched after it; one of the same gcy counts as later (log 92). -/
def State.takenSince (s : State) (since t : Nat) : Bool :=
  s.crown.kernels.any fun k => since ≤ k.disp && (k.promised t || s.crown.groups.any fun h => h.id == k.id && h.holds t)

/-- A record is selected with a target, or the target of a waiting one moves (R286). -/
def State.select (s : State) (z : Selection) : State :=
  { s with crown.sels := if s.crown.sels.any (·.of (z.retry, z.n)) then s.crown.sels.map fun y => if y.of (z.retry, z.n) then z else y else s.crown.sels ++ [z] }

/-- A selected record is dispatched, R286 and R290, onto tiles that are open; where no placement is, one of class 0 to 6 keeps its selection and target. -/
def execKernelDispatch (y : Bool) (n : Nat) (p : Place) (s : State) : Out' :=
  match s.readyRecord (y, n) with
  | none => (if s.stillSelected (y, n) then s else { s with crown.sels := s.crown.sels.filter fun z => !z.of (y, n) }).done
  | some r =>
    let g := groupAt r 0 p
    if !g.fits || !s.selected (y, n) r then s.done
    else if s.placeable (y, n) g then
      let s := { s with crown.sels := s.crown.sels.filter fun z => !z.of (y, n) }
      if y then
        match s.kernel n with
        | some k => (s.startKernel k p).done
        | none => s.done
      else
        let (k, s) := s.newKernel n
        let s := s.onQueue n fun x => { x with live := x.live ++ [(k.id, x.headSeq)] }
        ((s.popHead n).startKernel k p).done
    else if classOf r == 7 || (placesOf r).any fun p' => s.placeable (y, n) (groupAt r 0 p') then s.done
    else
      match s.crown.sels.find? (·.of (y, n)) with
      | none => (s.select ⟨y, n, s.gcyc.toNat, p⟩).done
      | some z => (if g.tiles.any (s.takenSince z.since) then s else s.select { z with target := p }).done

end Sys2Proof.Machine
end

