-- ==== Sys2Proof/Machine/Kernel.lean ====
section
/-! DEFINITION. Kernels from their first bundle to their end (R289 to R313): captures and escapes, finishing, commits and sweeps, aborts and
retries, writing in place, budgets; and txstat. -/
namespace Sys2Proof.Machine

/-! ### Captures (R265, R287, R305, R312) -/

/-- The fields of an escape record, R312: data, length and destination. -/
def escFields (r : Wide) : List Byte × Nat × Word := (leBytes 48 (fieldOf r 511 128), fieldOf r 71 64, BitVec.ofNat 64 (fieldOf r 63 0))

/-- The checks of an escape record, R312 and R381. -/
def State.escSound (s : State) (c : Nat) (r : Wide) : Bool :=
  let (_, n, p) := escFields r
  fieldOf r 127 72 == 0 && n ≤ 48
    && (if ptrSpace p == 6 then ptrOff p + n ≤ (s.ctxt c).hwLim.toNat
        else ptrSpace p == 2 && ptrRank p != s.rank && ptrTile p < 480 && ptrOff p < 2 ^ 21 && ptrOff p + n ≤ 2 ^ 21)

/-- A failure of a posted write, R384 and R389: a fault of the tile while a DIRECT kernel runs, a record after a commit. -/
def State.postFault (s : State) (gid tile c : Nat) (ticket : Option Nat) : State :=
  if ticket.isNone && (s.group gid).isSome then s.tileFault gid tile .linkDown
  else s.record c { TqRec.plain .remoteError 0 ticket false with owner := gid }

/-- Posts one write of an escape to the host window or to another rank; none while the host link is down (R305, R382, R384). -/
def State.postWrite (s : State) (gid tile c : Nat) (ticket : Option Nat) (p : Word) (bs : List Piece) : Option State :=
  if bs.isEmpty then some s
  else if ptrSpace p == 6 then
    if s.pcieUp then some (s.emit (.hostWrite ((s.ctxt c).hwBase.toNat + ptrOff p) bs)) else none
  else match s.sendWrite c tile (ptrRank p) (ptrTile p) (ptrOff p) bs with
    | none => some (s.postFault gid tile c ticket)
    | some (port, s) =>
      let (id, s) := s.fresh
      some { s with links.reqs := s.links.reqs ++ [⟨id, none, none, c, ticket.getD 0xFFFF, port, s.gcyc.toNat, tile, if ticket.isNone then some gid else none⟩] }

/-- What an escape is still to perform after its first piece: a staged stream posts its writes one by one. -/
def EscKind.rest : EscKind → Option EscKind
  | .staged (_ :: w :: l) => some (.staged (w :: l))
  | _ => none

/-- Performs an escape, R305, or the first write of a staged stream; none where it must wait. A qlaunch record goes to its queue, or is dropped (R287). -/
def State.performEscape (s : State) (gid tile c : Nat) (urgent : Bool) (ticket : Option Nat) (w : EscKind) : Option State :=
  match w with
  | .post p bs => s.postWrite gid tile c ticket p (bs.map Piece.whole)
  | .staged ws => ws.head?.elim (some s) fun w => s.postWrite gid tile c ticket w.1 w.2
  | .launch q r k =>
    let x := s.queue q
    if x.st == QState.unbound || x.ctx != c then some s
    else some (s.onQueue q fun x => { x with pushes := x.pushes ++ [.append ⟨r, gid, tile, urgent, if ticket.isSome then 63 else k⟩] })

/-- Hands a sampled record over, R305; in bring-up, without a kernel, it is performed at once (R397). A transactional qlaunch sends its token
once it is captured (R287). -/
def State.handOver (s : State) (t : Nat) (u : Bool) (id : Nat) (w : EscKind) : State :=
  match s.groupOf t u, s.kernelOf t u with
  | some g, none => (s.performEscape g.id t g.ctx u none w).getD s
  | _, some k =>
    let (got, s) := s.capture k.id id w
    match w with
    | .launch _ _ kd => if got && k.ticket.isSome then s.token t u kd 1 else s
    | _ => s
  | none, none => s

/-- An esc that fails its checks stages nothing, R312. -/
def State.dropEscape (s : State) (t : Nat) (u : Bool) (id : Nat) : State :=
  (s.kernelOf t u).elim s fun k => s.onKernel k.id fun n => { n with escapes := n.escapes.filter (·.id != id) }

/-- A capture or a stepadv at its cycle, R265, R287 and R312; a WATCH on the record's word sees the access (R326). -/
def State.sampleAct (s : State) (t : Nat) (u : Bool) (a : Act) : State :=
  let watch (s : State) (off : Nat) : State :=
    if (s.tctx t u).watches (ptrOwn off) true false then s.raise t u .debugWatch (ptrOwn off) a.pc a.slot else s
  match a.kind with
  | .stepadv n => (s.kernelOf t u).elim s fun k => s.onKernel k.id fun k => { k with advance := k.advance + n.toNat }
  | .esc off _ id =>
    let r := BitVec.ofNat 512 (leNat (s.readLoc (.spad t off) 64))
    let s := watch s off
    if s.badLoc (.spad t off) 64 then (s.dropEscape t u id).spoilCore t u
    else if !s.escSound (s.ctxOf t u) r then (s.dropEscape t u id).raise t u .escInvalid 0#64 a.pc a.slot
    else
      let (data, n, p) := escFields r
      s.handOver t u id (.post p (data.take n))
  | .qlaunch q k off id =>
    if s.badLoc (.spad t off) 64 then (s.dropEscape t u id).spoilCore t u
    else (watch s off).handOver t u id (.launch q (BitVec.ofNat 512 (leNat (s.readLoc (.spad t off) 64))) k)
  | _ => s

/-! ### Performing escapes (R298, R305) -/

/-- Escape order, R305. -/
def Escape.before (x y : Escape) : Bool := x.cyc < y.cyc || x.cyc == y.cyc && (x.tile < y.tile || x.tile == y.tile && x.ord < y.ord)

/-- The first escape of a list in a given order. -/
def firstEscape (lt : Escape → Escape → Bool) (l : List Escape) : Option Escape :=
  l.foldl (fun m e => match m with
    | none => some e
    | some x => if lt e x then some e else some x) none

/-- An escape whose capture is complete. -/
def Escape.ready (e : Escape) : Bool := e.what.isSome && !e.held

/-- Appends of a kernel, or of one of its tiles, that the Crown has still to make. -/
def State.appending (s : State) (k : Nat) (tile : Option Nat) : Bool :=
  s.crown.queues.toList.any fun q => q.pushes.any fun p => match p with
    | .append a => a.kernel == k && tile.all (· == a.tile)
    | .tail _ => false

/-- Whether ticket u is older than ticket v, R291: the live tickets follow CT in their order, and the committed ones lie before them. -/
def Ctxt.older (x : Ctxt) (u v : Nat) : Bool := (BitVec.ofNat 16 u - x.ct - 1).slt (BitVec.ofNat 16 v - x.ct - 1)

/-- The queue an escape launches into. -/
def Escape.queue (e : Escape) : Option Nat :=
  match e.what with
  | some (.launch q _ _) => some q
  | _ => none

/-- The escape a kernel performs next, R298, R304, R305 and R308. A kernel with a ticket performs none before every escape of the commits before it. A
committing kernel performs its escapes in escape order, after the sweep; one that writes in place performs them as they are captured, after those staged
before; a DIRECT kernel in escape order on each tile, and in issue order on each queue. -/
def State.nextEscape (s : State) (k : Kernel) : Option Escape :=
  let pending := k.escapes.filter Escape.ready
  let waits := s.appending k.id none || s.crown.kernels.any fun o => o.ctx == k.ctx && o.st == KState.committing && o.ticket.isSome
    && (s.ctxt k.ctx).older (o.ticket.getD 0) (k.ticket.getD 0)
  if k.ticket.isNone then
    firstEscape Escape.before (pending.filter fun e =>
      !k.escapes.any (fun o => o.tile == e.tile && o.before e) && !s.appending k.id (some e.tile)
        && !pending.any fun o => e.queue.isSome && o.queue == e.queue && o.before e)
  else if waits then none
  else if k.st == KState.committing then if k.sweep.isSome then none else firstEscape Escape.before pending
  else if k.inPlace && (k.st == KState.running || k.st == KState.finished) then
    firstEscape (fun x y => (x.early && !y.early) || (x.early == y.early && x.before y)) pending
  else none

/-- A kernel whose sweep and escapes are all performed is committed, R298 and R308, once the records of its escapes that failed are written (R377). -/
def State.tryEnd (s : State) (id : Nat) : State :=
  match s.kernel id with
  | none => s
  | some k =>
    let ended := k.st == KState.committing || (k.st == KState.finished && k.ticket.isNone)
    if ended && k.escapes.isEmpty && k.sweep.isNone && !s.appending id none && !s.untold k.ctx id then s.endKernel k none else s

/-- An escape whose next piece has been performed leaves its kernel, or keeps the pieces left. -/
def Kernel.performed (n : Kernel) (e : Escape) (w : EscKind) : Kernel :=
  { n with escapes := match w.rest with
    | none => n.escapes.filter (·.id != e.id)
    | some r => n.escapes.map fun y => if y.id == e.id then { y with what := some r } else y }

/-- A kernel's next escape is performed, R305; with none left the kernel is committed and its done doubleword written. While a REMOTE_ERROR record of it
waits for room nothing more is (R377). -/
def execEscapesPerformed (k : Nat) (s : State) : Out' :=
  match s.kernel k with
  | none => s.done
  | some n =>
    match s.nextEscape n with
    | none => (s.tryEnd k).done
    | some e =>
      let w := e.what.getD (.post 0#64 [])
      if s.untold n.ctx k then s.done
      else match s.performEscape k e.tile n.ctx (fieldOf n.record 153 151 == 7) n.ticket w with
        | none => s.done
        | some s => ((s.onKernel k fun n => n.performed e w).tryEnd k).done

/-! ### Finishing (R297, R310) -/

/-- The operations of R297 of a group, with reports on their way to it (log 27). -/
def State.groupBusy (s : State) (g : Group) : Bool :=
  s.traffic.streams.any (·.group == g.id) || s.traffic.toks.any (·.group == g.id) || s.traffic.reloads.any (·.group == g.id)
    || s.traffic.faults.any (·.group == g.id) || s.crown.bReqs.any (fun r => r.group == g.id && r.queued)
    || s.links.reqs.any (·.group == some g.id) || g.tiles.any (fun t => !(s.tctx t g.urgent).cmdq.isEmpty)
    || (s.kernel g.id).any fun k => k.escapes.any fun e => !e.ready

/-- Every tile has ended and nothing is outstanding: the group is released, R310. -/
def execKernelFinish (k : Nat) (s : State) : Out' :=
  match s.kernel k, s.group k with
  | some n, some g =>
    if n.st == KState.running && g.st == GState.running && !g.paused && g.window.isEmpty && g.pend.isEmpty
        && g.tiles.all (fun t => (s.tctx t g.urgent).flow.ended.isSome) && !s.groupBusy g then
      (((s.releaseGroup k).onKernel k fun n => { n with st := .finished, target := none }).tryEnd k).done
    else s.done
  | _, _ => s.done

/-! ### Commit (R292, R298, R260 to R262) -/

/-- One pass a gcy, R292. -/
def State.mayPass (s : State) (c : Nat) : Bool := (vget s.crown.cwork c ⟨none, false, none, 0, []⟩).lastPass != some s.gcyc.toNat

/-- A ticket is passed, R292. -/
def State.passTicket (s : State) (c ticket : Nat) : State :=
  { s.onCtxt c (fun x => { x with ct := BitVec.ofNat 16 ticket }) with
    crown.cwork := vmod s.crown.cwork c fun w => { w with lastPass := some s.gcyc.toNat } }

/-- Live kernels of a context that have read one of the panels abort with TX_CONFLICT, R298. -/
def State.conflict (s : State) (k : Kernel) (panels : List Nat) : State :=
  (s.crown.kernels.filter fun o => o.ctx == k.ctx && o.id != k.id && o.ticket.isSome && o.st != KState.committing && o.reads.any panels.contains).foldl
    (fun s o => s.abort o.id .txConflict) s

/-- Whether a kernel's ticket is the next to pass, R291. -/
def State.isNext (s : State) (k : Kernel) : Bool := k.ticket == some ((s.ctxt k.ctx).ct + 1).toNat

/-- The pass of a kernel's ticket with its commit, R298: CT and STEP move, its versions become the newest, its record counts as committed (R282), and the
sweep takes the ringed tensors as the commit leaves them (R260). -/
def State.passCommit (s : State) (k : Kernel) : State :=
  let p := (s.ctxt k.ctx).step.toNat
  let t := k.ticket.getD 0
  let mine (v : Version) : Bool := v.ctx == k.ctx && v.ticket == t
  let s := (s.passTicket k.ctx t).onCtxt k.ctx fun x => { x with step := BitVec.ofNat 48 (p + k.advance) }
  let s := { s with roots.versions := s.roots.versions.filter (fun v => !mine v) ++ s.roots.versions.filter mine }
  let s := (s.onKernel k.id fun n => { n with st := .committing }).endRecord k
  s.onKernel k.id fun n => { n with sweep := (crossed p k.advance).map fun b => ⟨s.ringedTensors k.ctx, b, 0⟩ }

/-- The rule of the sweep that a commit's pass stands for. -/
def Pass.sweep (p : Pass) (h stamp : Nat) : Rebase := sweepRule h p.goal stamp

/-- The commit of a finished kernel, R298: the pass, and the conflicts with what it has written and its sweep will write. -/
def execCommitPass (k : Nat) (s : State) : Out' :=
  match s.kernel k with
  | none => s.done
  | some n =>
    if n.st != KState.finished || !s.isNext n || !s.mayPass n.ctx then s.done
    else
      let s := s.passCommit n
      let swept := ((s.kernel k).bind (·.sweep)).elim [] fun p => s.passPanels p.sweep p
      ((s.conflict n (n.writes ++ swept)).tryEnd k).done

/-- A sweep goes on, R260 to R262: it holds where a page is missing; an error is fatal to the context, an integrity error as SWEEP_ERROR. -/
def execSweepDone (c : Nat) (s : State) : Out' :=
  match s.crown.kernels.find? fun k => k.ctx == c && k.sweep.isSome with
  | none => s.done
  | some k =>
    let p := k.sweep.getD ⟨[], 0, 0⟩
    let left (s : State) (l : Option Pass) : State := s.onKernel k.id fun k => { k with sweep := l }
    match s.runPass c (k.ticket.getD 0xFFFF) p.sweep p with
    | (_, .ok _ s) => ((left s none).tryEnd k.id).done
    | (n, .wait s) => (left s (some { p with past := n })).done
    | (_, .fault f s) => (((left s none).fatalEvent c (if f == .integrity then .sweepError else f) k.ticket).tryEnd k.id).done

/-- A Root settles a committed version of ticket `n` on line `l`, R295: the newest is copied, an older one only freed. -/
def execVersionSettle (l n : Nat) (s : State) : Out' :=
  let vs := s.roots.versions.filter fun v => v.line == l && s.committed v
  match vs.find? fun v => v.ticket == n with
  | none => s.done
  | some v => (if vs.getLast? == some v then (s.settleCopy l).2 else { s with roots.versions := s.roots.versions.filter (· != v) }).done

/-- The ticket of an aborted kernel is passed, R292. -/
def execAbandonedTicketPass (c : Nat) (s : State) : Out' :=
  let x := s.ctxt c
  let t := (x.ct + 1).toNat
  if x.liveTickets == 0 || !s.mayPass c || s.crown.kernels.any (fun k => k.ctx == c && k.ticket == some t) then s.done
  else (s.passTicket c t).done

/-! ### Abort (R299 to R302) -/

/-- A group stops for good, R300 and R339: its snapshots, streams and schedules are discarded. -/
def State.stopGroup (s : State) (id : Nat) : State :=
  match s.group id with
  | none => s
  | some g =>
    let s := s.dropTraffic id
    if g.st == GState.switchedOut then s
    else
      let s := g.tiles.foldl (fun s t => s.onCtx t g.urgent fun c =>
        { c with inflight := [], snap := [], acts := [], kept := [], cmdq := [], flow := { c.flow with handler := none, ereting := false } }) s
      s.onGroup id fun g => { g with st := .frozen, pend := [], pauseAt := none, sync := none }

/-- An abort cause stops the group and the kernel's streams, R300; for a kernel that writes in place any cause but KILL is fatal to its context
(R304). -/
def execKernelAbort (k : Nat) (s : State) : Out' :=
  match s.kernel k with
  | none => s.done
  | some n =>
    if n.st != KState.aborting then s.done
    else ((if n.inPlace && n.cause != some .kill then s.fatalEvent n.ctx .serialFault n.ticket else s).stopGroup k).done

/-- Causes whose abort writes no record of its own: R413, and those R414's outcome has none for (log 14). -/
def silentCause : Cause → Bool
  | .budget | .kill | .txConflict | .sapFull => true
  | _ => false

/-- The record of an abort that no disposition has written, R323 and R377. -/
def State.abortRecord (s : State) (k : Kernel) (c : Cause) : TqRec :=
  let fatal := k.final c
  let ticket := k.ticket.getD 0xFFFF
  match ((s.group k.id).elim [] (·.window)).find? (·.cause == c), (if c == .userAbort then k.abortCode else none) with
  | some r, some (code, tile) => ⟨c, BitVec.ofNat 64 (code % 2 ^ 11), 0, ticket, r.fpc, r.slot, tile, fatal, false, k.id⟩
  | some r, none => ⟨c, r.info, 0, ticket, r.fpc, r.slot, r.tile, fatal, false, k.id⟩
  | none, some (code, tile) => ⟨c, BitVec.ofNat 64 (code % 2 ^ 11), 0, ticket, 0x3FFFF, 0xFF, tile, fatal, false, k.id⟩
  | none, none => ⟨c, 0#64, 0, ticket, 0x3FFFF, 0xFF, 0x1FF, fatal, false, k.id⟩

/-- An abort's discard, R301, and what follows it, R302 and R308. -/
def State.discard (s : State) (k : Kernel) (c : Cause) : State :=
  let s := s.releaseGroup k.id
  let s := if k.inPlace then s else { s with roots.versions := s.roots.versions.filter fun v => !(v.ctx == k.ctx && some v.ticket == k.ticket) }
  if k.final c then s.endKernel k (some c)
  else
    (s.onKernel k.id fun k => { k with
      st := .retry, ticket := none, aborts := k.aborts + 1, serial := k.field 167 160 ≤ k.aborts + 1, wantsPlace := false
      cause := none, abortCode := none, escapes := [], advance := 0, reads := [], writes := [], target := none, told := false }).settleContext k.ctx

/-- The discard of an aborted kernel is complete, R301, in a later gcy than that of its cause, which the causes of one gcy decide together (R299, R307); the
Crown first writes the record of its cause, where it has one (R377). -/
def execAbortDiscardDone (k : Nat) (s : State) : Out' :=
  match s.kernel k with
  | none => s.done
  | some n =>
    match n.st, n.cause with
    | .aborting, some c =>
      if s.gcyc.toNat ≤ n.abortAt then s.done
      else if !n.told && !silentCause c then ((s.record n.ctx (s.abortRecord n c)).onKernel k fun n => { n with told := true }).done
      else if s.untold n.ctx k then s.done
      else (s.discard n c).done
    | _, _ => s.done

/-! ### Writing in place and budgets (R303 to R307) -/

/-- A kernel that waits begins to write in place, R304: its versions stand as committed ones do, and settle; its held writes and captures go on, and it is
irrevocable from here on. -/
def State.goInPlace (s : State) (n : Kernel) : State :=
  let mine (v : Version) : Bool := v.ctx == n.ctx && some v.ticket == n.ticket
  let s := { s with roots.versions := s.roots.versions.filter (fun v => !mine v) ++ s.roots.versions.filter mine }
  let s := n.escapes.foldl (fun s e => match e.what, e.held with
    | some (.launch _ _ kd), true => s.token e.tile (n.field 153 151 == 7) kd 1
    | _, _ => s) s
  let waits (h : Hold) : Bool := h.place && match h.what with
    | .elem x _ _ => (s.stream x).any (·.group == n.id)
    | _ => false
  let s := { s with roots.holds := s.roots.holds.map fun h => if waits h then { h with woken := true } else h }
  s.onKernel n.id fun n => { n with inPlace := true, wantsPlace := false, escapes := n.escapes.map fun e => { e with held := false, early := e.ready } }

/-- write in place start, R304: the kernel's ticket is next, and no sweep of an earlier commit runs. -/
def execWriteInPlaceStart (k : Nat) (s : State) : Out' :=
  match s.kernel k with
  | none => s.done
  | some n =>
    if n.st != KState.running || n.inPlace || !n.wantsPlace || !s.isNext n || s.crown.kernels.any (fun o => o.ctx == n.ctx && o.sweep.isSome) then s.done
    else (s.goInPlace n).done

/-- Whether a budget still ends a kernel, R306: it has neither finished nor passed its commit. One that another cause of the same gcy has made aborting
takes the higher cause (R299). -/
def KState.budgeted : KState → Bool
  | .dispatching | .running | .aborting => true
  | .finished | .committing | .retry => false

/-- Whether this is the gcy in which a kernel's budget ends. -/
def State.budgetEnds (s : State) (n : Kernel) : Bool := n.st.budgeted && s.gcyc.toNat == n.disp + n.field 447 400

/-- The budget of a kernel ends, R306. -/
def execBudgetExpire (k : Nat) (s : State) : Out' :=
  match s.kernel k with
  | none => s.done
  | some n => (if s.budgetEnds n then s.abort k .budget else s).done

/-! ### txstat (R313) -/

/-- The pool lines held now, by context and ticket. -/
def State.heldLines (s : State) : List (Nat × Nat) := s.roots.versions.map fun v => (v.ctx, v.ticket)

/-- Notes the pool lines held when they have changed, and forgets what lies more than 256 gcy back (R313). -/
def State.countPool (s : State) : State :=
  let now := s.gcyc.toNat
  let l := s.roots.counted
  let l := if l.head?.map (·.2) == some s.heldLines then l else (now, s.heldLines) :: l
  let recent := l.takeWhile fun x => now < x.1 + 256
  { s with roots.counted := l.take (recent.length + 1) }

/-- The lines held at some gcy of the last 256 (which is a free value, log 5), R313. -/
def State.pastLines (s : State) : List (Nat × Nat) × State :=
  let s := s.countPool
  let (n, s) := s.freeNat
  let l := s.roots.counted
  (((l.drop (n % l.length)).head?.map (·.2)).getD s.heldLines, s)

/-- txstat, R313; a tile in bring-up reads as under a DIRECT kernel. -/
def execTxstat (d : Fin 64) (n : Fin 8) (s : State) : Out' :=
  s.notInHandler <| s.ifRoom d
    (let c := s.ctxOf s.cur.tile s.cur.urgent
     let k := s.myKernel
     let b (i : Nat) (f : Kernel → Bool) : Nat := if k.any f then 2 ^ i else 0
     let (past, s) := s.pastLines
     let v : Nat := match n.val with
       | 0 => (k.bind (·.ticket)).getD 0x10000
       | 1 => (s.ctxt c).ct.toNat
       | 2 => b 0 (·.ticket.isSome) + b 1 (·.serial) + b 2 (·.inPlace) + b 3 (·.stepdep) + b 4 fun k => k.field 148 148 == 1
       | 3 => k.elim 0 (·.aborts)
       | 4 => k.elim 0 fun k => if k.ticket.isSome then k.stagedNow else 0
       | 5 => (past.filter fun x => x.1 == c && k.any fun k => k.ticket == some x.2).length
       | 6 => k.elim 0 fun k => k.disp + k.field 447 400 - s.gcyc.toNat
       | _ => s.poolLines c - (past.filter (·.1 == c)).length
     (s.resultX 2 d (BitVec.ofNat 64 v)).done)

end Sys2Proof.Machine
end

