-- ==== Sys2Proof/Machine/Readback.lean ====
section
/-! DEFINITION. The readback image of a tile and its save slot (R337, R338, R402): bytes by offset, and the state they give back. The order of the
areas and the places of registers are R337's and R402's; what those leave open of the packing is this model's (log 28). -/
namespace Sys2Proof.Machine

/-! ### Packing -/

/-- Doublewords as bytes. -/
def packWords (l : List Nat) : List Byte := l.flatMap (leBytes 8)

/-- A list of bytes filled up with zeros to `n`. -/
def padTo (n : Nat) (l : List Byte) : List Byte := l.take n ++ List.replicate (n - l.length) 0#8

/-- A wait as three words (R50). -/
def packWait : Option Wait → List Nat
  | none => [0, 0, 0]
  | some (.waitk k n) => [1, k.val, n]
  | some (.fence l) => [2, l.foldl (fun a k => a * 64 + k.val) 0, l.length]
  | some (.barw b d) => [3, b.val, d.toNat]
  | some (.syncg n) => [4, n, 0]
  | some (.stopped c) => [5, c.toNat, 0]

/-- The fetch state: the next bundle, a pending branch, the wait, the cycle of end plus one, the issue order, and the loops. -/
def packFetch (f : Flow) : List Byte :=
  let x := f.fetch
  packWords ([x.pc, x.br.elim 0 fun b => 1 + b.left, (x.br.bind (·.target)).elim (2 ^ 64 - 1) id] ++ packWait f.wait
    ++ [f.ended.elim 0 (· + 1), f.ord, x.loops.length] ++ x.loops.flatMap fun l => [l.lc.val, l.first, l.last])

/-- The numbers of the per-context control registers, R326. -/
def ctxCregs : List Nat := [0x000, 0x001, 0x002, 0x009, 0x00A, 0x010, 0x011, 0x012, 0x013, 0x014, 0x015, 0x018, 0x020, 0x021, 0x022]

/-- The register area of a hardware context, offset 0x1E_0000: x, p, v, vm, lc, w, mailbox, fetch state and control registers. -/
def State.packRegs (s : State) (t : Nat) (u : Bool) : List Byte :=
  let c := s.tctx t u
  let r := c.regs
  padTo 576 (packWords (r.x.toList.map (·.toNat)) ++ r.p.toList.map fun b => if b then 1#8 else 0#8)
    ++ (r.v.toList.flatMap fun v => leBytes 64 v.toNat)
    ++ (r.vm.toList.flatMap fun v => leBytes 2 v.toNat)
    ++ padTo 48 (r.lc.toList.flatMap fun v => leBytes 4 v.toNat)
    ++ (r.w.toList.flatMap fun v => leBytes 64 v.toNat)
    ++ (r.mb.toList.flatMap fun v => leBytes 4 v.toNat)
    ++ padTo 320 (packFetch c.flow)
    ++ packWords (ctxCregs.map fun n => (s.readCreg t u n).toNat)

/-- A number that may be absent: whether it is there, and `n` bytes of it. -/
def packOpt (n : Nat) (v : Option Nat) : List Byte := leBytes 1 (if v.isSome then 1 else 0) ++ leBytes n (v.getD 0)

/-- Flags as bytes, the first in bit 0. -/
def packFlags (l : List Bool) : List Byte := leBytes (cdiv l.length 8) (l.foldr (fun b n => (if b then 1 else 0) + 2 * n) 0)

/-- A latched index record: its base, counts and strides, the fields of it that speak (R154, R410); without one, zeros. -/
def packIndex (w : Option Wide) : List Byte := w.elim (padTo 40 []) fun w => leBytes 8 (wBase w).toNat ++ leBytes 32 (fieldOf w 383 128)

/-- What a stream's command has latched, 228 bytes: its operation, kdone, mode, the out ports whose whorl has disarmed since its issue (R154), issue
cycle, identifier, walk records and index records. -/
def packLatched (closed : Vector Nat 8) (x : Stream) : List Byte :=
  leBytes 1 (x.op.ctorIdx + 1) ++ leBytes 1 x.kdone.val ++ leBytes 1 x.mode.val
    ++ packFlags ((List.range 8).map fun k => x.marks.getD k 0 < vget closed k 0)
    ++ leBytes 8 x.iss ++ leBytes 8 x.id ++ leBytes 64 x.src.toNat ++ leBytes 64 x.dst.toNat ++ packIndex x.srcIdx ++ packIndex x.dstIdx

/-- A command-queue entry, 248 bytes: its kind, a counter, its place in the issue order and what it names; a stream with what its command has latched. -/
def packCmd (closed : Vector Nat 8) (xs : List Stream) (c : QCmd) : List Byte :=
  let entry (kind k : Nat) (l : List Byte) : List Byte := padTo 248 (padTo 8 (leBytes 1 kind ++ leBytes 1 k) ++ leBytes 8 c.ord ++ l)
  match c.kind with
  | .stream id k => entry 1 k.val ((xs.find? (·.id == id)).elim [] (packLatched closed))
  | .tok t r k n => entry 2 k.val (packWords [t, r.elim 1024 id, n])
  | .tdsync t k => entry 3 k.val (packWords [t])
  | .bars b w n => entry 4 b.val (packWords [w, n])

/-- The token counters, the command queue and the ring table, offset 0x1E_6000. -/
def State.packQueues (s : State) (t : Nat) (u : Bool) : List Byte :=
  let c := s.tctx t u
  (c.regs.k.toList.flatMap fun v => leBytes 4 v.toNat)
    ++ padTo 15872 (c.cmdq.flatMap (packCmd (s.tile t).cn.closed (s.streamsOf t u)))
    ++ padTo 256 (c.rings.flatMap fun r => packWords [r.base.toNat, r.cap, r.written, r.released])

/-- Where a walk stands, 54 bytes. -/
def packCursor (c : Cursor) : List Byte :=
  leBytes 4 c.i3 ++ leBytes 4 c.i2 ++ leBytes 4 c.i1 ++ leBytes 4 c.i0 ++ packOpt 4 c.idx ++ leBytes 16 c.taken ++ leBytes 16 c.count
    ++ packFlags [c.fin, c.opened]

/-- The width of what a stream packs into a word: 32 bits into a port, and its elements' into a ring (R155, R159). -/
def Stream.packWidth (x : Stream) : Nat := if wEnd x.dst == 3 then 32 else x.width

/-- An element that an engine has read and not written, 42 bytes: its bits, its segment's length, its word's soundness, its rows and the places it has still to
go to. -/
def packElem (x : Stream) (b : BufElem) : List Byte :=
  leBytes 8 b.val ++ packOpt 16 b.seg ++ packFlags [b.bad] ++ leBytes 1 b.rows.toNat ++ padTo 15 (packFlags (x.places.map b.left.contains))

/-- A stream's resume state, 680 bytes. -/
def packStream (closed : Vector Nat 8) (x : Stream) : List Byte :=
  padTo 680 (packLatched closed x ++ leBytes 8 x.ord ++ packCursor x.srcCur ++ packCursor x.dstCur
    ++ leBytes 16 x.readTo ++ leBytes 16 x.wroteTo ++ leBytes 16 x.words ++ leBytes 16 x.segLeft ++ packOpt 16 x.pre ++ packOpt 16 x.total
    ++ packFlags [x.readTok, x.foul, x.spent] ++ leBytes 1 x.tags.toNat
    ++ leBytes 1 x.pack.length ++ leBytes 64 (x.pack.foldr (fun v a => v + a * 2 ^ x.packWidth) 0)
    ++ leBytes 1 (min 4 x.buf.length) ++ (x.buf.take 4).flatMap (packElem x))

/-- The engines of a tile, 680 bytes each, offset 0x1E_A000. -/
def State.packEngines (s : State) (t : Nat) (u : Bool) : List Byte :=
  (List.range 12).flatMap fun e =>
    padTo 680 (((s.streamsOf t u).find? (·.engine == some (if u then e + 12 else e))).elim [] (packStream (s.tile t).cn.closed))

/-- What a reduction has so far, from a part and further elements, 42 bytes (R215, R216, R223): of a floating-point add the exact sum of the finite terms, a
multiple of 2^-149 in 40 bytes of two's complement, and which terms there are; otherwise the value, whether there is one, and whether a signalling NaN was among
its elements. -/
def packPart (t : LaneT) (fn : Nat) (p : Part) (es : List Nat) : List Byte :=
  match fn, laneFmt t with
  | 0, some f =>
    let l := p.terms ++ es.map f.val
    let nums := l.filter fun v => !v.isNan && !v.isInf
    let sum : Int := nums.foldl (fun a v => a + v.units (-149)) 0
    leBytes 40 (sum % 2 ^ 320).toNat
      ++ padTo 2 (packFlags [!nums.isEmpty, nums.all FVal.isNeg, l.any fun v => v.isNan && !v.isSnan, l.any FVal.isSnan,
        l.any (fun v => v.isInf && !v.isNeg), l.any fun v => v.isInf && v.isNeg])
  | _, f =>
    let l := p.codes ++ es
    padTo 42 (leBytes 4 (if l.isEmpty then 0 else (reduceFn t fn l).1) ++ packFlags [!l.isEmpty, f.any fun f => f.anySnan l])

/-- The lanes that have been active in the words read so far. -/
def UState.seen (st : UState) : BitVec 16 := st.hist.foldl (fun m h => m ||| h.2.1.act) st.past.act

/-- The values a lane has in the words of `hist`. -/
def UState.laneOf (st : UState) (i : Nat) : List Nat := (st.hist.filter fun h => h.2.1.act.getLsbD i).map fun h => lane h.2.1.val i

/-- Lanes with their active flags, 66 bytes. -/
def packLanesOf (l : Lanes) : List Byte := leBytes 64 l.val.toNat ++ leBytes 2 l.act.toNat

/-- A reduction lane by lane, 678 bytes: the words read so far, the lanes active in them, and what each lane has. -/
def packLanewise (t : LaneT) (fn : Nat) (st : UState) : List Byte :=
  leBytes 4 (st.past.n + st.hist.length) ++ leBytes 2 st.seen.toNat ++ (List.range 16).flatMap fun i => packPart t fn (st.past.part i) (st.laneOf i)

/-- A reduction of all lanes together, 42 bytes. -/
def packWhole (t : LaneT) (fn : Nat) (st : UState) : List Byte := packPart t fn (st.past.part 0) (st.hist.flatMap fun h => h.2.1.active)

/-- What a unit carries from one firing to the next, by kind (R215 to R223, R231): an MXQ the word before the one it reads next. -/
def packUnit (r : Wide) (u : Nat) (st : UState) : List Byte :=
  let op := rOp r
  match kindOf u with
  | .acc => if op % 4 == 3 then packLanesOf st.word else if bits op 5 5 == 1 then packLanewise (opType op) (op % 4) st else packWhole (opType op) (op % 4) st
  | .scan => packWhole (opType op) (op % 2) st
  | .rep => if op == 0 then leBytes 4 st.cnt ++ packLanesOf st.word else packLanewise .f32 0 st
  | .mxq => let h := st.hist.getLast?.elim (Lanes.none, Lanes.none) (·.2); packLanesOf h.1 ++ packLanesOf h.2
  | .index => leBytes 4 st.base.toNat ++ leBytes 4 st.ext.toNat
  | _ => []

/-- An armed whorl, R235: what it is, segment counter and length, rounds, firings, gating phases and what its units carry. -/
def packWhorl (cn : Canopy) (w : Whorl) : List Byte :=
  let us := cn.enabled w.ctx w.rows
  leBytes 8 w.id ++ leBytes 4 w.pc ++ leBytes 4 w.slot ++ leBytes 1 w.ctx.val ++ leBytes 1 w.rows.toNat ++ padTo 2 (packFlags [w.dead])
    ++ leBytes 16 w.seg ++ leBytes 16 w.len ++ leBytes 8 w.round ++ leBytes 8 w.fired
    ++ (gatedPorts us).flatMap (fun (_, u) => leBytes 4 ((w.gate.find? (·.1 == u)).elim 0 (·.2)))
    ++ us.flatMap fun (u, r) => packUnit r u (w.unitState u)

/-- The first of some whorls that fit one behind the other into `room` bytes, with their bytes. -/
def packWhorls (cn : Canopy) : Nat → List Whorl → List (List Byte)
  | _, [] => []
  | room, w :: l => let b := packWhorl cn w; if b.length ≤ room then b :: packWhorls cn (room - b.length) l else []

/-- The whorls of a hardware context. -/
def Canopy.whorlsOf (cn : Canopy) (u : Bool) : List Whorl := cn.whorls.filter fun w => (w.ctx == 11) == u

/-- Whether a word of a port belongs to a hardware context. -/
def CWord.mine (w : CWord) (u : Bool) : Bool := if u then w.rows &&& 0xF0#8 != 0#8 else w.rows &&& 0x0F#8 != 0#8

/-- The Canopy of a hardware context, offset 0x1E_C000 (R235): its records, its TABLE tables, masks, fed ports, whorls disarmed by out port, how many words
each port holds, 24,288 bytes in all, and the number of whorls; then the words of the out ports and of the in ports, and the armed whorls, each behind the other,
as far as the 65,536 bytes of R337's area go (log 28). -/
def packCanopy (cn : Canopy) (u : Bool) : List Byte :=
  let cs := if u then [11] else List.range 11
  let ports (p : Vector (List CWord) 8) : List (List CWord) := p.toList.map (·.filter (·.mine u))
  let words := (ports cn.outp).flatMap (·.flatMap fun w => packLanesOf w.lanes ++ leBytes 1 w.rows.toNat)
    ++ (ports cn.inp).flatMap (·.flatMap fun w => packLanesOf w.lanes ++ packOpt 16 w.pre)
  let ws := packWhorls cn (65536 - 24296 - words.length) (cn.whorlsOf u)
  padTo 22528 (cs.flatMap fun c => (List.range 32).flatMap fun i => leBytes 64 (cn.recOf i c).toNat)
    ++ ([20, 28].flatMap fun i => (vget cn.tabs (tabPlace i u) (Vector.replicate 13 0#512)).toList.flatMap fun v => leBytes 64 v.toNat)
    ++ (cn.mask.toList.flatMap fun m => leBytes 2 m.toNat)
    ++ (cn.fed.toList.map fun b => if b.getLsbD (if u then 1 else 0) then 1#8 else 0#8) ++ packWords cn.closed.toList
    ++ ((ports cn.outp ++ ports cn.inp).map fun p => BitVec.ofNat 8 p.length)
    ++ packWords [ws.length] ++ words ++ ws.flatMap id

/-- A bp entry, 48 bytes (R337). -/
def packBp (e : BpEntry) : List Byte :=
  leBytes 10 e.s00.toNat ++ leBytes 10 e.s01.toNat ++ leBytes 10 e.s10.toNat ++ leBytes 10 e.s11.toNat ++ padTo 8 (leBytes 1 e.flags.toNat)

/-- The operation of a matrix command: its kind, its plane and what else it names. -/
def MOp.words : MOp → List Nat
  | .mma f a => [1, a.val, f.ctorIdx, 0]
  | .mmb b p => [2, p.val, b.ctorIdx, 0]
  | .sac a => [3, a.val, 0, 0]
  | .zacc a => [4, a.val, 0, 0]
  | .zbp p => [5, p.val, 0, 0]
  | .ldacc a => [6, a.val, 0, 0]
  | .drain a rm sat => [7, a.val, rm.ctorIdx, if sat then 1 else 0]

/-- The reads of a matrix command whose data an effect to come still uses, R196: beat b's last effect falls 130 cycles after its read. -/
def MCmd.live (c : MCmd) (now : Nat) : Nat := c.inA.length - (now - 131 - c.start)

/-- The data of a command that is still to be used: beats or rows, A side and B side, and what a drain has read. -/
def MCmd.data (c : MCmd) (now : Nat) : List Byte :=
  let old := c.inA.length - c.live now
  ((c.inA.drop old).zip (c.inB.drop old)).flatMap (fun x => x.1 ++ x.2) ++ c.got.flatMap fun x => leBytes 4 (64 * x.1 + x.2.1) ++ leBytes 4 x.2.2.toNat

/-- A matrix command issued and not finished (R207), 256 bytes: its schedule, its latched records, and how much data it has and where, from the start of the
area. -/
def packSchedule (c : MCmd) (now at_ : Nat) : List Byte :=
  padTo 256 (packWords [c.id, c.ord, c.pc, c.slot + 2 ^ 8 * c.kpre.val + (if c.started then 2 ^ 16 else 0), c.start] ++ leBytes 16 c.n
      ++ padTo 72 (packWords ([c.cut.elim (2 ^ 64 - 1) id, c.tag] ++ c.op.words ++ [at_, c.live now]))
    ++ leBytes 64 c.wa.toNat ++ leBytes 64 c.wb.toNat)

/-- Schedules one behind the other, with where each one's data begins: 32 bytes before it stand the numbers of reads it has made, the bytes of a read on
each side, and the number of values it holds. -/
def packSchedules (now : Nat) : Nat → List MCmd → List Byte × List Byte
  | _, [] => ([], [])
  | at_, c :: r =>
    let d := packWords [c.inA.length, (c.inA.getLastD []).length, (c.inB.getLastD []).length, c.got.length] ++ c.data now
    let (l, ds) := packSchedules now (at_ + d.length) r
    (packSchedule c now at_ ++ l, d ++ ds)

/-- AMR, AMC, tags and the schedules of matrix commands, offset 0x26_C000: of every command first, and then their data. -/
def packAmax (m : Matrix) (now : Nat) : List Byte :=
  let (l, ds) := packSchedules now (2064 + 256 * m.cmds.length) m.cmds
  ((m.amr.toList ++ m.amc.toList).flatMap fun p => p.toList.flatMap fun v => leBytes 4 v.toNat)
    ++ padTo 8 (m.tag.toList.map fun t => t.setWidth 8) ++ packWords [m.cmds.length] ++ l ++ ds

/-! ### The image (R402) -/

/-- A tile's span as a word: its start, whether it is aligned, and whether the next bundle begins one (R50, R51). -/
def Flow.spanWord (f : Flow) : Nat := f.spanStart * 8 + (if f.aligned then 4 else 0) + (match f.newSpan with
  | none => 0
  | some false => 1
  | some true => 2)

/-- What position 0 holds beside its tile's state, offset 0x3F_F000: group cycle, the cycle of an aligned span plus one, ticket, pending advance, image
address, entry vector, and every tile's span. -/
def State.packGroup (s : State) (g : Group) : List Byte :=
  let k := s.kernel g.id
  packWords ([g.cnt, g.sync.elim 0 (· + 1), (k.bind (·.ticket)).getD 0xFFFF, k.elim 0 (·.advance),
    k.elim 0 fun k => k.field 399 360, k.elim 0 fun k => k.field 191 176] ++ g.tiles.map fun t => (s.tctx t g.urgent).flow.spanWord)

/-- The slot header, R338. -/
def slotHeader (g : Group) (ticket r c : Nat) : List Byte :=
  leBytes 64 (g.switchNo % 2 ^ 32 * 2 ^ 32 + ticket * 2 ^ 16 + g.ctx * 2 ^ 10 + r * 2 ^ 4 + c)

/-- The areas of an image above the scratchpad: offset, length and contents. What stands for a load that has not sampled is free (log 5). -/
def State.areas (s : State) (g : Group) (t : Nat) : List (Nat × Nat × List Byte) :=
  let u := g.urgent
  let c := s.tctx t u
  let pos := ((g.members.find? (·.2.2 == t)).map fun m => (m.1, m.2.1)).getD (0, 0)
  let snaps := (c.snap.take 64).zipIdx.flatMap fun (e, i) => padTo 128 (packWords (e.snapWords g.cnt (Config.unsampledWord g.cnt t i)))
  [(0x1E0000, 0x4000, s.packRegs t u), (0x1E4000, 0x2000, snaps), (0x1E6000, 0x4000, s.packQueues t u), (0x1EA000, 0x2000, s.packEngines t u),
   (0x1EC000, 0x10000, packCanopy (s.tile t).cn u)]
    ++ (if u then [] else
      [(0x1FC000, 0x10000, (s.tile t).mx.acc.toList.flatMap fun p => p.toList.flatMap fun v => leBytes 4 v.toNat),
       (0x20C000, 0x60000, (s.tile t).mx.bp.toList.flatMap fun p => p.toList.flatMap packBp),
       (0x26C000, 0x193000, packAmax (s.tile t).mx g.cnt)])
    ++ (if t == g.home then [(0x3FF000, 0xFC0, s.packGroup g)] else [])
    ++ [(0x3FFFC0, 64, slotHeader g (((s.kernel g.id).bind (·.ticket)).getD 0xFFFF) pos.1 pos.2)]

/-- One byte of the image of tile `t` of a group. -/
def State.imageByte (s : State) (g : Group) (t off : Nat) : Byte :=
  if off < 0x1E0000 then (if g.urgent && 0x20000 ≤ off then 0#8 else (s.tile t).spad.get (partLo g.urgent + off))
  else match (s.areas g t).find? fun a => a.1 ≤ off && off < a.1 + a.2.1 with
    | some (lo, _, l) => l.getD (off - lo) 0#8
    | none => 0#8

/-- Space 5, R402: `n` bytes of the image that context `c` reads on tile `t`. -/
def readImage (s : State) (c : Nat) (u : Bool) (t off n : Nat) : Nat :=
  match s.imaged c u t with
  | none => 0
  | some g => leNat ((List.range n).map fun i => s.imageByte g t (off + i))

/-! ### The management path (R344, R402) -/

/-- The state codes of R344. -/
def BState.code : BState → Nat
  | .unbound => 0 | .unarmed => 1 | .armed => 2 | .draining => 3 | .rearmed => 4

/-- The 128-bit state of a barrier object, R344; `g` is the group it is bound to. -/
def Barrier.word (b : Barrier) (g : Option Group) : BitVec 128 :=
  BitVec.ofNat 128 (b.st.code * 2 ^ 125 + (if b.auto then 2 ^ 124 else 0) + (g.elim 0 fun g => (if g.urgent then 2 ^ 123 else 0) + g.ctx * 2 ^ 117 + g.home * 2 ^ 108)
    + b.phase.toNat * 2 ^ 48 + b.target % 2 ^ 12 * 2 ^ 36 + b.count % 2 ^ 12 * 2 ^ 24 + b.held.length % 2 ^ 12 * 2 ^ 12)

/-- What the management path reads of a barrier while the group it is bound to is stopped, R344 and R402. -/
def State.managedBarrier (s : State) (i : Nat) : Option (BitVec 128) :=
  let b := vget s.crown.barriers i Barrier.reset
  match b.group.bind s.group with
  | some g => if g.stopped then some (b.word (some g)) else none
  | none => some (b.word none)

/-- What it reads of a queue: its head and tail, the slots and the sequence numbers (R280, R402). -/
def State.managedQueue (s : State) (q : Nat) : List Nat :=
  let x := s.queue q
  [x.headSlot, x.headSeq.toNat, x.tailSlot, x.tailSeq.toNat]

/-- What it reads of a context's sapwood: the lines its versions hold, by ticket, and the panels of its kernels' read and write sets (R272, R296, R402). -/
def State.managedSapwood (s : State) (c : Nat) : List (Nat × Nat) × List (Nat × List Nat × List Nat) :=
  ((s.roots.versions.filter (·.ctx == c)).map fun v => (v.line, v.ticket),
    (s.crown.kernels.filter (·.ctx == c)).map fun k => (k.id, k.reads, k.writes))

/-- What it reads of the image of a tile of a stopped group, R402. -/
def State.managedImage (s : State) (g : Group) (t off : Nat) : Option Byte := if g.stopped && g.has t then some (s.imageByte g t off) else none

/-! ### The save slot (R337, R338) -/

/-- The walk to a slot of a context's save area, R366 and R375: where it lies in HBM, a failing check, or a hold on a migrating page. -/
def State.slotWalk (s : State) (c slot : Nat) (write : Bool) : Walked × State :=
  let x := s.ctxt c
  match s.flatWalk x.saveRoot (slot / 16) true x.secure write with
  | (.ok f e, s) => (.ok (f + slot % 16 * 2 ^ 22) e, s)
  | r => r

/-- The walks to slots one after another, as far as the first that does not pass: their addresses. -/
def State.slotWalks (c : Nat) (write : Bool) : List Nat → State → Except Walked (List Nat) × State
  | [], s => (.ok [], s)
  | i :: r, s => match s.slotWalk c i write with
    | (.ok a _, s) => match State.slotWalks c write r s with
      | (.ok l, s) => (.ok (a :: l), s)
      | e => e
    | (w, s) => (.error w, s)

/-- The slots of a group, one for each tile in position order. -/
def Group.slots (g : Group) : List Nat := (List.range g.tiles.length).map (g.saveSlot.getD 0 + ·)

/-- A tile's slot at an HBM address is written; words of the scratchpad take their check values along (R399). -/
def State.saveTile (s : State) (g : Group) (t a : Nat) : State :=
  let lo := partLo g.urgent
  let hi := partHi g.urgent
  let s := s.zeroHbm a 0x400000
  let part := ((s.tile t).spad.below hi).upFrom lo
  let here := (part.map fun c => (c.1 - lo + a, c.2)).filter fun c => c.1 < hbmEnd
  let bad := ((s.tile t).spadBad.filter fun i => lo / 64 ≤ i && i < hi / 64).map fun i => WordAt.hbm (a / 64 + i - lo / 64)
  bad.foldl State.markBad
    ((s.areas g t).foldl (fun s (lo, n, l) => s.putHbm (a + lo) (l.take n)) { s with hbm := s.hbm.below a ++ here ++ s.hbm.upFrom a })

/-- Numbers of `n` bytes each from an address. -/
def readNums (s : State) (a n k : Nat) : List Nat := (List.range k).map fun i => s.hbmNum (a + n * i) n

/-- A vector from a list. -/
def ofNums {α : Type} {n : Nat} (l : List Nat) (f : Nat → α) : Vector α n := Vector.ofFn fun i => f (l.getD i 0)

/-- The registers a slot gives back. -/
def restoreRegs (s : State) (a : Nat) (k : Vector (BitVec 32) 64) : Regs where
  x := ofNums (readNums s a 8 64) (BitVec.ofNat 64)
  p := ofNums (readNums s (a + 512) 1 8) fun n => n % 2 == 1
  v := ofNums (readNums s (a + 576) 64 32) (BitVec.ofNat 512)
  vm := ofNums (readNums s (a + 2624) 2 8) (BitVec.ofNat 16)
  lc := ofNums (readNums s (a + 2640) 4 4) (BitVec.ofNat 32)
  k := k
  w := ofNums (readNums s (a + 2688) 64 32) (BitVec.ofNat 512)
  mb := ofNums (readNums s (a + 4736) 4 16) (BitVec.ofNat 32)

/-- The control registers a slot gives back; reserved bits read zero whatever stands there (R4, R326, R327), and GPOS and CTXINFO are what the group and the
kernel make them. -/
def restoreCregs (s : State) (a : Nat) : CRegs :=
  let w (i : Nat) : Word := BitVec.ofNat 64 (s.hbmNum (a + 8 * i) 8)
  { fpstat := (w 0).setWidth 6
    rbseed := w 1
    rbidx := w 2
    tvec := keepBits (w 5) 17 2
    tcause := keepBits (w 6) 63 62 ||| keepBits (w 6) 41 16 ||| keepBits (w 6) 7 0
    tpc := keepBits (w 7) 17 2
    tcyc := w 8
    tinfo := w 9
    tscratch := w 10
    cycalarm := w 11
    dbgctl := (w 12).setWidth 5
    bkpt := keepBits (w 13) 17 2
    watch := keepBits (w 14) 20 6 }

/-- A number below 64. -/
def fin64 (n : Nat) : Fin 64 := ⟨n % 64, Nat.mod_lt _ (by decide)⟩

/-- A wait a slot gives back. -/
def waitOf : Nat → Nat → Nat → Option Wait
  | 1, k, n => some (.waitk (fin64 k) n)
  | 2, l, n => some (.fence (((List.range n).map fun i => fin64 (l / 64 ^ i)).reverse))
  | 3, b, d => some (.barw (fin64 b) (BitVec.ofNat 16 d))
  | 4, n, _ => some (.syncg n)
  | 5, c, _ => some (.stopped (BitVec.ofNat 12 c))
  | _, _, _ => none

/-- The fetch state a slot gives back, with its span's word (R50, R51); with more loops than the area holds, the loops it had. -/
def restoreFlow (s : State) (a span : Nat) (f : Flow) : Flow :=
  let r (i : Nat) : Nat := s.hbmNum (a + 8 * i) 8
  { f with
    fetch := {
      pc := r 0
      br := if r 1 == 0 then none else some ⟨if r 2 == 2 ^ 64 - 1 then none else some (r 2), r 1 - 1⟩
      loops := if 10 < r 8 then f.fetch.loops
        else (List.range (r 8)).map fun i => ⟨⟨r (9 + 3 * i) % 4, Nat.mod_lt _ (by decide)⟩, r (10 + 3 * i), r (11 + 3 * i)⟩ }
    wait := waitOf (r 3) (r 4) (r 5)
    ended := if r 6 == 0 then none else some (r 6 - 1)
    ord := r 7
    spanStart := span / 8
    aligned := bits span 2 2 == 1
    newSpan := if bits span 1 0 == 0 then none else some (bits span 1 1 == 1) }

/-- A record from its fields: words of bits from a lowest bit. -/
def joinFields (l : List (Nat × Nat)) : Wide := BitVec.ofNat 512 (l.foldl (fun a (lo, v) => a + v * 2 ^ lo) 0)

/-- An index record a slot gives back, with the fields R154 and R410 fix; none without a base. -/
def restoreIndex (s : State) (a : Nat) : Option Wide :=
  if s.hbmNum a 8 == 0 then none else some (joinFields [(448, s.hbmNum a 8), (128, s.hbmNum (a + 8) 32), (72, 1), (67, 17)])

/-- A number that may be absent. -/
def restoreOpt (s : State) (a n : Nat) : Option Nat := if s.hbmNum a 1 == 0 then none else some (s.hbmNum (a + 1) n)

/-- A stream with what its command has latched, as a slot gives it back. -/
def restoreLatched (s : State) (a : Nat) (closed : Vector Nat 8) (x : Stream) : Stream :=
  { x with
    op := ([.smov, .smc, .sgat2, .sexp, .sdec, .sport, .sring] : List StreamOp).getD (s.hbmNum a 1 - 1) .smov
    kdone := fin64 (s.hbmNum (a + 1) 1)
    mode := Fin.ofNat 2 (s.hbmNum (a + 2) 1)
    marks := (List.range 8).map fun k => if entryBit (s.hbmNum (a + 3) 1) k then 0 else vget closed k 0
    iss := s.hbmNum (a + 4) 8
    id := s.hbmNum (a + 12) 8
    src := BitVec.ofNat 512 (s.hbmNum (a + 20) 64)
    dst := BitVec.ofNat 512 (s.hbmNum (a + 84) 64)
    srcIdx := restoreIndex s (a + 148)
    dstIdx := restoreIndex s (a + 188) }

/-- The command queue a slot gives back; what each entry waits for is as it was put away (log 28). -/
def restoreQueue (s : State) (a : Nat) (q : List QCmd) : List QCmd :=
  (List.range 64).filterMap fun i =>
    let b := a + 248 * i
    let k := fin64 (s.hbmNum (b + 1) 1)
    let ord := s.hbmNum (b + 8) 8
    let r (j : Nat) : Nat := s.hbmNum (b + 16 + 8 * j) 8
    let after := ((q.find? fun c => c.ord == ord).map (·.after)).getD []
    let kind : Option QKind := match s.hbmNum b 1 with
      | 1 => some (.stream (s.hbmNum (b + 28) 8) k)
      | 2 => some (.tok (r 0) (if r 1 == 1024 then none else some (r 1)) k (r 2))
      | 3 => some (.tdsync (r 0) k)
      | 4 => some (.bars k (r 0) (r 1))
      | _ => none
    kind.map fun k => ⟨ord, k, after⟩

/-- The ring table a slot gives back: the entries with a capacity (R179). -/
def restoreRings (s : State) (a : Nat) : List Ring :=
  ((List.range 8).map fun i =>
    let r (j : Nat) : Nat := s.hbmNum (a + 32 * i + 8 * j) 8
    (⟨BitVec.ofNat 64 (r 0), r 1, r 2, r 3⟩ : Ring)).filter (·.cap != 0)

/-- A number from doublewords, lowest first. -/
def joinWords (l : List Nat) : Nat := l.foldr (fun w n => w + 2 ^ 64 * n) 0

/-- The register that the kind and target bits of a snapshot header name, R333; a walk record that was to be written whole stays whole. -/
def Dst.ofSnap (old : Option Dst) (k t : Nat) : Dst :=
  match k with
  | 0 => .x (fin64 t)
  | 1 => .v (Fin.ofNat 32 t)
  | 2 => .p (Fin.ofNat 8 t)
  | 3 => .vm (Fin.ofNat 8 t)
  | _ => match old with
    | some (.wrec r) => if r.val * 2 ^ 9 == t then .wrec r else .w (Fin.ofNat 32 (bits t 13 9)) (Fin.ofNat 8 (bits t 8 6))
    | _ => .w (Fin.ofNat 32 (bits t 13 9)) (Fin.ofNat 8 (bits t 8 6))

/-- The member of an atomic by its code, R123. -/
def AtomOp.ofCode (n : Nat) : AtomOp := ([.add, .minS, .maxS, .and, .or, .xchg, .cas, .fadd] : List AtomOp).getD n .add

/-- The register a pending effect writes. -/
def EKind.dst? : EKind → Option Dst
  | .reg d _ _ => some d
  | .load _ _ _ _ d _ => some d
  | _ => none

/-- The location a tagged pointer of a store or an atomic names for tile `t`, where the entry is not the one put away. -/
def locOf (t : Nat) (p : Nat) : Loc :=
  let w := BitVec.ofNat 64 p
  if ptrSpace w == 3 then .shared (ptrOff w / 2 ^ 26) (ptrOff w % 2 ^ 26)
  else if ptrSpace w == 4 then .creg (ptrOff w / 8)
  else .spad (if ptrSpace w == 2 then ptrTile w else t) (ptrOff w)

/-- A snapshot entry from its doublewords, R333: `stop` is the group cycle it counts from and `old` the entry as it was put away, which gives what the sixteen
doublewords do not hold (log 28); none where the header says it holds no effect. -/
def Effect.ofWords (t stop : Nat) (old : Effect) (l : List Nat) : Option Effect :=
  let h := l.getD 0 0
  let w (i : Nat) : Nat := l.getD (i + 1) 0
  let v (i n : Nat) : Nat := joinWords ((l.drop (i + 1)).take n)
  let kind := bits h 62 60
  let rem := stop + bits h 59 48
  let target := bits h 41 0
  let lane32 (i : Nat) : BitVec 32 := BitVec.ofNat 32 (v 6 8 / 2 ^ (32 * i))
  let lanes (lo : Nat) : List Nat := (List.range 16).filter fun i => entryBit target (lo + i)
  let off (i : Nat) : Nat := v 0 6 / 2 ^ (21 * i) % 2 ^ 21
  if !entryBit h 63 then none
  else match kind with
    | 5 =>
      let n := bits target 6 0
      let at_ : Loc := match old.kind with
        | .store l p _ => if p.toNat == w 0 then l else locOf t (w 0)
        | _ => locOf t (w 0)
      some { old with due := rem, kind := .store at_ (BitVec.ofNat 64 (w 0)) (leBytes n (v 1 8)) }
    | 6 =>
      let at_ : Loc := match old.kind with
        | .atomic l p _ _ _ _ _ _ => if p.toNat == w 0 then l else locOf t (w 0)
        | _ => locOf t (w 0)
      some { old with
        due := stop + w 4
        kind := .atomic at_ (BitVec.ofNat 64 (w 0)) (AtomOp.ofCode (bits target 6 4)) (bits target 3 0 == 8) (fin64 (bits target 13 8)) (BitVec.ofNat 64 (w 1))
          (BitVec.ofNat 64 (w 2)) (if entryBit target 7 then some (BitVec.ofNat 64 (w 3)) else none) }
    | 7 =>
      if entryBit target 37 then
        let all : List Nat := match old.kind with
          | .gather _ _ _ _ all => all
          | _ => lanes 0 ++ lanes 16
        let ls : List Nat := match old.kind with
          | .gather _ _ ls _ _ => ls.map fun x => x.1
          | _ => lanes 0 ++ lanes 16
        some { old with
          due := stop + w 14
          kind := .gather t (Fin.ofNat 32 (bits target 36 32)) (ls.map fun i => (i, off i)) ((lanes 16).map fun i => (i, lane32 i)) all }
      else
        let due := match old.kind, lanes 0 with
          | .scatter _ _ _, _ => old.due
          | _, i :: _ => rem + 15 - i
          | _, [] => rem
        some { old with due := due, kind := .scatter t ((lanes 0).map fun i => (i, off i, lane32 i)) (lanes 0) }
    | k =>
      let d := Dst.ofSnap old.kind.dst? k target
      let same := old.kind.dst?.any fun o => o == d
      some { old with
        due := rem
        kind := match old.kind with
          | .load a p n sg _ none => if same then .load a p n sg d none else .reg d (BitVec.ofNat 512 (v 0 8)) allBits
          | .load a p n sg _ (some _) => if same then .load a p n sg d (some (BitVec.ofNat 512 (v 0 8 % 2 ^ (8 * n)))) else .reg d (BitVec.ofNat 512 (v 0 8)) allBits
          | .reg _ _ m => .reg d (BitVec.ofNat 512 (v 0 8)) (if same then m else allBits)
          | _ => .reg d (BitVec.ofNat 512 (v 0 8)) allBits }

/-- The snapshot buffer a slot gives back: every entry whose header says that it holds an effect. -/
def restoreSnap (s : State) (t a stop : Nat) (l : List Effect) : List Effect :=
  (List.range 64).filterMap fun i =>
    Effect.ofWords t stop (l.getD i ⟨stop, 0, 0x3FFFF, 0xFF, 0#6, false, .reg (.x 0) 0#512 allBits⟩) (readNums s (a + 128 * i) 8 16)

/-- A matrix operation from its words. -/
def MOp.ofWords (k p x y : Nat) : MOp :=
  match k with
  | 1 => .mma (([.bf16, .fp16, .e4m3, .e5m2] : List MmaFmt).getD x .bf16) (Fin.ofNat 4 p)
  | 2 => .mmb (([.mxfp8e4, .mxfp8e5, .mxfp4, .mxint8, .fk8, .fk4] : List BFmt).getD x .mxint8) (Fin.ofNat 2 p)
  | 3 => .sac (Fin.ofNat 4 p)
  | 4 => .zacc (Fin.ofNat 4 p)
  | 5 => .zbp (Fin.ofNat 2 p)
  | 6 => .ldacc (Fin.ofNat 4 p)
  | _ => .drain (Fin.ofNat 4 p) (([.rne, .rz, .sr] : List Rm).getD x .rne) (y == 1)

/-- Command `i` of the matrix array as a slot gives it back, R207; `a` is where the area of AMR and AMC begins. -/
def restoreCommand (s : State) (a i : Nat) : MCmd :=
  let b := a + 2064 + 256 * i
  let r (j : Nat) : Nat := s.hbmNum (b + 8 * j) 8
  let d := a + r 13
  let h (j : Nat) : Nat := s.hbmNum (d + 8 * j) 8
  let live := min (r 14) 256
  let read (j side n : Nat) : List Byte := s.hbmRead (d + 32 + (h 1 + h 2) * j + side) n
  let old : List (List Byte) := List.replicate (h 0 - live) []
  { id := r 0, ord := r 1, pc := r 2, slot := r 3 % 2 ^ 8, start := r 4, kpre := fin64 (bits (r 3) 13 8), n := s.hbmNum (b + 40) 16, started := entryBit (r 3) 16
    cut := if r 7 == 2 ^ 64 - 1 then none else some (r 7)
    tag := r 8
    op := MOp.ofWords (r 9) (r 10) (r 11) (r 12)
    wa := BitVec.ofNat 512 (s.hbmNum (b + 128) 64)
    wb := BitVec.ofNat 512 (s.hbmNum (b + 192) 64)
    inA := old ++ (List.range live).map fun j => read j 0 (h 1)
    inB := old ++ (List.range live).map fun j => read j (h 1) (h 2)
    got := (List.range (h 3)).map fun j =>
      let g := d + 32 + (h 1 + h 2) * live + 8 * j
      (s.hbmNum g 4 / 64, s.hbmNum g 4 % 64, BitVec.ofNat 32 (s.hbmNum (g + 4) 4)) }

/-- The array a slot gives back, with the commands that are under way. -/
def restoreMatrix (s : State) (a : Nat) : Matrix where
  acc := Vector.ofFn fun p => ofNums (readNums s (a + 0x1FC000 + 0x4000 * p.val) 4 4096) (BitVec.ofNat 32)
  bp := Vector.ofFn fun p => Vector.ofFn fun i =>
    let e := a + 0x20C000 + 0x30000 * p.val + 48 * i.val
    let f (j : Nat) : BitVec 80 := BitVec.ofNat 80 (s.hbmNum (e + 10 * j) 10)
    ⟨f 0, f 1, f 2, f 3, BitVec.ofNat 3 (s.hbmNum (e + 40) 1)⟩
  tag := ofNums (readNums s (a + 0x26C800) 1 2) (BitVec.ofNat 3)
  amr := Vector.ofFn fun p => ofNums (readNums s (a + 0x26C000 + 256 * p.val) 4 64) (BitVec.ofNat 32)
  amc := Vector.ofFn fun p => ofNums (readNums s (a + 0x26C400 + 256 * p.val) 4 64) (BitVec.ofNat 32)
  cmds := (List.range (s.hbmNum (a + 0x26C808) 2)).map (restoreCommand s (a + 0x26C000))
  drawn := none

/-- A cursor a slot gives back; lengths read ahead for a prefix are as they were put away (log 28). -/
def restoreCursor (s : State) (a : Nat) (c : Cursor) : Cursor :=
  let r (i : Nat) : Nat := s.hbmNum (a + 4 * i) 4
  ⟨r 0, r 1, r 2, r 3, restoreOpt s (a + 16) 4, s.hbmNum (a + 21) 16, s.hbmNum (a + 37) 16, entryBit (s.hbmNum (a + 53) 1) 0,
    entryBit (s.hbmNum (a + 53) 1) 1, c.ahead⟩

/-- Element `n` of a stream's buffer as a slot gives it back. -/
def restoreElem (s : State) (x : Stream) (a n : Nat) : BufElem :=
  let left := (x.places.zipIdx.filter fun p => entryBit (s.hbmNum (a + 27) 15) p.2).map (·.1)
  ⟨n, s.hbmNum a 8, restoreOpt s (a + 8) 16, left, BitVec.ofNat 8 (s.hbmNum (a + 26) 1), none, entryBit (s.hbmNum (a + 25) 1) 0⟩

/-- A stream as a slot gives it back: one on an engine from its 680 bytes, one that waits in the command queue from its entry there. The descriptors it has latched,
ring groups it has seen and the contributions of a stamped write stand at the Roots, and staged data with the kernel's escapes: they are as they were put away (log
28). None where the slot holds no such stream. -/
def restoreStream (s : State) (a : Nat) (closed : Vector Nat 8) (x : Stream) : Option Stream :=
  match x.engine with
  | none => match (List.range 64).find? fun i => s.hbmNum (a + 0x1E6100 + 248 * i) 1 == 1 && s.hbmNum (a + 0x1E6100 + 248 * i + 28) 8 == x.id with
    | none => none
    | some i =>
      let y := restoreLatched s (a + 0x1E6100 + 248 * i + 16) closed x
      some { y with
        total := if wEnd y.src == 3 then wTotal y.dst else wTotal y.src
        srcCur := Cursor.start y.src (wEnd y.dst == 3)
        dstCur := Cursor.start y.dst false }
  | some e =>
    let b := a + 0x1EA000 + 680 * (e % 12)
    let n (i k : Nat) : Nat := s.hbmNum (b + i) k
    let y := restoreLatched s b closed x
    let done := n 360 16
    if n 0 1 == 0 then none else some { y with
      ord := n 228 8
      srcCur := restoreCursor s (b + 236) x.srcCur
      dstCur := restoreCursor s (b + 290) x.dstCur
      readTo := n 344 16
      wroteTo := done
      words := n 376 16
      segLeft := n 392 16
      pre := restoreOpt s (b + 408) 16
      total := restoreOpt s (b + 425) 16
      readTok := entryBit (n 442 1) 0
      foul := entryBit (n 442 1) 1
      spent := entryBit (n 442 1) 2
      tags := BitVec.ofNat 8 (n 443 1)
      pack := (List.range (n 444 1)).map fun i => n 445 64 / 2 ^ (y.packWidth * i) % 2 ^ y.packWidth
      buf := if y.grouped then x.buf else (List.range (min 4 (n 509 1))).map fun i => restoreElem s y (b + 510 + 42 * i) (done + i) }

/-- Where the words of a port begin that stand behind those of the ports before it, `n` bytes a word; `count` is where the ports' numbers of words stand. -/
def portStart (s : State) (count k n : Nat) : Nat := (List.range k).foldl (fun b j => b + n * s.hbmNum (count + j) 1) 0

/-- The words of ports a slot gives back, `n` bytes each from `a`: lanes with their active flags, and what `f` reads of the rest. -/
def restorePorts (s : State) (a count n d : Nat) (f : Nat → CWord → CWord) : Vector (List CWord) 8 :=
  Vector.ofFn fun k => (List.range (min d (s.hbmNum (count + k.val) 1))).map fun i =>
    let b := a + portStart s count k.val n + n * i
    f (b + 66) ⟨⟨BitVec.ofNat 512 (s.hbmNum b 64), BitVec.ofNat 16 (s.hbmNum (b + 64) 2)⟩, none, 0, 0x0F#8⟩

/-- A part of a reduction as a slot gives it back. -/
def restorePart (s : State) (t : LaneT) (fn a : Nat) : Part :=
  match fn, laneFmt t with
  | 0, some _ =>
    let f (i : Nat) : Bool := entryBit (s.hbmNum (a + 40) 1) i
    let sum := sx 320 (s.hbmNum a 40)
    ⟨(if f 0 then [if sum == 0 then .num (f 1) 0 (-149) else .ofInt sum (-149)] else []) ++ (if f 2 then [.nan false] else [])
      ++ (if f 3 then [.nan true] else []) ++ (if f 4 then [.inf false] else []) ++ (if f 5 then [.inf true] else []), []⟩
  | _, f =>
    let on (i : Nat) : Bool := entryBit (s.hbmNum (a + 4) 1) i
    ⟨[], (if on 0 then [s.hbmNum a 4] else []) ++ (if on 1 then (f.elim [] fun f => [f.maxCode + 2]) else [])⟩

/-- A reduction lane by lane as a slot gives it back. -/
def restoreLanewise (s : State) (t : LaneT) (fn a : Nat) : Past :=
  ⟨s.hbmNum a 4, BitVec.ofNat 16 (s.hbmNum (a + 4) 2), (List.range 16).map fun i => restorePart s t fn (a + 6 + 42 * i)⟩

/-- What a unit carries as a slot gives it back at `a`; `fired` is how many firings its whorl has had. -/
def restoreUnit (s : State) (a : Nat) (r : Wide) (u fired : Nat) : UState :=
  let lanes (a : Nat) : Lanes := ⟨BitVec.ofNat 512 (s.hbmNum a 64), BitVec.ofNat 16 (s.hbmNum (a + 64) 2)⟩
  let st := UState.start
  let op := rOp r
  match kindOf u with
  | .acc =>
    if op % 4 == 3 then { st with word := lanes a }
    else if bits op 5 5 == 1 then { st with past := restoreLanewise s (opType op) (op % 4) a }
    else { st with past := ⟨0, 0#16, [restorePart s (opType op) (op % 4) a]⟩ }
  | .scan => { st with past := ⟨0, 0#16, [restorePart s (opType op) (op % 2) a]⟩ }
  | .rep => if op == 0 then { st with cnt := s.hbmNum a 4, word := lanes (a + 4) } else { st with past := restoreLanewise s .f32 0 a }
  | .mxq => if fired == 0 then st else { st with hist := [(fired - 1, lanes a, lanes (a + 66))] }
  | .index => { st with base := BitVec.ofNat 32 (s.hbmNum a 4), ext := BitVec.ofNat 32 (s.hbmNum (a + 4) 4) }
  | _ => st

/-- The units of a whorl one behind the other. -/
def restoreUnits (s : State) (fired : Nat) : Nat → List (Nat × Wide) → List (Nat × UState)
  | _, [] => []
  | a, (u, r) :: l => (u, restoreUnit s a r u fired) :: restoreUnits s fired (a + (packUnit r u UState.start).length) l

/-- Some armed whorls one behind the other, and where they end, as a slot gives them back; `cn` has the records. -/
def restoreWhorls (s : State) (cn : Canopy) : Nat → Nat → List Whorl × Nat
  | 0, a => ([], a)
  | k + 1, a =>
    let n (i k : Nat) : Nat := s.hbmNum (a + i) k
    let c : Fin 12 := Fin.ofNat 12 (n 16 1)
    let rows := BitVec.ofNat 4 (n 17 1)
    let us := cn.enabled c rows
    let gs := gatedPorts us
    let w : Whorl := {
      id := n 0 8, pc := n 8 4, slot := n 12 4, ctx := c, rows := rows, dead := entryBit (n 18 1) 0, seg := n 20 16, len := n 36 16
      round := n 52 8, fired := n 60 8, depth := (depths us).getD [], flight := []
      gate := gs.zipIdx.map fun (g, i) => (g.2, n (68 + 4 * i) 4)
      units := restoreUnits s (n 60 8) (a + 68 + 4 * gs.length) us }
    let (l, e) := restoreWhorls s cn k (a + (packWhorl cn w).length)
    (w :: l, e)

/-- Where the whorls of the Canopy's area begin that lies at `a`. -/
def whorlsAt (s : State) (a : Nat) : Nat := a + 24296 + portStart s (a + 24272) 8 67 + portStart s (a + 24280) 8 83

/-- The Canopy a slot gives back, `a` its area. Whorls for which the area had no room are as they were put away (log 28). -/
def restoreCanopy (s : State) (a : Nat) (cn : Canopy) : Canopy :=
  let words := a + 24296
  let cn := { cn with
    recs := Vector.ofFn fun i => Vector.ofFn fun c =>
      if c.val == 11 then cn.recOf i.val 11 else BitVec.ofNat 512 (s.hbmNum (a + 64 * (32 * c.val + i.val)) 64)
    tabs := [(20, 0), (28, 13)].foldl (fun v (u, k) =>
      vset v (tabPlace u false) (Vector.ofFn fun i => BitVec.ofNat 512 (s.hbmNum (a + 22528 + 64 * (k + i.val)) 64))) cn.tabs
    mask := ofNums (readNums s (a + 24192) 2 4) (BitVec.ofNat 12)
    fed := ofNums (readNums s (a + 24200) 1 8) fun n => BitVec.ofNat 2 (n % 2)
    closed := ofNums (readNums s (a + 24208) 8 8) id
    outp := restorePorts s words (a + 24272) 67 64 fun b w => { w with rows := BitVec.ofNat 8 (s.hbmNum b 1) }
    inp := restorePorts s (words + portStart s (a + 24272) 8 67) (a + 24280) 83 4 fun b w => { w with pre := restoreOpt s b 16 } }
  let n := s.hbmNum (a + 24288) 8 % 64
  { cn with whorls := (restoreWhorls s cn n (whorlsAt s a)).1 ++ (cn.whorlsOf false).drop n ++ cn.whorlsOf true }

/-- A tile takes its slot back, R338: every area from its bytes; what they do not determine is as it was put away (log 28). `p` is where the slot of position 0
stands, which holds the group cycle and the spans of all tiles, this one's at place `i`. -/
def State.restoreTile (s : State) (g : Group) (x : Saved) (a p i : Nat) : State :=
  let bytes := if a + 0x1E0000 ≤ hbmEnd then (s.hbm.filter fun c => a ≤ c.1 && c.1 < a + 0x1E0000).map fun c => (c.1 - a, c.2)
    else Mem.cells 0 (s.hbmRead a 0x1E0000)
  let r := a + 0x1E0000
  let stop := s.hbmNum (p + 0x3FF000) 8
  let s' := s.onTile x.tile fun t =>
    { t with
      spad := bytes ++ t.spad.filter fun c => 0x1E0000 ≤ c.1
      spadBad := t.spadBad.filter fun i => 0x7800 ≤ i
      cn := restoreCanopy s (a + 0x1EC000) x.cn
      mx := restoreMatrix s a
      power := .busy
      main := { x.ctx with
        group := some g.id
        regs := restoreRegs s r (ofNums (readNums s (a + 0x1E6000) 4 64) (BitVec.ofNat 32))
        cr := restoreCregs s (r + 5120)
        flow := restoreFlow s (r + 4800) (s.hbmNum (p + 0x3FF000 + 48 + 8 * i) 8) x.ctx.flow
        snap := restoreSnap s x.tile (a + 0x1E4000) stop x.ctx.snap
        cmdq := restoreQueue s (a + 0x1E6100) x.ctx.cmdq
        rings := restoreRings s (a + 0x1E9F00) } }
  { s' with traffic.streams := s'.traffic.streams ++ x.streams.filterMap (restoreStream s a (s'.tile x.tile).cn.closed) }

/-- What position 0's slot at `p` gives back to the group and its kernel, R337 and R338: the group cycle, the cycle of an aligned span and the pending advance.
The ticket, the image and the entry vector are the Crown's own (R283). -/
def State.restoreGroup (s : State) (g p : Nat) : State :=
  let r (i : Nat) : Nat := s.hbmNum (p + 0x3FF000 + 8 * i) 8
  (s.onGroup g fun y => { y with cnt := r 0, sync := if r 1 == 0 then none else some (r 1 - 1) }).onKernel g fun k => { k with advance := r 3 }

/-- Bytes inside a slot's areas that hold nothing: those that align registers, and the rest of each engine's 680. -/
def slotGaps : List (Nat × Nat) := [(0x1E0000 + 520, 0x1E0000 + 576), (0x1E0000 + 2656, 0x1E0000 + 2688)]
  ++ (List.range 12).map fun e => (0x1EA000 + 680 * e + 678, 0x1EA000 + 680 * (e + 1))

/-- Bytes that the Canopy's area at `a` holds of the main context. -/
def State.canopySize (s : State) (a : Nat) (cn : Canopy) : Nat := (restoreWhorls s cn (s.hbmNum (a + 24288) 8 % 64) (whorlsAt s a)).2 - a

/-- Bytes that AMR, AMC, tags and schedules take of theirs. -/
def amaxSize (m : Matrix) (now : Nat) : Nat := m.cmds.foldl (fun n c => n + 288 + (c.data now).length) 2064

/-- The reserved bytes of a slot between its first area's start and its header, from and to: gaps within areas, and the end of each. -/
def State.reservedBytes (s : State) (g : Group) (t a : Nat) : List (Nat × Nat) :=
  let x := s.tile t
  slotGaps ++ [(0x1E0000 + 5240, 0x1E4000), (0x1EA000 + 8160, 0x1EC000), (0x1EC000 + s.canopySize (a + 0x1EC000) x.cn, 0x1FC000),
    (0x26C000 + amaxSize x.mx g.cnt, 0x3FF000), (if t == g.home then 0x3FF000 + 48 + 8 * g.tiles.length else 0x3FF000, 0x3FFFC0)]

/-- Whether the slot of a tile is as R338 asks: check values, header and reserved bytes. `now` is the state with the slot's contents restored, which tells
how far each area is used. -/
def State.slotSound (s now : State) (g : Group) (t a : Nat) : Bool :=
  let free (lo hi : Nat) : Bool := s.hbm.all fun c => c.1 < a + lo || a + hi ≤ c.1
  let pos := ((g.members.find? (·.2.2 == t)).map fun m => (m.1, m.2.1)).getD (0, 0)
  s.hbmBad.all (fun i => i < a / 64 || a / 64 + 0x10000 ≤ i)
    && s.hbmRead (a + 0x3FFFC0) 64 == slotHeader g (((s.kernel g.id).bind (·.ticket)).getD 0xFFFF) pos.1 pos.2
    && (now.reservedBytes g t a).all fun x => free x.1 x.2

end Sys2Proof.Machine
end

