-- ==== Sys2Proof/Machine/Group.lean ====
section
/-! DEFINITION. Groups (R314 to R341): placement and start, freeze, disposition and handlers, urgent pause, full switch and restore, power
gating; and the management commands on groups (R398). -/
namespace Sys2Proof.Machine

/-! ### Placement and start (R316, R317) -/

/-- The regions of a context on the dies a group occupies, R277. -/
def State.regionsFor (s : State) (g : Group) : List Nat :=
  (List.range 64).filter fun i => (s.ctxt g.ctx).regions.getLsbD i && (if g.whole then g.place.die ≤ i / 16 && i / 16 < g.place.die + g.rows else i / 16 == g.place.die)

/-- Whether the regions of a group are free for it. -/
def State.regionsFree (s : State) (g : Group) : Bool := (s.regionsFor g).all fun i => (vget s.regions i none).all (· == g.id)

/-- Whether a tile sleeps or is waking, R341. -/
def State.asleep (s : State) (t : Nat) : Bool :=
  match (s.tile t).power with
  | .gating _ => true
  | .gated => true
  | .waking _ => true
  | _ => false

/-- The sections a position runs, R96: every urgent section, or the one whose list names it. -/
def State.sectionsAt (s : State) (a : Nat) (urgent : Bool) (r c : Nat) : List (Nat × Nat) :=
  (s.sections a urgent).filter fun x => urgent
    || (List.range (bits x.2 223 208)).any fun i => s.viewNum (a + bits x.2 255 224 + 2 * i) 2 == r + c * 256

/-- Copies `n` bytes of HBM as the Crown sees them into a tile's scratchpad: a word that is written whole from one that does not fit its check value does
not fit it either; every other word gets a check value of its own (R399, R400). -/
def State.loadData (s : State) (t dst src n : Nat) : State :=
  let whole (i : Nat) : Bool := dst ≤ 64 * i && 64 * i + 64 ≤ dst + n
  let bad := (wordSpan dst n).filter fun i => whole i && s.spannedBad (src + 64 * i - dst) 64
  (bad.map (WordAt.spad t)).foldl State.markBad (s.writeLoc (.spad t dst) (s.viewRead src n))

/-- Loads a section into a tile, R97. -/
def State.loadSection (s : State) (a t : Nat) (x : Nat × Nat) : State :=
  let code := s.viewRead (a + bits x.2 31 0) (4 * bits x.2 63 32)
  (s.onTile t fun y => { y with imem := y.imem.write (bits x.2 95 64) code }).loadData t (bits x.2 191 160) (a + bits x.2 127 96) (bits x.2 159 128)

/-- A hardware context at its entry bundle, R317 and R120. -/
def entryCtx (id : Nat) (urgent : Bool) (pc stack : Nat) (mb : Vector (BitVec 32) 16) : TileCtx :=
  { TileCtx.idle with
    regs := Regs.entry (ptrOwn (partHi urgent)) mb
    flow := Flow.entry pc
    cr := CRegs.entry
    bars := Vector.replicate 64 BarView.entry
    group := some id
    floor := partHi urgent - 1024 * stack }

/-- Loads a kernel into every tile of its group, which becomes ready to start (R97, R316, R317). Where several sections run at a position the entry word
of the first is the start vector, and where none does it is 0 (DESIGN CHOICE, log 85). -/
def State.loadGroup (s : State) (k : Kernel) (g : Group) : State :=
  let a := k.field 399 360
  let mb : Vector (BitVec 32) 16 := Vector.ofFn fun i => BitVec.ofNat 32 (bits k.mbox.toNat (32 * i.val + 31) (32 * i.val))
  let s := (s.regionsFor g).foldl (fun s i => { s with regions := vset s.regions i (some g.id) }) s
  let s := g.members.foldl (fun s (r, c, t) =>
    let secs := s.sectionsAt a g.urgent r c
    let s := secs.foldl (fun s x => s.loadSection a t x) s
    let pc := (secs.head?.bind fun x => s.entryOf a (k.field 191 176) x.1).getD 0
    s.onTile t fun x =>
      let other := (x.ctx (!g.urgent)).group.isSome
      { x with power := .busy, cn := x.cn.clear g.urgent other, mx := if g.urgent then x.mx else Matrix.entry }.onCtx g.urgent
        fun _ => entryCtx g.id g.urgent pc (k.field 175 168) mb) s
  { s with crown.groups := s.crown.groups ++ [g] }

/-- The group of a dispatched kernel, when the Crown places (R396) and its tiles and regions are free and awake (R277, R316). -/
def State.groupReady (s : State) (k : Nat) (p : Place) (urgent : Bool) : Option (Kernel × Group) :=
  (s.kernel k).bind fun n =>
    let g := groupAt n.record n.id p
    let free := !s.crown.groups.any fun h => (!urgent || h.urgent) && g.tiles.any h.holds
    if s.boot.crownEn && n.st == KState.dispatching && n.target == some p && g.urgent == urgent && (s.group k).isNone && free && s.regionsFree g && !g.tiles.any s.asleep
    then some (n, g) else none

/-- The Crown places a group and loads it, R316; its tiles start in the next gcy. -/
def execGroupPlace (k : Nat) (p : Place) (s : State) : Out' :=
  match s.groupReady k p false with
  | none => s.done
  | some (n, g) => ((s.loadGroup n { g with st := .placing (s.gcyc.toNat + 1) }).onKernel k fun n => { n with target := none }).done

/-- Every tile of a group issues its entry bundle at group cycle 0, R54 and R316. -/
def execGroupStart (g : Nat) (s : State) : Out' :=
  match s.group g with
  | none => s.done
  | some x =>
    match x.st with
    | .placing n =>
      if n != 0 && n == s.gcyc.toNat then
        ((s.onGroup g fun x => { x with st := .running, cnt := 0 }).onKernel g fun k =>
          if k.st == KState.dispatching then { k with st := .running } else k).done
      else s.done
    | _ => s.done

/-! ### Freeze, disposition and resume (R319 to R325) -/

/-- Effects in flight move to the snapshot buffer and other acts are kept, R321. -/
def TileCtx.freeze (c : TileCtx) : TileCtx := { c with snap := c.inflight, inflight := [], kept := c.acts, acts := [] }

/-- They go back, R325. -/
def TileCtx.thaw (c : TileCtx) : TileCtx := { c with inflight := c.snap, snap := [], acts := c.kept, kept := [] }

/-- Changes the hardware context of every tile of a group. -/
def State.onMembers (s : State) (g : Group) (f : TileCtx → TileCtx) : State := g.tiles.foldl (fun s t => s.onCtx t g.urgent f) s

/-- The order of traps, R319: trap cycle, tile, slot. -/
def TrapRec.before (x y : TrapRec) : Bool :=
  x.cyc < y.cyc || x.cyc == y.cyc && (x.tile < y.tile || x.tile == y.tile && x.slot < y.slot)

/-- Puts a trap in its place. -/
def insertTrap (r : TrapRec) : List TrapRec → List TrapRec
  | [] => [r]
  | x :: l => if r.before x then r :: x :: l else x :: insertTrap r l

/-- The traps of a window in R319's order. -/
def Group.ordered (g : Group) : List TrapRec := g.window.foldl (fun l r => insertTrap r l) []

/-- What a trapping tile's registers tell of its first trap, R326 to R328. -/
def CRegs.tell (c : CRegs) (r : TrapRec) (multi : Bool) (pc : Nat) : CRegs :=
  { c with
    tcause := BitVec.ofNat 64 ((if multi then 2 ^ 62 else 0) + bits r.fpc 17 0 * 2 ^ 24 + r.slot * 2 ^ 16 + r.cause.code)
    tpc := BitVec.ofNat 64 (bits pc 17 2 * 4)
    tcyc := BitVec.ofNat 64 r.cyc
    tinfo := r.info }

/-- Tells every trapping tile of its first trap. -/
def State.tellTiles (s : State) (g : Group) : State :=
  let l := g.ordered
  ((l.map (·.tile)).eraseDups).foldl (fun s t => match l.find? (·.tile == t) with
    | some r => s.onCtx t g.urgent fun c => { c with cr := c.cr.tell r (1 < l.length) c.flow.fetch.pc }
    | none => s) s

/-- The outcome R323 gives a window. -/
inductive Disposal where
  | handle
  | hold
  | abort (r : TrapRec)
deriving DecidableEq, Repr

/-- R323 on a window: the first trap's cause ends the kernel where it is neither handled nor held (log 29). -/
def State.disposal (s : State) (g : Group) : Option Disposal :=
  let l := g.ordered
  let cr (r : TrapRec) : CRegs := (s.tctx r.tile g.urgent).cr
  l.head?.map fun r =>
    if l.all fun r => handleable r.cause && (cr r).tvec != 0#64 then .handle
    else if l.all fun r => handleable r.cause && (cr r).dbgctl.getLsbD 4 then .hold
    else .abort r

/-- The code a tile's txabort has given, R311. -/
def State.abortCodeAt (s : State) (t : Nat) (u : Bool) : Nat :=
  match (s.tctx t u).flow.wait with
  | some (.stopped c) => c.toNat
  | _ => 0

/-- The info of a trap's record, R328 and R376: a USER_ABORT carries the low bits of its code (R311). -/
def State.recordInfo (s : State) (u : Bool) (r : TrapRec) : Word :=
  if r.cause == .userAbort then BitVec.ofNat 64 (s.abortCodeAt r.tile u % 2 ^ 11) else r.info

/-- The record of a trap, R376. -/
def State.trapRecord (s : State) (k : Kernel) (u : Bool) (r : TrapRec) (fatal : Bool) : TqRec :=
  ⟨r.cause, s.recordInfo u r, 0, k.ticket.getD 0xFFFF, r.fpc, r.slot, r.tile, fatal, false, k.id⟩

/-- The traps of an ordered window that are handled: a handler runs for the first one of each tile (R323). -/
def Disposal.handles (d : Disposal) (l : List TrapRec) : List TrapRec :=
  if d == .handle then ((l.map (·.tile)).eraseDups).filterMap fun t => l.find? (·.tile == t) else []

/-- Hands the records of a window's traps that are not handled to the trap queue where they have not been, R323 and R377, also of two that are alike; of the
txaborts of one cycle only the first has one (R311). -/
def State.recordWindow (s : State) (k : Kernel) (g : Group) (d : Disposal) : State :=
  let l := g.ordered
  let rs := (g.recorded.foldl List.erase ((d.handles l).foldl List.erase l)).filter fun r =>
    !(r.cause == .userAbort && l.any fun o => o.cause == .userAbort && o.cyc == r.cyc && o.tile < r.tile)
  let final := match d with
    | .abort f => rs.head? == some f && !g.recorded.contains f
        && ({ k with abortCode := some (s.abortCodeAt f.tile g.urgent, f.tile) } : Kernel).final f.cause
    | _ => false
  (rs.zipIdx.foldl (fun s (r, i) => s.record g.ctx (s.trapRecord k g.urgent r (final && i == 0))) s).onGroup g.id fun g =>
    { g with recorded := g.recorded ++ rs }

/-- A handler begins at TVEC, R324. -/
def TileCtx.enterHandler (c : TileCtx) : TileCtx :=
  { c with
    flow := { c.flow with handler := some ⟨bits c.cr.tvec.toNat 17 2 * 4, none, []⟩, ereting := false }
    cr := { c.cr with tcause := c.cr.tcause ||| BitVec.ofNat 64 (2 ^ 63) } }

/-- A window's outcome, R323: handlers begin, the group is held, or the kernel aborts; a group in bring-up, which has no kernel, is released (log 41). -/
def State.conclude (s : State) (g : Group) (d : Disposal) : State :=
  let close (st : GState) (s : State) : State := s.onGroup g.id fun g => { g with st := st, window := [], recorded := [] }
  match d with
  | .handle => close .handling (((g.window.map (·.tile)).eraseDups).foldl (fun s t => s.onCtx t g.urgent TileCtx.enterHandler) s)
  | .hold => close .held s
  | .abort r =>
    if (s.kernel g.id).isNone then s.releaseGroup g.id
    else
      let code := if r.cause == .userAbort then some (s.abortCodeAt r.tile g.urgent, r.tile) else none
      (s.onKernel g.id fun k => { k with told := true, abortCode := code }).abort g.id r.cause

/-- The disposition of a frozen group, R323: it waits for its records to be written (R377). -/
def State.dispose (s : State) (id : Nat) : State :=
  match s.group id with
  | none => s
  | some g =>
    let s := s.tellTiles g
    match s.disposal g, s.kernel id with
    | none, _ => s
    | some d, none => s.conclude g d
    | some d, some k =>
      if k.st != KState.running then s
      else
        let s := s.recordWindow k g d
        if s.untold g.ctx id then s else s.conclude g d

/-- An urgent group whose tiles' main groups are all paused starts in the next gcy, R334. -/
def State.startUrgent (s : State) : State :=
  let ready (g : Group) : Bool := g.urgent && g.st == GState.placing 0 && s.crown.groups.all fun h => h.urgent || !g.tiles.any h.holds || h.paused
  { s with crown.groups := s.crown.groups.map fun g => if ready g then { g with st := .placing (s.gcyc.toNat + 1) } else g }

/-- A group stops at T + F, R320 and R321, and takes its disposition in that gcy (R323); a group that an urgent pause has asked for takes it
afterwards, and a switch gives way to the trap (R340). -/
def execFreezeStop (g : Nat) (s : State) : Out' :=
  match s.group g with
  | none => s.done
  | some x =>
    match x.st with
    | .freezing stop =>
      if x.paused || x.cnt < stop then s.done
      else
        let s := (s.onMembers x TileCtx.freeze).freeSlots x
        let pause := x.pauseAt.isSome && x.saveSlot.isNone
        let s := (s.onGroup g fun y => { y with st := .frozen, paused := pause, pauseAt := none, saveSlot := none }).startUrgent
        (if pause then s else s.dispose g).done
    | .frozen => (if x.paused then s else s.dispose g).done
    | _ => s.done

/-- A group resumes, R325; the faults kept pending are raised now (R319), and a stop to come stays to come. -/
def execGroupResume (g : Nat) (s : State) : Out' :=
  match s.group g with
  | none => s.done
  | some x =>
    match x.st with
    | .resuming n =>
      if x.paused || s.gcyc.toNat < n then s.done
      else
        let s := s.onMembers x TileCtx.thaw
        let st := match x.window with
          | r :: _ => GState.freezing (r.cyc + x.window')
          | [] => .running
        (s.onGroup g fun y => x.pend.foldl (fun y r => y.trap { r with cyc := y.cnt }) { y with st := st, pend := [] }).done
    | _ => s.done

/-- Handlers whose eret waits for nothing more leave handler mode, and with the last of a group it resumes F gcy later (R325). A group in
bring-up, which has no kernel to abort, is released when its handler traps (log 41). -/
def State.endHandlers (s : State) (g : Group) : State :=
  let leaving (c : TileCtx) : Bool := c.flow.ereting && c.inflight.isEmpty && c.acts.isEmpty
  let s := s.onMembers g fun c => if leaving c then
      { c with
        flow := { c.flow with handler := none, ereting := false }
        cr := { c.cr with tcause := c.cr.tcause &&& BitVec.ofNat 64 (2 ^ 63 - 1) } }
    else c
  if (s.kernel g.id).isNone && !g.window.isEmpty then s.releaseGroup g.id
  else if g.tiles.any fun t => (s.tctx t g.urgent).handling then s
  else s.onGroup g.id fun y => { y with st := .resuming (s.gcyc.toNat + g.window') }

/-- The group cycle counter reaches CYCALARM, R326. -/
def execCycleAlarm (t : Nat) (u : Bool) (s : State) : Out' :=
  match s.groupOf t u with
  | none => s.done
  | some g =>
    let a := (s.tctx t u).cr.cycalarm.toNat
    (if g.counts && a != 0 && a == g.cnt then s.raise t u .cycleAlarm 0#64 0x3FFFF 0xFF else s).done

/-! ### Urgent pause (R334, R335) -/

/-- A pause request reaches a group, R334: it stops F group cycles later, or is paused as it stands. -/
def Group.askPause (g : Group) : Group :=
  if g.paused then g
  else match g.st with
  | .running | .freezing _ => if g.pauseAt.isSome then g else { g with pauseAt := some (g.cnt + g.window') }
  | _ => { g with paused := true }

/-- The Crown loads an urgent kernel and sends its pause requests, R334. -/
def execUrgentPause (k : Nat) (p : Place) (s : State) : Out' :=
  match s.groupReady k p true with
  | none => s.done
  | some (n, g) =>
    let ok := s.crown.groups.all fun h => h.urgent || !g.tiles.any h.holds || h.paused || (match h.st with
      | .running | .freezing _ | .frozen => h.saveSlot.isNone && !(s.kernel h.id).any (·.inPlace)
      | _ => false)
    if !ok then s.done
    else
      let s := (s.loadGroup n { g with st := .placing 0 }).onKernel k fun n => { n with target := none }
      let ask (h : Group) : Group := if !h.urgent && g.tiles.any h.holds then h.askPause else h
      ({ s with crown.groups := s.crown.groups.map ask }.startUrgent).done

/-- A group asked to pause, or chosen for a switch, stops at its cycle, R334 and R337; a trap of its window wins over the switch (R340). -/
def execPauseStop (g : Nat) (s : State) : Out' :=
  match s.group g with
  | none => s.done
  | some x =>
    if !x.counts || !x.pauseAt.any (· ≤ x.cnt) then s.done
    else if x.saveSlot.isSome && x.st != GState.running then
      ((s.freeSlots x).onGroup g fun y => { y with saveSlot := none, pauseAt := none }).done
    else
      let s := s.onMembers x TileCtx.freeze
      let s := s.onGroup g fun y =>
        if x.saveSlot.isSome then { y with st := .switching, pauseAt := none } else { y with paused := true, pauseAt := none }
      s.startUrgent.done

/-- A paused group is released when no urgent group holds its tiles, R335: it resumes, or returns to the state it was paused in. -/
def execUrgentReleaseResume (g : Nat) (s : State) : Out' :=
  match s.group g with
  | none => s.done
  | some x =>
    if !x.paused || s.coveredBy x g then s.done
    else (s.onGroup g fun y => { y with
      paused := false
      st := match y.st with
        | .running | .freezing _ => .resuming (s.gcyc.toNat + y.window')
        | st => st }).done

/-! ### Full switch (R336 to R338) -/

/-- The class of a group's kernel. -/
def State.classOf (s : State) (g : Group) : Nat := (s.kernel g.id).elim 0 fun k => k.field 153 151

/-- The order in which groups are switched out, R336: lowest class first, among equals the latest dispatched. -/
def State.switchBefore (s : State) (x y : Group) : Bool :=
  let d (g : Group) : Nat := (s.kernel g.id).elim 0 (·.disp)
  s.classOf x < s.classOf y || s.classOf x == s.classOf y && d y < d x

/-- Free consecutive save slots, lowest first, R337. -/
def State.findSlots (s : State) (g : Group) : Option Nat :=
  let used := (vget s.crown.cwork g.ctx ⟨none, false, none, 0, []⟩).slots
  let n := g.tiles.length
  (List.range ((s.ctxt g.ctx).saveFrames * 16)).find? fun i =>
    i + n ≤ (s.ctxt g.ctx).saveFrames * 16 && used.all fun j => j < i || i + n ≤ j

/-- Whether a context's SAVE_FAILED record waits still for room in the trap queue: its groups are not switched until then (R377). -/
def State.saveUntold (s : State) (c : Nat) : Bool := (s.ctxt c).waiting.any (·.cause == .saveFailed)

/-- Chooses a group for a switch: its slots and number, and its stop (R337, R338); without slots its context gets a SAVE_FAILED record. -/
def State.askSwitch (s : State) (g : Group) : State :=
  match s.findSlots g with
  | none => s.record g.ctx (.plain .saveFailed 0 ((s.kernel g.id).bind (·.ticket)) false)
  | some i =>
    let no := (vget s.crown.cwork g.ctx ⟨none, false, none, 0, []⟩).switches + 1
    let s := { s with crown.cwork := vmod s.crown.cwork g.ctx fun w => { w with
      switches := no, slots := w.slots ++ (List.range g.tiles.length).map (i + ·) } }
    s.onGroup g.id fun g => { g with saveSlot := some i, switchNo := no, pauseAt := some (g.cnt + g.window') }

/-- A head that has waited 65,536 gcy for tiles has groups of lower class switched out, R336: the first ones in order that free enough. -/
def execFullSwitch (k : Nat) (v : List Nat) (s : State) : Out' :=
  match s.crown.sels.find? fun z => !z.retry && z.n == k with
  | none => s.done
  | some z =>
    let r := s.headRecord k
    let class' := fieldOf r 153 151
    let may := s.crown.groups.filter fun g => !g.urgent && g.st == GState.running && !g.paused && g.pauseAt.isNone && s.classOf g < class'
    let chosen := may.filter fun g => v.contains g.id
    let inOrder := may.all fun g => v.contains g.id || chosen.all fun h => !s.switchBefore g h
    let enough (l : List Nat) : Bool :=
      let t := { s with crown.groups := s.crown.groups.filter fun g => !l.contains g.id }
      (placesOf r).any fun p => t.placeable (false, k) (groupAt r 0 p)
    let last := chosen.filter fun g => chosen.all fun h => h.id == g.id || s.switchBefore h g
    let tight := last.all fun g => !enough (v.filter (· != g.id))
    if s.gcyc.toNat < z.since + 65536 || class' == 0 || class' == 7 || chosen.length != v.length || !inOrder || !enough v || !tight
        || chosen.any (fun h => s.saveUntold h.ctx) then s.done
    else (chosen.foldl (fun s g => if s.saveUntold g.ctx then s else s.askSwitch g) s).done

/-- What a stream waits for does not come while its group stands still: room in its in port or its ring, or a word of an out port (R154, R155, R211). -/
def State.stuck (s : State) (x : Stream) : Bool :=
  let cn := (s.tile x.tile).cn
  let dry (p : Option Nat) : Bool := p.any fun p => (vget cn.outp p []).all (·.lanes.act == 0#16)
  (wEnd x.dst == 3 && 4 ≤ (vget cn.inp (wPort x.dst) []).length)
    || (wPattern x.dst == 4 && (s.tctx x.tile x.urgent).rings.any fun r => r.base == wBase x.dst && r.cap ≤ r.written - r.released)
    || dry (wIndexPort x.src) || dry (wIndexPort x.dst)

/-- Whether a stream of a group that is switching holds nothing up, R337: it waits in a command queue; or it is a ring or port stream that stands at the boundary
of a segment with everything written, or that cannot reach one while the group stands still (DESIGN CHOICE, log 67). -/
def State.suspendable (s : State) (x : Stream) : Bool :=
  x.engine.isNone
    || (!s.streamHeld x && x.suspends && x.req.isEmpty && x.run.isNone && x.tokens.isEmpty
      && ((x.atBoundary && x.segLeft == 0 && (x.buf.isEmpty || x.grouped)) || s.stuck x))

/-- A save-area entry fails a check as a slot is written: fatal to the context (R368), with the kernel's ticket. -/
def State.saveFault (s : State) (g : Group) (c : Cause) : State :=
  s.faultContext g.ctx ⟨c, 0#64, 0, ((s.kernel g.id).bind (·.ticket)).getD 0xFFFF, 0x3FFFF, 0xFF, 0x1FF, true, c == .translation, 0⟩

/-- Every tile has written its slot, R337: the group's state leaves its tiles. The writes wait while a page of the save area migrates (R368). -/
def execSwitchSaveDone (g : Nat) (s : State) : Out' :=
  match s.group g with
  | none => s.done
  | some x =>
    match x.saveSlot with
    | none => s.done
    | some _ =>
      let mine := s.traffic.streams.filter (·.group == g)
      let quiet := mine.all s.suspendable && !s.traffic.toks.any (·.group == g) && !s.traffic.reloads.any (·.group == g)
        && !s.traffic.faults.any (·.group == g) && !s.crown.bReqs.any (·.group == g) && !s.links.reqs.any (·.group == some g)
        && x.tiles.all (fun t => (s.tile t).cn.whorls.all (·.flight.isEmpty) && s.tokIn.all fun k => k.1 != t || k.2.2.2.2 != some g)
      if x.st != GState.switching || x.paused || !quiet then s.done
      else match State.slotWalks x.ctx true x.slots s with
      | (.error (.trap c), s) => (s.saveFault x c).done
      | (.error _, s) => s.done
      | (.ok as, s) =>
        let s := (x.tiles.zip as).foldl (fun s (t, a) => s.saveTile x t a) s
        let put := x.tiles.map fun t =>
          let y := s.tile t
          (⟨g, t, y.main, y.cn, y.mx.cmds, mine.filter (·.tile == t)⟩ : Saved)
        let s := { s with saved := s.saved ++ put, traffic.streams := s.traffic.streams.filter (·.group != g) }
        let freed (t : Nat) : List Nat := (mine.filter (·.tile == t)).filterMap (·.engine)
        let s := x.tiles.foldl (fun s t => s.onTile t fun y =>
          { y.vacate false s.gcyc.toNat with engFree := (freed t).foldl (fun v e => vset v e s.gcyc.toNat) y.engFree }) s
        (s.onGroup g fun y => { y with st := .switchedOut }).done

/-- What the slots of a group at some addresses give back: its tiles' state, and position 0's. -/
def State.restoreSlots (s : State) (g : Group) (as : List Nat) : State :=
  let p := as.headD 0
  let s := ((g.tiles.zip as).zipIdx).foldl (fun s ((t, a), i) => match s.saved.find? fun y => y.group == g.id && y.tile == t with
    | some y => s.restoreTile g y a p i
    | none => s) s
  s.restoreGroup g.id p

/-- A switched-out group is restored on its tile ids, R338, once they are all open to it and outside the targets of the records that wait (R286). -/
def execRestore (g : Nat) (s : State) : Out' :=
  match s.group g, s.kernel g with
  | some x, some k =>
    if x.st != GState.switchedOut || k.st != KState.running || !s.placeable (true, g) x || x.tiles.any s.asleep then
      s.done
    else if s.lacksFeature (k.field 399 360) then (s.abort g .featureAbsent).done
    else match State.slotWalks x.ctx false x.slots s with
    | (.error _, s) => (s.abort g .restoreFailed).done
    | (.ok as, s) =>
      let now := s.restoreSlots x as
      if !(x.tiles.zip as).all fun (t, a) => s.slotSound now x t a then (s.abort g .restoreFailed).done
      else
        let s := now.freeSlots x
        (s.onGroup g fun y => { y with st := .resuming (s.gcyc.toNat + 1), saveSlot := none }).done
  | _, _ => s.done

/-! ### Power gating (R341) -/

/-- Changes a tile's power state. -/
def State.setPower (s : State) (t : Nat) (p : Power) : State := s.onTile t fun x => { x with power := p }

/-- A free tile idle for 10,000 cycles enters gating, R341. -/
def execGatingStart (t : Nat) (s : State) : Out' :=
  match (s.tile t).power with
  | .free n =>
    (if t < 480 && n + 10000 ≤ s.gcyc.toNat then s.setPower t (.gating (s.gcyc.toNat + 64)) else s).done
  | _ => s.done

/-- Gating completes: the tile has lost its state, R341; its memories are as after power-on (log 2). -/
def execGatingDone (t : Nat) (s : State) : Out' :=
  match (s.tile t).power with
  | .gating n =>
    (if n ≤ s.gcyc.toNat then s.onTile t fun x => { Tile.reset with power := .gated, engFree := x.engFree, sent := x.sent } else s).done
  | _ => s.done

/-- A wake from the Crown, R341; one that finds the tile gating takes it straight to waking. -/
def execTileWake (t : Nat) (s : State) : Out' :=
  match (s.tile t).power with
  | .gated => (s.setPower t (.waking (s.gcyc.toNat + 512))).done
  | .gating _ =>
    (s.onTile t fun x => { Tile.reset with power := .waking (s.gcyc.toNat + 512), engFree := x.engFree, sent := x.sent }).done
  | _ => s.done

/-- Waking completes, R341. -/
def execTileWakeDone (t : Nat) (s : State) : Out' :=
  match (s.tile t).power with
  | .waking n => (if n ≤ s.gcyc.toNat then s.setPower t (.free s.gcyc.toNat) else s).done
  | _ => s.done

/-! ### Management (R398) -/

/-- MGMTCMD as a command leaves it, R396: busy clear, its status and fields; what lies between is reserved and reads as zero (R4). -/
def mgmtWord (status op c t : Nat) : Word := BitVec.ofNat 64 (status * 2 ^ 60 + op * 2 ^ 56 + c * 2 ^ 48 + t)

/-- A management event fires vector 65 (R383); the model counts HALT, RESUME, a change of throttle and a trip as such (DESIGN CHOICE, log 40). -/
def State.manage (s : State) : State := s.msix 65

/-- HALT: every running group of the context raises DEBUG_HALT on each of its tiles, R329 and R398. -/
def execMgmtHalt (x : MgmtArgs) (s : State) : Out' :=
  let hit (g : Group) : Bool := g.ctx == x.ctx.val && g.counts
  let halt (g : Group) : Group := g.tiles.foldl (fun g t => g.trap ⟨t, g.cnt, .debugHalt, 0x3FFFF, 0xFF, 0#64⟩) g
  s.whenRunning { s with crown.groups := s.crown.groups.map fun g => if hit g then halt g else g, boot.mgmt := mgmtWord 0 0 x.ctx.val x.tile.toNat }.manage

/-- RESUME: a held group resumes under R325, R398; the owner tile that names it is the one of group position (0, 0) (log 31). -/
def execMgmtResume (c : Fin 64) (t : BitVec 9) (s : State) : Out' :=
  s.whenRunning <| match s.crown.groups.find? fun g => g.ctx == c.val && g.st == GState.held && !g.paused && g.home == t.toNat with
  | none => { s with boot.mgmt := mgmtWord 1 1 c.val t.toNat }
  | some g =>
    { s.onGroup g.id (fun g => { g with st := .resuming (s.gcyc.toNat + g.window') }) with boot.mgmt := mgmtWord 0 1 c.val t.toNat }.manage

end Sys2Proof.Machine
end

