-- ==== Sys2Proof/Machine/Context.lean ====
section
/-! DEFINITION. The host's operations on contexts (R268 to R275, R263) and on page lists (R371 to R375). -/
namespace Sys2Proof.Machine

/-! ### CTXCMD (R270) -/

/-- A command register's fields, R270, R372 and R395: busy, status, op, ctx and arg; what lies between is reserved and reads as zero (R4). -/
def cmdWord (busy : Bool) (status op c arg : Nat) : Word :=
  BitVec.ofNat 64 ((if busy then 2 ^ 63 else 0) + status * 2 ^ 60 + op * 2 ^ 56 + c * 2 ^ 48 + arg % 2 ^ 48)

/-- A CTXCMD command completes with a status, and with what it returns. -/
def State.ctxDone (s : State) (status op c arg : Nat) : State := { s with boot.ctxcmd := cmdWord false status op c arg }

/-- The command that keeps CTXCMD busy completes: its other fields stay as they were written. -/
def State.ctxEnd (s : State) (status : Nat) : State :=
  let w := s.boot.ctxcmd.toNat
  s.ctxDone status (bits w 59 56) (bits w 53 48) (bits w 47 0)

/-- A write that starts a command; ignored while busy is 1 (R270). -/
def State.ctxCommand (s : State) (f : State) : Out' := s.whenRunning (if s.boot.ctxcmd.getLsbD 63 then s else f)

/-- Statuses of R270: OK, BAD_STATE, BAD_ARG, REFUSED, NO_FREE. -/
def stOk : Nat := 0
/-- BAD_STATE. -/
def stBadState : Nat := 1
/-- BAD_ARG. -/
def stBadArg : Nat := 2
/-- REFUSED. -/
def stRefused : Nat := 3
/-- NO_FREE. -/
def stNoFree : Nat := 4

/-- The check of a context record, R269 and R271. -/
def State.recordOk (s : State) (r : Wide) : Bool :=
  let f := fieldOf r
  f 175 3 == 0 && f 511 472 % 64 == 0 && f 455 416 % 64 == 0 && 64 ≤ f 415 400 && f 303 288 != 0
    && (s.crown.ctxs.all fun x => x.st == CtxtState.free || x.regions &&& BitVec.ofNat 64 (f 239 176) == 0#64)
    && (List.range (f 303 288)).all fun i => let w := s.viewNum (f 343 304 + 8 * i) 8; entryBit w 63 && entryBit w 62

/-- A context made from its record, R268 and R269. -/
def Ctxt.make (r : Wide) : Ctxt :=
  let f := fieldOf r
  { Ctxt.reset with
    st := .building
    secure := f 0 0 == 1
    ttBase := f 511 472
    ttCount := f 471 456
    trapBase := f 455 416
    trapLen := f 415 400
    saveRoot := f 399 360
    saveFrames := f 359 344
    poolRoot := f 343 304
    poolFrames := f 303 288
    regions := BitVec.ofNat 64 (f 239 176)
    urgent := f 2 2 == 1
    readback := f 1 1 == 1
    step := BitVec.ofNat 48 (f 287 240) }

/-- CREATE on a record: the id assigned, or the status of R271. Which free context it takes is a free value (log 5). -/
def State.create (s : State) (a : Nat) (secure : Bool) : Except Nat Nat × State :=
  let free := (List.range 64).filter fun c => (s.ctxt c).st == CtxtState.free
  let r := BitVec.ofNat 512 (s.viewNum a 64)
  if free.isEmpty then (.error stNoFree, s)
  else if !s.recordOk r then (.error stBadArg, s)
  else if (fieldOf r 0 0 == 1) != secure then (.error (if secure then stBadArg else stRefused), s)
  else
    let (i, s) := s.freeNat
    let c := free.getD (i % free.length) 0
    let s := s.onCtxt c fun _ => Ctxt.make r
    (.ok c, { s with
      crown.cwork := vset s.crown.cwork c ⟨none, false, none, 0, []⟩
      roots.descs := s.roots.descs.filter (·.ctx != c) })

/-- CREATE, R271: ctx returns the id; of a failure the registers' fields stay as written. -/
def execCtxCreate (x : CmdArgs) (s : State) : Out' :=
  s.ctxCommand (match s.create x.arg.toNat false with
    | (.ok n, s) => s.ctxDone stOk 0 n x.arg.toNat
    | (.error e, s) => s.ctxDone e 0 x.ctx.val x.arg.toNat)

/-- SEAL, R272. -/
def execCtxSeal (x : CmdArgs) (s : State) : Out' :=
  s.ctxCommand (if (s.ctxt x.ctx).st == CtxtState.building then (s.onCtxt x.ctx fun y => { y with st := .ready }).ctxDone stOk 1 x.ctx.val x.arg.toNat
    else s.ctxDone stBadState 1 x.ctx.val x.arg.toNat)

/-- Disables every queue of a context, R272 and R284. -/
def State.disableQueues (s : State) (c : Nat) : State :=
  let off (q : Queue) : Queue :=
    if q.st != QState.unbound && q.ctx == c then { q with en := false, st := if q.st == QState.enabled then .disabled else q.st } else q
  { s with crown.queues := s.crown.queues.map off }

/-- QUIESCE, R272. -/
def execCtxQuiesce (x : CmdArgs) (s : State) : Out' :=
  s.ctxCommand (if (s.ctxt x.ctx).st == CtxtState.active then ((s.disableQueues x.ctx).onCtxt x.ctx fun y => { y with st := .quiescing }).ctxDone stOk 2 x.ctx.val x.arg.toNat
    else s.ctxDone stBadState 2 x.ctx.val x.arg.toNat)

/-- Every live kernel of a context aborts with KILL, R272 and R339. -/
def State.killAll (s : State) (c : Nat) : State :=
  ((s.crown.kernels.filter fun k => k.ctx == c && k.st.live).map (·.id)).foldl (fun s k => s.abort k .kill) s

/-- KILL, R272. -/
def execCtxKill (x : CmdArgs) (s : State) : Out' :=
  s.ctxCommand (match (s.ctxt x.ctx).st with
    | .ready | .active | .quiescing => ((s.killAll x.ctx).onCtxt x.ctx fun y => { y with st := .ready }).ctxDone stOk 3 x.ctx.val x.arg.toNat
    | .faulted => (s.killAll x.ctx).ctxDone stOk 3 x.ctx.val x.arg.toNat
    | _ => s.ctxDone stBadState 3 x.ctx.val x.arg.toNat)

/-- DESTROY, R272 and R274: busy stays 1 until the scrub completes. -/
def execCtxDestroy (x : CmdArgs) (s : State) : Out' :=
  s.ctxCommand (match (s.ctxt x.ctx).st with
    | .free | .destroyed => s.ctxDone stBadState 4 x.ctx.val x.arg.toNat
    | _ => { (s.killAll x.ctx).onCtxt x.ctx (fun y => { y with st := .destroyed }) with boot.ctxcmd := cmdWord true 0 4 x.ctx.val x.arg.toNat })

/-- Zeroes the frames of a flat list, R274. The scrub waits for no page and asks for no permission: it zeroes also a migrating frame and one without W
(DESIGN CHOICE, log 91); a leaf's other checks and its A and D bits are those of R368 and R375. -/
def State.scrubFrames (s : State) (root n : Nat) (big world : Bool) : State :=
  (List.range n).foldl (fun s i => match s.flatWalk root i big world false with
    | (.ok a e, s) => (s.setEntryBit e 58).zeroHbm a (if big then 2 ^ 26 else 2 ^ 19)
    | (_, s) => s) s

/-- The scrub of a destroyed context, R274, once its groups are released, its kernels have ended and no settling copy of it is held (R368). -/
def execDestroyScrubDone (c : Fin 64) (s : State) : Out' :=
  let x := s.ctxt c
  if x.st != CtxtState.destroyed || s.crown.kernels.any (fun k => k.ctx == c && k.st.live) || s.crown.groups.any (·.ctx == c.val) then s.done
  else
    let lines := (s.roots.versions.filter fun v => v.ctx == c.val && s.committed v).map (·.line)
    let s := lines.foldl State.settleLine s
    if lines.any fun l => s.isHeld (.settle l) then s.done else
    let s := { s with roots.versions := s.roots.versions.filter (·.ctx != c.val) }
    let s := (s.scrubFrames x.poolRoot x.poolFrames false x.secure).scrubFrames x.saveRoot x.saveFrames true x.secure
    let s := (List.range 64).foldl (fun s i => if x.regions.getLsbD i then s.zeroRegion i else s) s
    let unbind (q : Queue) : Queue := if q.st != QState.unbound && q.ctx == c.val then Queue.reset else q
    let s := { s with
      crown.queues := s.crown.queues.map unbind
      crown.kernels := s.crown.kernels.filter (·.ctx != c.val)
      crown.sels := s.crown.sels.filter fun z => (if z.retry then (s.kernel z.n).elim 64 (·.ctx) else (s.queue z.n).ctx) != c.val
      crown.cwork := vset s.crown.cwork c ⟨none, false, none, 0, []⟩
      roots.descs := s.roots.descs.filter (·.ctx != c.val)
      roots.holds := s.roots.holds.filter (·.ctx != c.val) }
    ((s.onCtxt c fun _ => Ctxt.reset).ctxEnd stOk).done

/-- STEP_WRITE, R248, R263 and R272: unless the value stays, a pass over the ringed tensors as heartwood holds them begins. -/
def execCtxStepWrite (c : Fin 64) (n : BitVec 48) (s : State) : Out' :=
  let x := s.ctxt c
  let live := s.crown.kernels.any fun k => k.ctx == c.val && k.st.live
  s.ctxCommand (if !(x.st == CtxtState.building || x.st == CtxtState.ready) || live then s.ctxDone stBadState 5 c.val n.toNat
    else if n == x.step then s.ctxDone stOk 5 c.val n.toNat
    else { s with
      crown.cwork := vmod s.crown.cwork c fun w => { w with stepWrite := some (n, ⟨s.ringedTensors c.val, n.toNat, 0⟩) }
      boot.ctxcmd := cmdWord true 0 5 c.val n.toNat })

/-- The pass of a STEP_WRITE goes on, R263: at its end STEP takes its value; an error faults the context, leaves STEP and the groups already rewritten,
and completes with BAD_STATE. -/
def execStepWriteDone (c : Fin 64) (s : State) : Out' :=
  match (vget s.crown.cwork c ⟨none, false, none, 0, []⟩).stepWrite with
  | none => s.done
  | some (n, p) =>
    let set (s : State) (l : Option (BitVec 48 × Pass)) : State := { s with crown.cwork := vmod s.crown.cwork c fun w => { w with stepWrite := l } }
    match s.runPass c 0xFFFF (stepWriteRule (s.ctxt c).step.toNat n.toNat) p with
    | (_, .ok _ s) => (((set s none).onCtxt c fun x => { x with step := n }).ctxEnd stOk).done
    | (k, .wait s) => (set s (some (n, { p with past := k }))).done
    | (_, .fault f s) => (((set s none).fatalEvent c (if f == .integrity then .sweepError else f) none).ctxEnd stBadState).done

/-- STEP_READ, R270: arg returns STEP. -/
def execCtxStepRead (x : CmdArgs) (s : State) : Out' :=
  s.ctxCommand (match (s.ctxt x.ctx).st with
    | .free | .destroyed => s.ctxDone stBadState 6 x.ctx.val x.arg.toNat
    | _ => s.ctxDone stOk 6 x.ctx.val (s.ctxt x.ctx).step.toNat)

/-! ### PGCMD (R371 to R375) -/

/-- A page command completes. -/
def State.pgDone (s : State) (status op c arg : Nat) : State := { s with boot.pgcmd := cmdWord false status op c arg }

/-- A write that starts a page command; ignored while busy is 1 (R372). Here each completes in its own step. -/
def State.pgCommand (s : State) (f : State) : Out' := s.whenRunning (if s.boot.pgcmd.getLsbD 63 then s else f)

/-- An entry's word with bits lo and hi cleared. -/
def clearBit (w i : Nat) : Nat := if entryBit w i then w - 2 ^ i else w

/-- Steps 1 and 2 of R373: the word is replaced, and every copy of the entry, or below it, is dropped. -/
def State.replaceEntry (s : State) (a new : Nat) : State :=
  let s := s.crownWrite a (leBytes 8 new)
  { s with roots.walks := s.roots.walks.filter fun w => w.entry != a && w.parent != some a }

/-- A valid leaf that an UPDATE closes or moves, step 3 of R373. -/
def closes (old new : Nat) : Bool :=
  entryBit old 63 && entryBit old 62
    && (!entryBit new 63 || (entryBit old 61 && !entryBit new 61) || (!entryBit old 56 && entryBit new 56) || bits old 39 10 != bits new 39 10)

/-- Bytes of a tensor's address space, R148 and R366. -/
def descBytes (d : Wide) : Nat :=
  let one := descRank d == 0
  let swap := bits (descLayout d) 2 2 == 1
  let e0 := descExt d (if swap then 1 else 0)
  let e1 := descExt d (if swap then 0 else 1)
  let rows := if one then cdiv (cdiv e0 64) 64 else cdiv e1 64
  let cols := if one then 1 else cdiv e0 64
  (if one then 1 else descExt d 3 * descExt d 2) * (if bits (descLayout d) 1 1 == 0 then rows * cols else 4 ^ log2Up (max rows cols))
    * panelBytes ((fmtBits (descFmt d)).getD 8)

/-- Whether an entry belongs to a level-1 array, whose leaves have 64 MiB: of a page list by a walk unit's copy or a descriptor, or of a save area (R337,
R366; log 65). -/
def State.bigEntry (s : State) (a : Nat) : Bool :=
  let within (root n : Nat) : Bool := root ≤ a && a < root + 8 * n
  s.roots.walks.any (fun w => w.entry == a && w.big)
    || s.crown.ctxs.toList.any (fun x => x.st != CtxtState.free && within x.saveRoot x.saveFrames)
    || (List.range 64).any fun c => (s.ctxt c).st != CtxtState.free && (List.range ((s.ctxt c).ttCount + 1)).any fun tid =>
      (s.heartDesc c tid).any fun d => descSound d && within (descRoot d) (cdiv (descBytes d) (2 ^ 26))

/-- The versions that lie in the frame of a leaf, or were reached through it (R373). -/
def State.inFrame (s : State) (a old : Nat) (v : Version) : Bool :=
  let base := bits old 39 19 * 2 ^ 19
  v.spot.entry == a || (base ≤ 256 * v.line && 256 * v.line < base + if s.bigEntry a then 2 ^ 26 else 2 ^ 19)

/-- Kernels that hold a version of their own in the frame: live ones whose ticket has not passed, also one that writes in place. -/
def State.frameKernels (s : State) (a old : Nat) : List Kernel :=
  let vs := s.roots.versions.filter (s.inFrame a old)
  s.crown.kernels.filter fun k => k.st.live && k.st != KState.committing && vs.any fun v => v.ctx == k.ctx && some v.ticket == k.ticket

/-- UPDATE, R373: the committed versions in a frame that is closed or moved settle into the frame they were made in. -/
def execPgUpdate (c : Fin 64) (a : BitVec 48) (s : State) : Out' :=
  s.pgCommand <|
    let a := a.toNat
    let new := s.boot.pgdata.toNat
    if a % 8 != 0 then s.pgDone stBadArg 0 c.val a
    else
      let old := s.viewNum a 8
      let pinned := entryBit old 63 && entryBit old 62 && entryBit old 57
      let plain (w : Nat) : Nat := clearBit (clearBit (clearBit w 59) 58) 57
      let ks := if closes old new then s.frameKernels a old else []
      if (pinned && plain old != plain new) || ks.any (fun k => k.serial || k.inPlace) then s.pgDone stRefused 0 c.val a
      else
        let lines := (s.roots.versions.filter fun v => closes old new && s.inFrame a old v && s.committed v).map (·.line)
        let s := lines.foldl (fun s l => s.putVersions l (256 * l)) s
        let s := s.replaceEntry a new
        let s := ks.foldl (fun s k => s.abort k.id .txConflict) s
        let wake (h : Hold) : Hold := if h.entry == a && !h.place then { h with woken := true } else h
        let s := { s with roots.holds := s.roots.holds.map wake }
        { s.pgDone stOk 0 c.val a with boot.pgdata := BitVec.ofNat 64 old }

/-- ADCLEAR, R373: clears the A or D bits PGDATA selects. -/
def execPgAdclear (c : Fin 64) (a : BitVec 48) (s : State) : Out' :=
  s.pgCommand <|
    let a := a.toNat
    if a % 8 != 0 then s.pgDone stBadArg 1 c.val a
    else
      let old := s.viewNum a 8
      let d := s.boot.pgdata
      let w := if d.getLsbD 59 then clearBit old 59 else old
      let w := if d.getLsbD 58 then clearBit w 58 else w
      { (s.replaceEntry a w).pgDone stOk 1 c.val a with boot.pgdata := BitVec.ofNat 64 old }

/-- WAKE, R371: the held element named by arg's bits 31:0 is retried; an id no longer held is BAD_STATE. -/
def execPgWake (c : Fin 64) (a : BitVec 48) (s : State) : Out' :=
  let hit (h : Hold) : Bool := h.ctx == c.val && h.fid == some (bits a.toNat 31 0) && !h.woken
  let wake (h : Hold) : Hold := if hit h then { h with woken := true } else h
  s.pgCommand
    (if s.roots.holds.any hit then { s.pgDone stOk 2 c.val a.toNat with roots.holds := s.roots.holds.map wake }
     else s.pgDone stBadState 2 c.val a.toNat)

end Sys2Proof.Machine
end

