-- ==== Sys2Proof/Machine/Link.lean ====
section
/-! DEFINITION. The links (R378 to R391): the host's accesses to HBM, incoming UALink requests, responses to the package's own requests, and the
links' states. -/
namespace Sys2Proof.Machine

/-! ### BAR2 (R379, R380) -/

/-- A host read through BAR2, R380; offsets at or above 768 GiB read as zero (R379). Nothing crosses a link that carries no request (R390), and bytes
that do not fit their check value are not used: the read gets an error (R400, log 73). A version's bytes are read through its pool leaf (R368). -/
def execHostBar2Read (a : BitVec 40) (n : Nat) (s : State) : Out' :=
  let m := min n (hbmEnd - a.toNat)
  (if !s.pcieUp then s
   else if s.spannedBad a.toNat m then s.emit .errorReply
   else (s.seeLines a.toNat m).emit (.barData (s.viewRead a.toNat m ++ List.replicate (n - m) 0#8))).done

/-- A host write through BAR2, R380: it lands once the committed versions of its lines have settled, and waits while a copy is held (R368). Where a copy fails,
which is fatal to the version's context, the write lands on what stands above the line too, so that no later copy overwrites it (log 89). Offsets at or above
768 GiB ignore it (R379). -/
def execHostBar2Write (a : BitVec 40) (v : List (BitVec 8)) (s : State) : Out' :=
  let v := v.take (hbmEnd - a.toNat)
  if !s.pcieUp then s.done
  else
    let lines := linesOf a.toNat v.length
    match State.settleCopies lines s with
    | (.done, s) => (s.putHbm a.toNat v).done
    | (.held, s) => State.done { s with refused := true }
    | (.failed _, s) =>
      let s := lines.foldl State.settleLine s
      if lines.any fun l => s.isHeld (.settle l) then State.done { s with refused := true } else (s.landHbm a.toNat v).done

/-! ### Incoming requests (R385 to R388) -/

/-- The tile a request names. -/
def ualTarget (q : UalReq) : Nat := bits q.addr.toNat 45 37

/-- The offset it names. -/
def ualOffset (q : UalReq) : Nat := bits q.addr.toNat 20 0

/-- The group a request reaches, R387: its tile's main context runs a group of the named context and world. -/
def State.reached (s : State) (q : UalReq) : Option Group :=
  if bits q.addr.toNat 36 21 != 0 || 480 ≤ (ualTarget q) then none
  else (s.groupOf (ualTarget q) false).filter fun g =>
    g.ctx == q.ctx.toNat && (s.ctxt g.ctx).secure == q.world && (match g.st with
      | .placing _ | .switchedOut => false
      | _ => true)

/-- A port that has never trained. -/
def Port.idle : Port := ⟨.down, 0, 0#3, 0#2⟩

/-- Whether a port carries requests, R390. -/
def State.portUp (s : State) (p : Nat) : Bool := (vget s.links.ports p Port.idle).carries

/-- An incoming request comes in by a port that carries requests; by another none does (R390). -/
def State.incoming (s : State) (q : UalReq) (o : Out') : Out' := if s.portUp q.port then o else s.done

/-- A scratchpad request of `n` bytes that R387 accepts. -/
def State.accepts (s : State) (q : UalReq) (n : Nat) : Bool :=
  bits q.addr.toNat 47 46 == 0 && (s.reached q).isSome && (ualOffset q) + n ≤ partHi false

/-- Serves an accepted request at its banks' free cycle, or sends an error response (R387); a request whose bank is taken waits in line (R64). -/
def State.serve (s : State) (q : UalReq) (n : Nat) (f : State → State) : Out' :=
  s.incoming q <|
  if !s.accepts q n then (s.emit .errorReply).done
  else match s.takeBanks ((wordSpan (ualOffset q) n).map fun w => spadBank (ualTarget q) (64 * w)).eraseDups with
    | none => State.done { s with refused := true }
    | some s => (f s).done

/-- Uses bytes that an accepted request reads, if they fit their check values: where they do not, the request gets an error and the kernel whose scratchpad
it is aborts with INTEGRITY (R400, log 73). -/
def State.servedSound (s : State) (q : UalReq) (n : Nat) (f : State → State) : State :=
  if s.badLoc (.spad (ualTarget q) (ualOffset q)) n then ((s.reached q).elim s fun g => s.spoil g.id (ualTarget q)).emit .errorReply else f s

/-- An incoming read, R385 and R387. -/
def execUalReadRequest (q : UalReq) (n : Nat) (s : State) : Out' :=
  s.serve q n fun s => s.servedSound q n fun s => s.emit (.reply ((s.tile (ualTarget q)).spad.read (ualOffset q) n))

/-- Writes applied from a rank and tile, R388. -/
def State.appliedFrom (s : State) (rank tile : Nat) : Nat :=
  (s.links.applied.find? fun x => x.1 == rank && x.2.1 == tile).elim 0 (·.2.2)

/-- Counts a write applied. -/
def State.countApplied (s : State) (rank tile : Nat) : State :=
  { s with links.applied := (rank, tile, s.appliedFrom rank tile + 1) :: s.links.applied.filter fun x => !(x.1 == rank && x.2.1 == tile) }

/-- An incoming write, R385 and R387. -/
def execUalWriteRequest (q : UalReq) (v : List (BitVec 8)) (s : State) : Out' :=
  s.serve q v.length fun s =>
    ((s.writeLoc (.spad (ualTarget q) (ualOffset q)) v).countApplied q.rank.toNat q.tile.toNat).emit (.reply [])

/-- An incoming atomic on an aligned word, indivisible at its bank (R385, R360): it answers the old value. -/
def State.serveAtomic (s : State) (q : UalReq) (w : Bool) (f : Nat → Nat) : Out' :=
  let n := if w then 8 else 4
  if (ualOffset q) % n != 0 then s.incoming q (s.emit .errorReply).done
  else s.serve q n fun s => s.servedSound q n fun s =>
    let old := (s.tile (ualTarget q)).spad.num (ualOffset q) n
    (s.writeLoc (.spad (ualTarget q) (ualOffset q)) (leBytes n (f old))).emit (.reply (leBytes n old))

/-- Atomic add, R385. -/
def execUalAtomicAdd (q : UalReq) (w : Bool) (v : Word) (s : State) : Out' := s.serveAtomic q w fun old => old + v.toNat

/-- Atomic swap, R385. -/
def execUalAtomicSwap (q : UalReq) (w : Bool) (v : Word) (s : State) : Out' := s.serveAtomic q w fun _ => v.toNat

/-- Compare-and-swap with `x`, R385. -/
def execUalAtomicCas (q : UalReq) (w : Bool) (x v : Word) (s : State) : Out' :=
  s.serveAtomic q w fun old => if old == x.toNat % (if w then 2 ^ 64 else 2 ^ 32) then v.toNat else old

/-- A write to the token window with its count, R386 to R388: it is held until the writes before it are applied. -/
def execTokenWindowWrite (q : UalReq) (v : List (BitVec 8)) (n : Nat) (s : State) : Out' :=
  s.incoming q <| match s.reached q with
  | none => (s.emit .errorReply).done
  | some g =>
    if bits q.addr.toNat 47 46 != 1 || v.length != 8 || bits (ualOffset q) 20 9 != 0 || bits (ualOffset q) 2 0 != 0 then (s.emit .errorReply).done
    else
      let (id, s) := s.fresh
      let t : HeldToken := ⟨id, q.rank.toNat, q.tile.toNat, (ualTarget q), Fin.ofNat 64 (bits (ualOffset q) 8 3), leNat v % 2 ^ 32, n, g.id⟩
      ({ s with links.held := s.links.held ++ [t] }.emit (.reply [])).done

/-- A held remote token lands, R388. -/
def execRemoteTokenLand (n : Nat) (s : State) : Out' :=
  match s.links.held.find? (·.id == n) with
  | none => s.done
  | some t =>
    if s.appliedFrom t.rank t.src < t.count then s.done
    else
      let s := { s with links.held := s.links.held.filter (·.id != n) }
      (if (s.tctx t.tile false).group == some t.group then s.token t.tile false t.counter t.amount else s).done

/-! ### Responses (R382, R385, R389) -/

/-- The kernel whose escape a request is, whose end waits for the record of its failure (R377); 0 once it has ended. -/
def State.escapeOwner (s : State) (r : Request) : Nat := (s.crown.kernels.find? fun k => k.ctx == r.ctx && k.ticket == some r.ticket).elim 0 (·.id)

/-- A request has failed: a stream fault; a fault of the tile that sent a tok, or an escape of a DIRECT kernel whose group stands; or after a commit a
record (R389). -/
def State.failRequest (s : State) (r : Request) (c : Cause) : State :=
  let s := { s with links.reqs := s.links.reqs.filter (·.id != r.id) }
  match r.stream, r.group with
  | some n, _ =>
    match s.stream n with
    | some x => s.streamTrap x ((x.req.find? (·.1 == r.id)).elim 0 (·.2.1)) c
    | none => s
  | none, some g => s.tileFault g r.tile c
  | none, none => match r.direct.bind s.group with
    | some g => s.tileFault g.id r.tile c
    | none => s.record r.ctx ⟨.remoteError, 0#64, 0, r.ticket, 0x3FFFF, 0xFF, r.tile, false, false, s.escapeOwner r⟩

/-- A request of the package by its number. -/
def State.request? (s : State) (n : Nat) (host : Bool) : Option Request := s.links.reqs.find? fun r => r.id == n && (r.port == 32) == host

/-- Whether a response to a request may still arrive, R389: its port carries, and 2^24 gcy have not gone by since it was issued (the gcy that ends them
counts as too late; DESIGN CHOICE, log 90). -/
def State.inTime (s : State) (r : Request) : Bool := s.portUp r.port && s.gcyc.toNat < r.sent + 2 ^ 24

/-- An error response, R389. -/
def execRemoteErrorResponse (n : Nat) (s : State) : Out' :=
  match s.request? n false with
  | none => s.done
  | some r => (if s.inTime r then s.failRequest r .remoteError else s).done

/-- No response within 2^24 gcy, R389. -/
def execRemoteResponseTimeout (n : Nat) (s : State) : Out' :=
  match s.request? n false with
  | none => s.done
  | some r => (if r.sent + 2 ^ 24 ≤ s.gcyc.toNat then s.failRequest r .remoteError else s).done

/-- A response to a stream's request: its data, or the acknowledgement of a write. -/
def State.answer (s : State) (r : Request) (v : List Byte) : State :=
  let s := { s with links.reqs := s.links.reqs.filter (·.id != r.id) }
  match r.stream.bind s.stream with
  | none => s
  | some x =>
    match x.req.find? (·.1 == r.id) with
    | none => s
    | some (_, e, w) => if w then s.acknowledged x r.id else s.arrived x r.id e v

/-- A UALink response, R385. -/
def execRemoteReadResponse (n : Nat) (v : List (BitVec 8)) (s : State) : Out' :=
  match s.request? n false with
  | none => s.done
  | some r => (if s.inTime r then s.answer r v else s).done

/-- A PCIe completion of a host read, R382: HOST_ERROR when it is bad. -/
def execHostReadCompletion (n : Nat) (g : Bool) (v : List (BitVec 8)) (s : State) : Out' :=
  match s.request? n true with
  | none => s.done
  | some r => (if !s.pcieUp then s else if g then s.answer r v else s.failRequest r .hostError).done

/-- A host read without a completion, R382. -/
def execCompletionTimeout (n : Nat) (s : State) : Out' :=
  match s.request? n true with
  | none => s.done
  | some r => (s.failRequest r .hostError).done

/-! ### Link states (R390, R391) -/

/-- Moves a link from one of some states. -/
def State.moveLink (s : State) (p : Nat) (states : List LinkState) (f : Port → Port) : State :=
  if states.contains (vget s.links.ports p Port.idle).st then { s with links.ports := vmod s.links.ports p f } else s

/-- A retrain is requested, R390: of a port by PORTSTAT (R391), of the PCIe link by its other end, once the package is out of reset. -/
def execPortstatRetrain (p : Fin 33) (s : State) : Out' :=
  let t := s.moveLink p [.down] fun x => { x with st := .training }
  if p.val == 32 then (if s.boot.inReset then s else t).done else s.whenRunning t

/-- Trained at full rate and width, R390 and R391. -/
def execLinkTrained (p : Fin 33) (s : State) : Out' :=
  (s.moveLink p [.training] fun x => { x with st := .up, width := 4#3, rate := 0#2 }).done

/-- Trained at a lower rate or width, R390; PORTSTAT's width is at most 4, and width 4 at rate 0 is no lower one. -/
def execLinkTrainedDegraded (p : Fin 33) (w : BitVec 3) (r : BitVec 2) (s : State) : Out' :=
  (if w.toNat ≤ 4 && !(w == 4#3 && r == 0#2) then s.moveLink p [.training] fun x => { x with st := .degraded, width := w, rate := r } else s).done

/-- Training fails, R390. -/
def execLinkTrainingFail (p : Fin 33) (s : State) : Out' :=
  (s.moveLink p [.training] fun x => { x with st := .down, width := 0#3, rate := 3#2 }).done

/-- A link error, R390 and R391: errs counts it, saturating. -/
def execLinkError (p : Fin 33) (s : State) : Out' :=
  (s.moveLink p [.up, .degraded] fun x => { x with st := .error, errs := min 0xFFFF (x.errs + 1) }).done

/-- The requests in flight on an errored link fail with LINK_DOWN and it goes down, R389 and R390. -/
def execLinkErrorDrained (p : Fin 33) (s : State) : Out' :=
  if (vget s.links.ports p Port.idle).st != LinkState.error then s.done
  else
    let lost := s.links.reqs.filter (·.port == p.val)
    ((lost.foldl (fun s r => s.failRequest r .linkDown) s).moveLink p [.error] fun x => { x with st := .down, width := 0#3, rate := 3#2 }).done

end Sys2Proof.Machine
end

