-- ==== Sys2Proof/Machine/Platform.lean ====
section
/-! DEFINITION. The platform (R393 to R404): reset and boot, the security processor, housekeeping registers, bring-up, soft errors and trips. -/
namespace Sys2Proof.Machine

/-! ### Reset and boot (R393) -/

/-- PWRGOOD and PERST# release, R393 step 1: the security ROM starts, and the links begin to train (R390). -/
def execResetRelease (s : State) : Out' :=
  if !s.boot.inReset then s.done
  else
    let up (p : Port) : Port := if p.st == LinkState.down then { p with st := .training } else p
    State.done { s with boot.inReset := false, links.ports := s.links.ports.map up }

/-- The checks of R393 on an image `m` with its public key `k` and signature `v`: the digest when they hold. -/
def firmwareDigest (m k v : List Byte) : Option (List Byte) :=
  let d := shake256 m 64
  if shake256 k 32 == Config.fusedKeyHash && edVerify k d v then some d else none

/-- The ROM ends, R393 steps 3 and 4: the firmware is verified, and with the next cycle the Crown runs; or the boot fails with a code the spec leaves open
(log 5). -/
def execFirmwareVerified (m k v : List (BitVec 8)) (s : State) : Out' :=
  if s.boot.inReset || s.boot.stage != 0#4 then s.done
  else match firmwareDigest m k v with
    | some d => State.done { s with boot.stage := 1#4, boot.digest := d }
    | none =>
      let (f, s) := s.freeNat
      State.done { s with boot.stage := 15#4, boot.fail := BitVec.ofNat 8 f }

/-- PWRGOOD drops or PERST# is asserted, R393: the state after power-on. What is still to come from outside, and what has left the package, stays. -/
def execResetAssert (s : State) : Out' :=
  State.done { State.reset with
    work := s.work
    offers := s.offers
    free := s.free
    nextId := s.nextId
    links.out := s.links.out }

/-! ### The security processor (R394, R395) -/

/-- A command of the security processor completes: its status, and its output at the start of a buffer that is zero elsewhere. -/
def State.spDone (s : State) (status op c arg : Nat) (out : List Byte) : State :=
  { s with
    boot.spcmd := cmdWord false status op c arg
    boot.spbuf := out ++ List.replicate (512 - out.length) 0#8 }

/-- A write to SPCMD, R395: ignored while busy is 1. It starts the command it names, which reads its input now; an operation the processor does not
have completes with BAD_ARG at once. -/
def State.writeSpcmd (s : State) (w : Word) : State :=
  let op := bits w.toNat 59 56
  let c := bits w.toNat 53 48
  let arg := bits w.toNat 47 0
  if s.boot.spcmd.getLsbD 63 then s
  else if 4 ≤ op then s.spDone stBadArg op c arg []
  else { s with boot.spcmd := cmdWord true 0 op c arg, boot.spin := s.boot.spbuf }

/-- The command `op` completes where it keeps SPCMD busy, given its ctx and arg; nothing takes place where it does not run. -/
def State.spCommand (s : State) (op : Nat) (f : Nat → Nat → State) : Out' :=
  let w := s.boot.spcmd.toNat
  s.whenRunning (if s.boot.spcmd.getLsbD 63 && bits w 59 56 == op then f (bits w 53 48) (bits w 47 0) else s)

/-- The features of the package as 8 bytes, R98 and R396. -/
def featureBytes : List Byte := leBytes 8 0x7FF

/-- IDKEY, R395. -/
def execSpIdkey (s : State) : Out' :=
  s.spCommand 0 fun c a => s.spDone stOk 0 c a (edPublic (Config.identitySecret s.boot.digest))

/-- QUOTE, R394 and R395. -/
def execSpQuote (s : State) : Out' :=
  let said := s.boot.digest ++ featureBytes ++ leBytes 8 s.rank ++ s.boot.spin.take 32
  s.spCommand 1 fun c a => s.spDone stOk 1 c a (said ++ edSign (Config.identitySecret s.boot.digest) (shake256 said 64))

/-- OWNER, R395: once after each boot. -/
def execSpOwner (s : State) : Out' :=
  s.spCommand 2 fun c a =>
    if s.boot.owner.isSome then s.spDone stBadState 2 c a [] else { s.spDone stOk 2 c a [] with boot.owner := some (s.boot.spin.take 57) }

/-- SECURE_CREATE of the record at `a`, R395: a signature that verifies advances SPSEQ, and CREATE runs on the record; ctx returns the id. -/
def execSpSecureCreate (a : BitVec 48) (s : State) : Out' :=
  s.spCommand 3 fun c arg =>
    if arg != a.toNat then s
    else match s.boot.owner with
    | none => s.spDone stBadState 3 c arg []
    | some k =>
      if arg % 64 != 0 then s.spDone stBadArg 3 c arg []
      else
        let m := shake256 (s.viewRead arg 64 ++ leBytes 8 (s.boot.spseq.toNat + 1)) 64
        if !edVerify k m (s.boot.spin.take 114) then s.spDone stRefused 3 c arg []
        else match { s with boot.spseq := s.boot.spseq + 1 }.create arg true with
          | (.ok n, s) => s.spDone stOk 3 n arg []
          | (.error e, s) => s.spDone e 3 c arg []

/-! ### Housekeeping registers (R396, R397) -/

/-- A write to RANK, R396: ignored unless every context is free. -/
def execRankWrite (w : BitVec 64) (s : State) : Out' :=
  s.whenRunning (if s.crown.ctxs.all fun x => x.st == CtxtState.free then { s with boot.rank := w.setWidth 10 } else s)

/-- A write to CROWNCTL, R396. -/
def execCrownctlWrite (e : Bool) (s : State) : Out' := s.whenRunning { s with boot.crownEn := e }

/-- A STARTCTL write with go = 0 lists a tile with its entry bundle, R397; only while CROWNCTL.en is 0. -/
def execStartctlList (t : BitVec 9) (a : BitVec 16) (s : State) : Out' :=
  s.whenRunning (if s.boot.crownEn || 480 ≤ t.toNat then s
    else { s with boot.startList := s.boot.startList.filter (·.1 != t.toNat) ++ [(t.toNat, a.toNat * 4)] })

/-- A STARTCTL write with go = 1, R397: the listed tiles start at STARTGCY when it lies ahead, and otherwise the list is cleared. -/
def execStartctlGo (s : State) : Out' :=
  s.whenRunning (if s.boot.crownEn then s
    else if s.gcyc.toNat < s.boot.startGcy.toNat then { s with boot.startArmed := true }
    else { s with boot.startList := [], boot.startArmed := false })

/-- The group of a tile in bring-up, R397: context 0, one tile, no kernel, and so no carve-out: the model takes C of R120 as 0 (DESIGN CHOICE, log 70). -/
def bringUpGroup (id t : Nat) : Group where
  id := id
  ctx := 0
  urgent := false
  whole := false
  rows := 1
  cols := 1
  place := ⟨t / 120, t % 120 / 12, t % 12⟩
  cnt := 0
  st := .running
  window := []
  pend := []
  pauseAt := none
  paused := false
  sync := none
  recorded := []
  saveSlot := none
  switchNo := 0

/-- A listed tile starts at group cycle 0, R54, R317 and R397, also one that slept; a tile that runs something already does not (log 70). -/
def State.bringUp (s : State) (t pc : Nat) : State :=
  if (s.tctx t false).group.isSome then s
  else
    let (id, s) := s.fresh
    let s := s.onTile t fun x =>
      let x := { x with power := .busy, cn := x.cn.clear false x.urg.group.isSome, mx := Matrix.entry }
      { x with main := entryCtx id false pc 0 (Vector.replicate 16 0#32) }
    { s with crown.groups := s.crown.groups ++ [bringUpGroup id t] }

/-- The listed tiles start when gcyc is STARTGCY, R397. -/
def State.startListed (s : State) : State :=
  if s.boot.startArmed && !s.boot.crownEn && s.gcyc == s.boot.startGcy then
    let s := s.boot.startList.foldl (fun s x => s.bringUp x.1 x.2) s
    { s with boot.startList := [], boot.startArmed := false }
  else s

/-- A 64-bit word of SPBUF replaced, R395. -/
def putSpbuf (b : List Byte) (i : Nat) (w : Word) : List Byte := b.take (8 * i) ++ leBytes 8 w.toNat ++ b.drop (8 * i + 8)

/-- A command register that completes an operation code it does not have with BAD_ARG (R270, R372, R395): its fields stay, and what is reserved reads as
zero (R4). -/
def badArg (w : Word) : Word := cmdWord false stBadArg (bits w.toNat 59 56) (bits w.toNat 53 48) (bits w.toNat 47 0)

/-- MGMTCMD likewise, R396. -/
def badMgmt (w : Word) : Word := mgmtWord stBadArg (bits w.toNat 59 56) (bits w.toNat 53 48) (bits w.toNat 8 0)

/-- What an aligned write to BAR0 does, R379, R381, R395, R396: the registers whose write is all they do, and command registers given an
operation they do not have. Every other offset ignores the write, or has a step of its own. -/
def State.writeRegister (s : State) (a : Nat) (w : Word) : State :=
  let op := bits w.toNat 59 56
  let c := (a - 0x10000) / 32
  if a == 0 then (if 7 ≤ op && !s.boot.ctxcmd.getLsbD 63 then { s with boot.ctxcmd := badArg w } else s)
  else if a == 0x10 then (if 3 ≤ op then { s with boot.pgcmd := badArg w } else s)
  else if a == 0x18 then { s with boot.pgdata := w }
  else if 0x10000 ≤ a && a < 0x10000 + 32 * 64 then
    (if a % 32 == 16 then s.onCtxt c fun x => { x with hwBase := BitVec.ofNat 64 (w.toNat / 2 ^ 12 * 2 ^ 12) }
     else if a % 32 == 24 then s.onCtxt c fun x => { x with hwLim := BitVec.ofNat 64 (w.toNat % 2 ^ 41) }
     else s)
  else if a == 0x200030 then (if s.boot.crownEn then s else { s with boot.startGcy := w })
  else if a == 0x200038 then (if 2 ≤ op then { s with boot.mgmt := badMgmt w } else s)
  else if a == 0x200080 then s.writeSpcmd w
  else if 0x201000 ≤ a && a < 0x201200 then { s with boot.spbuf := putSpbuf s.boot.spbuf ((a - 0x201000) / 8) w }
  else s

/-- A debugger sets DBGCTL, BKPT or WATCH of a tile over the management path, R326; the tile's group must be held, and its context not secure (R404). -/
def State.debugWrite (s : State) (t : Nat) (u : Bool) (cr : Nat) (w : Word) : State :=
  if (0x20 ≤ cr && cr ≤ 0x22) && (s.groupOf t u).any (fun g => g.st == GState.held && !(s.ctxt g.ctx).secure) then s.onCtx t u fun c => { c with cr := c.cr.write cr w } else s

/-- A write to a register without a step of its own: of BAR0, where only an aligned 8-byte write has an effect (R379), or over the management path
(R326). -/
def execRegisterWrite (p : RegPath) (w : BitVec 64) (s : State) : Out' :=
  s.whenRunning (match p with
    | .bar0 a => if a.toNat % 8 == 0 then s.writeRegister a.toNat w else s
    | .debug t u cr => s.debugWrite t u cr w)

/-! ### Soft errors, power and temperature (R401, R403) -/

/-- The check value of a word's bytes in ascending address order, R399: CRC-16 with polynomial 0x8BB7, initial value 0, no reflection. A word that is
written gets it; the state keeps the words that carry another one (R400). -/
def checkValue (bs : List Byte) : BitVec 16 :=
  bs.foldl (fun (c : BitVec 16) (b : Byte) => (List.range 8).foldl (fun (c : BitVec 16) (_ : Nat) => if c.getLsbD 15 then (c <<< 1) ^^^ 0x8BB7#16 else c <<< 1)
    (c ^^^ (b.setWidth 16 <<< 8))) 0#16

/-- The 64-byte word at a place. -/
def State.wordAt (s : State) : WordAt → List Byte
  | .spad t i => (s.tile t).spad.read (64 * i) 64
  | .shared d i => (vget s.shared d []).read (64 * i) 64
  | .hbm i => s.hbmRead (64 * i) 64

/-- Writes the 64-byte word at a place. -/
def State.putWordAt (s : State) (a : WordAt) (bs : List Byte) : State :=
  match a with
  | .spad t i => s.writeLoc (.spad t (64 * i)) bs
  | .shared d i => s.writeLoc (.shared d (64 * i)) bs
  | .hbm i => s.putHbm (64 * i) bs

/-- The check value a place carries, where it fits its word (R399); none where it does not (R400). -/
def State.checkAt (s : State) (a : WordAt) : Option (BitVec 16) := if s.badWord a then none else some (checkValue (s.wordAt a))

/-- Bits of a stored word, or of its check value, flip where ECC cannot correct them (R400, R401). -/
def State.flipWord (s : State) (a : WordAt) (flip : Wide) : State :=
  (s.putWordAt a (leBytes 64 (leNat (s.wordAt a) ^^^ flip.toNat))).markBad a

/-- The storage codes of R342, with the check-value mismatches of R392 and R400. -/
def storageCause : Cause → Bool
  | .imemError | .regfileError | .spadError | .sharedError | .mailboxError | .snapshotError | .tokenError | .walkrecError | .cmdqError
  | .cregError | .hbmError | .rootError | .decoderError | .recordError | .portError | .tableError | .whorlError | .planeError
  | .bpError | .peError | .amaxError | .ringtabError | .pwrtabError | .rbqError | .crownError | .integrity | .meshError => true
  | _ => false

/-- An uncorrectable error in storage of a kernel's or a bring-up group's, R401, or a mismatch on the mesh (R392): the kernel aborts, or the tile of the
bring-up group has a trap; a mismatch in what a sweep works on is fatal to the context (R262). -/
def State.storageFault (s : State) (k : Nat) (c : Cause) : State :=
  match s.kernel k, s.group k with
  | some n, _ =>
    if n.st == KState.committing && n.sweep.isSome && c == .integrity then
      (s.onKernel k fun n => { n with sweep := none }).fatalEvent n.ctx .sweepError n.ticket
    else s.abort k c
  | none, some g => s.raiseAsync k g.home c 0#64
  | none, none => s

/-- storage error, R401: with the cause of its storage; or in a word whose check value then does not fit it (R400), which whoever reads it meets as an
INTEGRITY. -/
def execStorageError (e : ErrorSite) (c : Cause) (s : State) : Out' :=
  match e with
  | .group k => (if storageCause c then s.storageFault k c else s).done
  | .word a flip => (if c == .integrity then s.flipWord a flip else s).done

/-- The power limit in watts, R403. -/
def powerLimit : Nat := if Config.isModule then 3200 else 3000

/-- Readings of a sensor. -/
def State.readings (s : State) (w : BitVec 16) (c : BitVec 12) : State := { s with therm.power := w, therm.temp := c }

/-- The tile clock is lowered, R403; temperatures are in units of 0.5 °C. -/
def execThrottle (w : BitVec 16) (c : BitVec 12) (s : State) : Out' :=
  (if powerLimit < w.toNat || 190 ≤ c.toNat then { s.readings w c with therm.throttle := true }.manage else s).done

/-- The condition clears, R403. -/
def execThrottleEnd (w : BitVec 16) (c : BitVec 12) (s : State) : Out' :=
  (if powerLimit < w.toNat || 190 ≤ c.toNat then s else { s.readings w c with therm.throttle := false }.manage).done

/-- Every running kernel aborts, R403 and R339. -/
def State.tripAll (s : State) (c : Cause) : State :=
  ((s.crown.kernels.filter fun k => k.st == KState.running).map (·.id)).foldl (fun s k => s.abort k c) s

/-- A die at 105 °C, R403. -/
def execThermalTrip (w : BitVec 16) (c : BitVec 12) (s : State) : Out' :=
  (if 210 ≤ c.toNat then { (s.readings w c).tripAll .thermalTrip with therm.trip := true }.manage else s).done

/-- Power 10 % above the limit, R403. -/
def execPowerTrip (w : BitVec 16) (c : BitVec 12) (s : State) : Out' :=
  (if 11 * powerLimit ≤ 10 * w.toNat then { (s.readings w c).tripAll .powerTrip with therm.trip := true }.manage else s).done

end Sys2Proof.Machine
end

