-- ==== Sys2Proof/Machine/System.lean ====
section
/-! DEFINITION. The reads of the matrix array's and the Canopy's registers (R205, R206, R246), and the reads that see every effect of
their issue cycle (R48, R205, R206). -/
namespace Sys2Proof.Machine

/-- A result `l` cycles after issue whose value is read at the end of the issue cycle. -/
def State.lateResult (s : State) (l : Nat) (d : Fin 64) (r : LateRead) : Out' := s.ifRoom d ((s.resultX l d 0#64).act 0 (.fill r)).done

/-- amaxr, R205. -/
def execAmaxr (d : Fin 64) (p : Fin 4) (n : Fin 64) (s : State) : Out' := s.notInHandler (s.lateResult 2 d (.amr p n))

/-- amaxc, R205. -/
def execAmaxc (d : Fin 64) (p : Fin 4) (n : Fin 64) (s : State) : Out' := s.notInHandler (s.lateResult 2 d (.amc p n))

/-- mstat, R206. -/
def execMstat (d : Fin 64) (e : Fin 5) (s : State) : Out' := s.notInHandler (s.lateResult 2 d (.mstat e.val))

/-- The largest number of a list. -/
def most (l : List Nat) : Nat := l.foldl max 0

/-- Cycles until a port's occupancy ends, R206. -/
def Matrix.portLeft (m : Matrix) (p : MxPort) (now : Nat) : Nat :=
  most ((m.cmds.filter fun c => c.started && c.port == p).map fun c => c.start + c.occupancy - now)

/-- What mstat reads, R206. -/
def Matrix.status (m : Matrix) (sel now : Nat) : Nat :=
  match sel with
  | 0 => m.portLeft .feed now
  | 1 => m.portLeft .scale now
  | 2 => m.portLeft .drain now
  | 3 => m.tag[0].toNat + m.tag[1].toNat * 2 ^ 4
  | _ => most ((m.cmds.filter fun c => c.started && c.cut.isNone).map fun c => c.lastCycle - now)

/-- The value a late read finds. -/
def State.lateValue (s : State) (t : Nat) (u : Bool) (r : LateRead) : Nat :=
  let m := (s.tile t).mx
  match r with
  | .fpstat => (s.tctx t u).cr.fpstat.toNat
  | .amr p n => (vget m.amr[p] n.val 0#32).toNat
  | .amc p n => (vget m.amc[p] n.val 0#32).toNat
  | .mstat e => m.status e (s.now t u)

/-- An effect of a slot takes the value its late read found. -/
def Effect.fill (e : Effect) (ord v : Nat) : Effect :=
  if e.ord != ord then e else match e.kind with
  | .reg d _ m => { e with kind := .reg d (BitVec.ofNat 512 v) m }
  | _ => e

/-- The late reads of a hardware context's bundle of this cycle. -/
def State.fillReads (s : State) (t : Nat) (u : Bool) : State :=
  let now := s.now t u
  (s.tctx t u).acts.foldl (fun s a => match a.kind with
    | .fill r =>
      if a.due != now then s
      else
        let v := s.lateValue t u r
        s.onCtx t u fun c => { c with inflight := c.inflight.map fun e => e.fill a.ord v }
    | _ => s) s

/-- The numbers below 12 of a list as bits. -/
def bitSet (l : List Nat) : Nat := l.eraseDups.foldl (fun a i => a + 2 ^ i) 0

/-- What cstat reads, R246: whorls and firings of the issuing hardware context, masks, and the words of the in ports. -/
def Canopy.status (cn : Canopy) (u : Bool) (sel : Nat) : Nat :=
  let mine := cn.whorls.filter fun w => (w.ctx == 11) == u
  match sel with
  | 0 => bitSet (mine.map (·.ctx.val)) + 2 ^ 12 * bitSet ((mine.filter fun w => !w.flight.isEmpty).flatMap fun w => rowsOf w.rows)
  | 1 => packMask cn.mask
  | 2 => cn.fires[if u then (1 : Fin 2) else 0]
  | _ => (List.range 8).foldl (fun a p => a + (vget cn.inp p []).length * 2 ^ (4 * p)) 0
where
  /-- The four masks side by side. -/
  packMask (m : Vector (BitVec 12) 4) : Nat := (List.range 4).foldl (fun a r => a + (vget m r 0#12).toNat * 2 ^ (12 * r)) 0

/-- cstat, R246. -/
def execCstat (d : Fin 64) (e : Fin 4) (s : State) : Out' :=
  s.notInHandler (s.resultX 2 d (BitVec.ofNat 64 (s.myCn.status s.cur.urgent e.val))).done

end Sys2Proof.Machine
end

