-- ==== Sys2Proof/Machine/Clock.lean ====
section
/-! DEFINITION. A cycle of the package clock (R53 to R56): its phases, in the order log 3 gives them. -/
namespace Sys2Proof.Machine

/-! ### The schedule of asynchronous steps (log 3) -/

/-- Steps of the device that fall in a cycle by the schedule; the others take place at the cycle a rule gives them. -/
def deviceStep : Instr → Bool
  | .streamElementTransfer _ _ _ _ _ | .ringWordWrite _ _ | .streamReadDone _ _ | .streamComplete _ _ _ | .tokDelivery _ | .tdsyncDone _
  | .decoderAssign | .barrierRequestLand _ | .barrierArrivalLand _ | .asyncFaultReport _ | .headConsider _ | .kernelDispatch _ _ _
  | .groupPlace _ _ | .kernelFinish _ | .sweepDone _ | .escapesPerformed _ | .versionSettle _ _ | .abandonedTicketPass _
  | .abortDiscardDone _ | .qlaunchAppend _ | .urgentPause _ _ | .fullSwitch _ _ | .switchSaveDone _ | .restore _
  | .tileWake _ | .destroyScrubDone _ | .stepWriteDone _ | .trapRecordWrite _ | .remoteTokenLand _ | .linkErrorDrained _ | .storageError ..
  | .thermalTrip _ _ | .powerTrip _ _ => true
  | _ => false

/-- Steps of the host and of the package's surroundings. -/
def hostStep : Instr → Bool
  | .ctxCreate .. | .ctxSeal .. | .ctxQuiesce .. | .ctxKill .. | .ctxDestroy .. | .ctxStepWrite _ _ | .ctxStepRead .. | .qcfgWrite _ _
  | .qtailWrite _ _ | .segpoolPush _ | .pgUpdate _ _ | .pgAdclear _ _ | .pgWake .. | .spIdkey .. | .spQuote .. | .spOwner ..
  | .spSecureCreate .. | .mgmtHalt .. | .mgmtResume _ _ | .startctlList _ _ | .startctlGo | .rankWrite _ | .portstatRetrain _
  | .registerWrite _ _ | .hostBar2Read _ _ | .hostBar2Write _ _ | .ualReadRequest _ _ | .ualWriteRequest _ _ | .ualAtomicAdd _ _ _
  | .ualAtomicSwap _ _ _ | .ualAtomicCas _ _ _ _ | .tokenWindowWrite _ _ _ | .remoteErrorResponse _ | .remoteResponseTimeout _
  | .hostReadCompletion _ _ _ | .linkTrained _ | .linkTrainedDegraded _ _ _ | .linkTrainingFail _ | .linkError _ | .resetRelease
  | .firmwareVerified _ _ _ | .throttle _ _ | .completionTimeout _
  | .remoteReadResponse _ _ | .resetAssert | .throttleEnd _ _ | .crownctlWrite _ => true
  | _ => false

/-- Trips abort kernels, and do so before the host acts (R275); before the Crown runs they come with the surroundings. -/
def tripStep : Instr → Bool
  | .thermalTrip _ _ | .powerTrip _ _ => true
  | _ => false

/-- What the Crown takes in of a queue's pushes comes after the pops of its gcy (R285). -/
def pushStep : Instr → Bool
  | .qlaunchAppend _ => true
  | _ => false

/-- Writes of TQPTR.head take effect before the Crown's records of the same gcy, R376. -/
def headStep : Instr → Bool
  | .tqptrHeadWrite _ _ => true
  | _ => false

/-- The steps the schedule holds for this cycle. -/
def State.offered (s : State) : List Instr := s.offers.headD []

/-- The device's steps of this cycle: head writes first (R376), then the requests for a bank that wait, oldest first (R64), then the others, pushes last
(R285). -/
def State.deviceWork (s : State) : List Instr :=
  let rest := s.offered.filter fun i => deviceStep i && !s.asks.contains i
  s.offered.filter headStep ++ s.asks ++ rest.filter (fun i => !pushStep i) ++ rest.filter pushStep

/-- Commands on a context that is there. What else the host and the surroundings do can abort kernels and put contexts into faulted (an access that meets a
failing translation or check value), and so takes effect before them (R275). -/
def commandStep : Instr → Bool
  | .ctxSeal .. | .ctxQuiesce .. | .ctxKill .. | .ctxDestroy .. | .ctxStepWrite _ _ | .ctxStepRead .. => true
  | _ => false

/-- The host's steps of this cycle, its commands on contexts last (R275). -/
def State.hostWork (s : State) : List Instr :=
  let l := s.offered.filter fun i => hostStep i || (s.boot.stage != 2#4 && tripStep i)
  l.filter (fun i => !commandStep i) ++ l.filter commandStep

/-- Steps as work. -/
def steps (l : List Instr) : List Work := l.map Work.event

/-! ### The start of a cycle -/

/-- The events whose cycle has come for a group: start, resume, stop, pause, and the disposition a frozen group waits for. -/
def State.groupEvents (s : State) (g : Group) : List Instr :=
  match g.st with
  | .placing n => if n == s.gcyc.toNat then [.groupStart g.id] else []
  | .resuming n => if n ≤ s.gcyc.toNat && !g.paused then [.groupResume g.id] else []
  | .freezing n => (if n ≤ g.cnt && !g.paused then [.freezeStop g.id] else []) ++ (if g.counts && g.pauseAt.any (· ≤ g.cnt) then [.pauseStop g.id] else [])
  | .frozen => if g.paused then [] else [.freezeStop g.id]
  | .running => if g.counts && g.pauseAt.any (· ≤ g.cnt) then [.pauseStop g.id] else []
  | _ => []

/-- Power transitions whose cycle has come, R341. -/
def State.powerEvents (s : State) : List Instr :=
  (List.range 480).filterMap fun t => match (s.tile t).power with
    | .free n => if n + 10000 ≤ s.gcyc.toNat then some (.gatingStart t) else none
    | .gating n => if n ≤ s.gcyc.toNat then some (.gatingDone t) else none
    | .waking n => if n ≤ s.gcyc.toNat then some (.tileWakeDone t) else none
    | _ => none

/-- Kernels finished before this cycle whose ticket is next, R292 and R298, and kernels that begin to write in place, R304. -/
def State.ticketEvents (s : State) : List Instr :=
  (s.crown.kernels.filter fun k => k.st == KState.finished && s.isNext k).map (fun k => .commitPass k.id)
    ++ (s.crown.kernels.filter fun k => k.st == KState.running && k.wantsPlace && !k.inPlace && s.isNext k).map fun k => .writeInPlaceStart k.id

/-- The next tile clock edge, R53 and R54: gcyc and the counters of the groups that count advance, and the cycle's work is laid out. Once
the firmware is verified gcyc starts at zero (R53, R393); before the Crown runs it stands, and only the surroundings act. -/
def State.tick (s : State) : State :=
  if s.boot.stage == 1#4 then { s with boot.stage := 2#4, gcyc := 0#64, work := [.host] }
  else if s.boot.stage != 2#4 then { s with work := [.host] }
  else
    let count (g : Group) : Group := if g.counts then { g with cnt := g.cnt + 1 } else g
    let s := { s with gcyc := s.gcyc + 1, busy := [], crown.groups := s.crown.groups.map count }
    let s := s.countPool.startListed
    { s with work := steps (s.crown.groups.flatMap s.groupEvents ++ s.powerEvents)
        ++ [.releases, .edge, .fires, .units, .issues, .starts, .banks, .late, .device] ++ steps s.ticketEvents ++ [.host, .close] }

/-! ### Releases and landings -/

/-- Aligned spans and barrier phases of the groups that count, R51 and R350. -/
def State.releaseEvents (s : State) : List Instr :=
  (s.crown.groups.filter Group.counts).flatMap fun g =>
    (if g.sync == some g.cnt then [.syncgRelease g.id] else [])
      ++ ((List.range 256).filter fun i =>
        let b := vget s.crown.barriers i Barrier.reset
        b.st == BState.draining && b.group == some g.id && b.due ≤ g.cnt).map fun i => .barrierRelease (i / 64) (i % 64)

/-- Alarms whose group cycle this is, R326; a CYCALARM that lands in this cycle counts. -/
def State.alarmEvents (s : State) : List Instr :=
  (s.crown.groups.filter Group.counts).flatMap fun g =>
    (g.tiles.filter fun t => let a := (s.tctx t g.urgent).cr.cycalarm; a != 0#64 && a.toNat == g.cnt).map fun t => .cycleAlarm t g.urgent

/-- Whether the group of a hardware context counts: its engines' clock runs (R54, R207). -/
def State.counting (s : State) (t : Nat) (u : Bool) : Bool := (s.groupOf t u).any (·.counts)

/-- Releases of ring words due in this cycle, R180. -/
def State.landSrel (s : State) (t : Nat) (u : Bool) : State :=
  let now := s.now t u
  (s.tctx t u).acts.foldl (fun s a => match a.kind with
    | .srel b n => if a.due == now then s.releaseRing t u b n a.pc a.slot else s
    | _ => s) s

/-- Acts that take place when they land, before the issue of their cycle. -/
def ActKind.early : ActKind → Bool
  | .wrc _ _ | .srel _ _ | .cctx _ _ | .cparam _ _ _ _ => true
  | .fill _ | .pop | .stepadv _ | .esc _ _ _ | .qlaunch _ _ _ _ => false

/-- Acts of the cycle that have taken place leave the list. -/
def State.dropActs (s : State) (t : Nat) (u early : Bool) : State :=
  let now := s.now t u
  s.onCtx t u fun c => { c with acts := c.acts.filter fun a => now < a.due || a.kind.early != early }

/-- What lands on a hardware context in this cycle, R56, R58 and R59; where it issues end now, what end discards does not (R310). -/
def State.landCtx (s : State) (t : Nat) (u : Bool) : State :=
  let s := if s.endsNow t u then (s.dropSamples t u).onCtx t u TileCtx.discard else s
  let s := if s.counting t u && !u && s.reseeds t u then s.drawRow t (s.now t u) else s
  let s := s.landWrc t u
  let s := if s.counting t u then (s.landSrel t u).landCanopy t u else s
  (s.dropActs t u true).landRegs t u

/-- Tiles with armed whorls. -/
def State.whorlTiles (s : State) : List Nat := (List.range 480).filter fun t => !(s.tile t).cn.whorls.isEmpty

/-- Everything that lands in this cycle, and the words that reach out ports (R229, R235). -/
def State.edge (s : State) : State :=
  let s := s.liveCtxs.foldl (fun s (t, u) => s.landCtx t u) s
  s.whorlTiles.foldl State.pipeOut s

/-- Every armed whorl is offered its firing, R229. -/
def State.fireEvents (s : State) : List Instr := s.whorlTiles.flatMap fun t => (s.tile t).cn.whorls.map fun w => .whorlFire t w.id

/-- Every hardware context that issues in this cycle, R55. -/
def State.issueWork (s : State) : List Work := (s.liveCtxs.filter fun (t, u) => s.issues t u).map fun (t, u) => .issue t u 0

/-- The engine commands that start in this cycle, R69. -/
def State.startEvents (s : State) : List Instr :=
  ((s.liveCtxs.map (·.1)).eraseDups).flatMap fun t => (s.startsDue t).map fun c => .engineCommandStart t c

/-! ### Bank accesses (R61 to R64) -/

/-- The random-bit queue's pops of this cycle, R139 and R140. -/
def State.popQueue (s : State) (t : Nat) (u : Bool) : State :=
  let now := s.now t u
  let n := ((s.tctx t u).acts.filter fun a => a.kind == ActKind.pop && a.due == now).length
  if n == 0 then s else s.onCtx t u fun c => { c with cr := { c.cr with rbidx := c.cr.rbidx + BitVec.ofNat 64 n } }

/-- Every access of a hardware context to a bank in this cycle: its core's, and those of its array and configuration port while its group
counts (R54, R190, R239). -/
def State.touches (s : State) (t : Nat) (u : Bool) : List Touch :=
  s.coreTouches t u ++ (if s.counting t u then
    (if u then [] else s.matrixTouches t (s.now t u)) ++ s.configTouches t u (s.now t u) else [])

/-- Takes from a party of a collision what it has scheduled, R63. -/
def State.cancelParty (s : State) (x : Touch) : State :=
  match x.party with
  | .core _ => s.cancelCore x
  | .laneOf _ => s.cancelCore x
  | .matrix id => s.cutMatrix x.tile id (s.now x.tile false)
  | .config => s.cutConfig x.tile x.urgent (s.now x.tile x.urgent)

/-- The writes of a hardware context to banks in this cycle. -/
def State.writeBanks (s : State) (t : Nat) (u : Bool) : State :=
  let now := s.now t u
  let s := (s.tctx t u).inflight.foldl (fun s e => s.performWrite t u now e) s
  if s.counting t u && !u then s.drainRows t now else s

/-- Its reads, and the configuration port's word. -/
def State.readBanks (s : State) (t : Nat) (u : Bool) : State :=
  let s := s.sampleAll readImage t u
  if s.counting t u then
    let s := s.configMove t u (s.now t u)
    if u then s else s.feedMatrix t (s.now t u)
  else s

/-- The effects that are over leave a hardware context. -/
def State.dropSpent (s : State) (t : Nat) (u : Bool) : State :=
  let now := s.now t u
  s.onCtx t u fun c => { c with inflight := c.inflight.filter fun e => !(e.storing && e.due ≤ now) }

/-- The bank of an atomic between its read and its write (R62). -/
def Effect.window (e : Effect) (now : Nat) : Option Nat :=
  match e.kind with
  | .atomic l _ _ w64 _ _ _ (some _) => if now < e.due then (l.span (if w64 then 8 else 4)).map (·.bank) else none
  | _ => none

/-- Banks that an atomic of a stopped group has read from and not yet written: the window stays closed to streams (R360). -/
def State.windows (s : State) : List Nat :=
  (s.crown.groups.filter fun g => !g.counts && g.st != GState.switchedOut).flatMap fun g => g.tiles.flatMap fun t =>
    let c := s.tctx t g.urgent
    (c.snap ++ if s.live t g.urgent then [] else c.inflight).filterMap fun e => e.window g.cnt

/-- The bank accesses of the cycle: collisions, writes, reads, and the array's wave (R63, R196). -/
def State.banks (s : State) : State :=
  let l := s.liveCtxs
  let s := l.foldl (fun s (t, u) => (s.sampleCregs t u false).popQueue t u) s
  let ts := l.flatMap fun (t, u) => s.touches t u
  let bad := struck ts
  let s := bad.foldl State.cancelParty (s.raiseClashes bad)
  let s := { s with busy := banksOf ts ++ s.windows }
  let s := l.foldl (fun s (t, u) => s.writeBanks t u) s
  let s := l.foldl (fun s (t, u) => s.readBanks t u) s
  let s := l.foldl (fun s (t, u) => if s.counting t u && !u then s.waveMatrix t (s.now t u) else s) s
  l.foldl (fun s (t, u) => s.dropSpent t u) s

/-! ### After the issue of the cycle -/

/-- Captures, step advances and late reads of a hardware context, R48, R205, R265, R287 and R312. -/
def State.lateActs (s : State) (t : Nat) (u : Bool) : State :=
  let now := s.now t u
  let s := (s.fillReads t u).sampleCregs t u true
  let s := (s.tctx t u).acts.foldl (fun s a => if a.due == now then s.sampleAct t u a else s) s
  s.dropActs t u false

/-- The dispatch of every command queue that holds a command, also while its group is stopped (R168); none once a kernel aborts (R300). -/
def State.dispatchEvents (s : State) : List Instr :=
  s.crown.groups.flatMap fun g =>
    if g.st == GState.switchedOut || (s.kernel g.id).any (·.st == KState.aborting) then []
    else (g.tiles.filter fun t => !(s.tctx t g.urgent).cmdq.isEmpty).map fun t => .cmdqDispatch t g.urgent

/-- Waits that are evaluated in this cycle, R184, R185 and R354. -/
def State.waitEvents (s : State) : List Instr :=
  s.liveCtxs.filterMap fun (t, u) => match s.waiting t u with
    | some (.waitk _ _) => some (.waitkRelease t u)
    | some (.fence _) => some (.fenceRelease t u)
    | some (.barw _ _) => some (.barwRelease t u)
    | _ => none

/-- cdrains and disarms that may take place, R232 and R245. -/
def State.canopyEvents (s : State) : List Instr :=
  ((List.range 480).filter fun t => !(s.tile t).cn.drains.isEmpty).flatMap (fun t => (s.tile t).cn.drains.map fun d => .cdrainToken t d.id)
    ++ s.whorlTiles.flatMap fun t => (s.tile t).cn.whorls.map fun w => .whorlDisarm t w.id

/-- The release cycle of an aligned span is fixed once every tile has issued syncg, R51. -/
def State.noteSync (s : State) (g : Group) : State :=
  if g.counts && g.sync.isNone then (match s.syncAt g with
    | some n => s.onGroup g.id fun x => { x with sync := some n }
    | none => s)
  else s

/-- Handlers that are over leave handler mode, R325. -/
def State.noteHandlers (s : State) (g : Group) : State :=
  if g.st == GState.handling && !g.paused then s.endHandlers g else s

/-- What follows the issue of a cycle. -/
def State.late (s : State) : State :=
  let s := s.liveCtxs.foldl (fun s (t, u) => s.lateActs t u) s
  let s := s.crown.groups.foldl State.noteSync s
  let s := s.crown.groups.foldl State.noteHandlers s
  s.push (steps (s.dispatchEvents ++ s.canopyEvents ++ s.waitEvents))

/-- A token of this cycle becomes visible on the counter it was sent to, unless another group holds the hardware context by now (R70, R171). -/
def State.showToken (s : State) (x : Nat × Bool × Fin 64 × Nat × Option Nat) : State :=
  let (t, u, k, n, g) := x
  s.onCtx t u fun c => if c.group == g then { c with regs := { c.regs with k := c.regs.k.set k (c.regs.k[k] + BitVec.ofNat 32 n) } } else c

/-- Arrivals that land in this gcy with a later barm of their tile, in R348's order. -/
def State.boundArrivals (s : State) : List Instr :=
  (sortByKey ((s.crown.bReqs.filter fun r => s.crown.bound.contains r.id).map fun r => (r.key, r.id))).map fun x => .barrierArrivalLand x.2

/-- The end of a cycle: arrivals bound to it land (R348), tokens become visible (R70), and budgets end (R306). -/
def State.close (s : State) : State :=
  let arrivals := s.boundArrivals
  let s := { s with crown.bound := [] }
  let s := s.tokIn.foldl State.showToken { s with tokIn := [] }
  s.push (steps (arrivals ++ (s.crown.kernels.filter s.budgetEnds).map fun k => .budgetExpire k.id))

/-- One piece of work that is neither a step of the table nor a slot. -/
def State.phase (s : State) : Work → State
  | .event _ => s
  | .releases => s.push (steps s.releaseEvents)
  | .edge => s.edge
  | .fires => s.push (steps (s.alarmEvents ++ s.fireEvents))
  | .units => s.whorlTiles.foldl State.pipeIn s
  | .issues => s.push s.issueWork
  | .issue _ _ _ => s
  | .starts => s.push (steps s.startEvents)
  | .banks => s.banks
  | .late => s.late
  | .device => { s with asks := [] }.push (steps s.deviceWork)
  | .host => { s with offers := s.offers.drop 1 }.push (steps s.hostWork)
  | .close => s.close

end Sys2Proof.Machine
end

