-- ==== Sys2Proof/Machine/Dispatch.lean ====
section
/-! DEFINITION. One arm for every row of spec/opcode_table.json. -/
namespace Sys2Proof.Machine

def exec (i : Instr) (s : State) : Host.Outcome State Fault Refusal :=
  match i with
  | .nop => Sys2Proof.Machine.execNop s
  | .add d a b => Sys2Proof.Machine.execAdd d a b s
  | .sub d a b => Sys2Proof.Machine.execSub d a b s
  | .and d a b => Sys2Proof.Machine.execAnd d a b s
  | .or d a b => Sys2Proof.Machine.execOr d a b s
  | .xor d a b => Sys2Proof.Machine.execXor d a b s
  | .shl d a b => Sys2Proof.Machine.execShl d a b s
  | .shr d a b => Sys2Proof.Machine.execShr d a b s
  | .sra d a b => Sys2Proof.Machine.execSra d a b s
  | .minS d a b => Sys2Proof.Machine.execMinS d a b s
  | .minZ d a b => Sys2Proof.Machine.execMinZ d a b s
  | .maxS d a b => Sys2Proof.Machine.execMaxS d a b s
  | .maxZ d a b => Sys2Proof.Machine.execMaxZ d a b s
  | .clz d a => Sys2Proof.Machine.execClz d a s
  | .ctz d a => Sys2Proof.Machine.execCtz d a s
  | .popc d a => Sys2Proof.Machine.execPopc d a s
  | .cmpEq p a b => Sys2Proof.Machine.execCmpEq p a b s
  | .cmpNe p a b => Sys2Proof.Machine.execCmpNe p a b s
  | .cmpLtS p a b => Sys2Proof.Machine.execCmpLtS p a b s
  | .cmpLtZ p a b => Sys2Proof.Machine.execCmpLtZ p a b s
  | .cmpLeS p a b => Sys2Proof.Machine.execCmpLeS p a b s
  | .cmpLeZ p a b => Sys2Proof.Machine.execCmpLeZ p a b s
  | .cmpEqImm p a imm => Sys2Proof.Machine.execCmpEqImm p a imm s
  | .cmpNeImm p a imm => Sys2Proof.Machine.execCmpNeImm p a imm s
  | .cmpLtSImm p a imm => Sys2Proof.Machine.execCmpLtSImm p a imm s
  | .cmpLtZImm p a imm => Sys2Proof.Machine.execCmpLtZImm p a imm s
  | .cmpLeSImm p a imm => Sys2Proof.Machine.execCmpLeSImm p a imm s
  | .cmpLeZImm p a imm => Sys2Proof.Machine.execCmpLeZImm p a imm s
  | .pand p q r => Sys2Proof.Machine.execPand p q r s
  | .por p q r => Sys2Proof.Machine.execPor p q r s
  | .pxor p q r => Sys2Proof.Machine.execPxor p q r s
  | .pnot p q => Sys2Proof.Machine.execPnot p q s
  | .sel d a b p => Sys2Proof.Machine.execSel d a b p s
  | .ptag d a b => Sys2Proof.Machine.execPtag d a b s
  | .pspace d a b => Sys2Proof.Machine.execPspace d a b s
  | .poff d a b => Sys2Proof.Machine.execPoff d a b s
  | .padd d a b => Sys2Proof.Machine.execPadd d a b s
  | .addi d a imm => Sys2Proof.Machine.execAddi d a imm s
  | .andi d a imm => Sys2Proof.Machine.execAndi d a imm s
  | .ori d a imm => Sys2Proof.Machine.execOri d a imm s
  | .xori d a imm => Sys2Proof.Machine.execXori d a imm s
  | .shli d a h => Sys2Proof.Machine.execShli d a h s
  | .shri d a h => Sys2Proof.Machine.execShri d a h s
  | .srai d a h => Sys2Proof.Machine.execSrai d a h s
  | .limm d imm => Sys2Proof.Machine.execLimm d imm s
  | .lsh18 d imm => Sys2Proof.Machine.execLsh18 d imm s
  | .tchk n => Sys2Proof.Machine.execTchk n s
  | .mul d a b => Sys2Proof.Machine.execMul d a b s
  | .mulhS d a b => Sys2Proof.Machine.execMulhS d a b s
  | .mulhZ d a b => Sys2Proof.Machine.execMulhZ d a b s
  | .divS d a b => Sys2Proof.Machine.execDivS d a b s
  | .divZ d a b => Sys2Proof.Machine.execDivZ d a b s
  | .remS d a b => Sys2Proof.Machine.execRemS d a b s
  | .remZ d a b => Sys2Proof.Machine.execRemZ d a b s
  | .rfac d a b => Sys2Proof.Machine.execRfac d a b s
  | .br p g o => Sys2Proof.Machine.execBr p g o s
  | .brl p g o => Sys2Proof.Machine.execBrl p g o s
  | .jr p g a => Sys2Proof.Machine.execJr p g a s
  | .mbr p g m => Sys2Proof.Machine.execMbr p g m s
  | .loop c a e => Sys2Proof.Machine.execLoop c a e s
  | .loopi c n e => Sys2Proof.Machine.execLoopi c n e s
  | .halt => Sys2Proof.Machine.execHalt s
  | .syncg => Sys2Proof.Machine.execSyncg s
  | .endK => Sys2Proof.Machine.execEndK s
  | .eret => Sys2Proof.Machine.execEret s
  | .cyc d => Sys2Proof.Machine.execCyc d s
  | .gcyc d => Sys2Proof.Machine.execGcyc d s
  | .trap n => Sys2Proof.Machine.execTrap n s
  | .txabort c => Sys2Proof.Machine.execTxabort c s
  | .rdc d r => Sys2Proof.Machine.execRdc d r s
  | .wrc a r => Sys2Proof.Machine.execWrc a r s
  | .snapr d a => Sys2Proof.Machine.execSnapr d a s
  | .waitk k n => Sys2Proof.Machine.execWaitk k n s
  | .fence a b c d => Sys2Proof.Machine.execFence a b c d s
  | .barw b => Sys2Proof.Machine.execBarw b s
  | .barvw b => Sys2Proof.Machine.execBarvw b s
  | .ldS8 d b imm => Sys2Proof.Machine.execLdS8 d b imm s
  | .ldZ8 d b imm => Sys2Proof.Machine.execLdZ8 d b imm s
  | .ldS16 d b imm => Sys2Proof.Machine.execLdS16 d b imm s
  | .ldZ16 d b imm => Sys2Proof.Machine.execLdZ16 d b imm s
  | .ldS32 d b imm => Sys2Proof.Machine.execLdS32 d b imm s
  | .ldZ32 d b imm => Sys2Proof.Machine.execLdZ32 d b imm s
  | .ld64 d b imm => Sys2Proof.Machine.execLd64 d b imm s
  | .aadd d a b w => Sys2Proof.Machine.execAadd d a b w s
  | .aminS d a b w => Sys2Proof.Machine.execAminS d a b w s
  | .amaxS d a b w => Sys2Proof.Machine.execAmaxS d a b w s
  | .aand d a b w => Sys2Proof.Machine.execAand d a b w s
  | .aor d a b w => Sys2Proof.Machine.execAor d a b w s
  | .axchg d a b w => Sys2Proof.Machine.execAxchg d a b w s
  | .acas d a b w => Sys2Proof.Machine.execAcas d a b w s
  | .afadd d a b => Sys2Proof.Machine.execAfadd d a b s
  | .st8 v b imm => Sys2Proof.Machine.execSt8 v b imm s
  | .st16 v b imm => Sys2Proof.Machine.execSt16 v b imm s
  | .st32 v b imm => Sys2Proof.Machine.execSt32 v b imm s
  | .st64 v b imm => Sys2Proof.Machine.execSt64 v b imm s
  | .wset w a o => Sys2Proof.Machine.execWset w a o s
  | .wld w b imm => Sys2Proof.Machine.execWld w b imm s
  | .wst w b imm => Sys2Proof.Machine.execWst w b imm s
  | .wcopy d e => Sys2Proof.Machine.execWcopy d e s
  | .smov a b k p m => Sys2Proof.Machine.execSmov a b k p m s
  | .smc a b k p m => Sys2Proof.Machine.execSmc a b k p m s
  | .sgat2 a b k p m => Sys2Proof.Machine.execSgat2 a b k p m s
  | .sexp a b k p m => Sys2Proof.Machine.execSexp a b k p m s
  | .sdec a b k p m => Sys2Proof.Machine.execSdec a b k p m s
  | .sport a b k p m => Sys2Proof.Machine.execSport a b k p m s
  | .sring a b k p m => Sys2Proof.Machine.execSring a b k p m s
  | .srel w a => Sys2Proof.Machine.execSrel w a s
  | .sbar => Sys2Proof.Machine.execSbar s
  | .tok k a n => Sys2Proof.Machine.execTok k a n s
  | .tdsync k a => Sys2Proof.Machine.execTdsync k a s
  | .mmaBf16 p a b k d => Sys2Proof.Machine.execMmaBf16 p a b k d s
  | .mmaFp16 p a b k d => Sys2Proof.Machine.execMmaFp16 p a b k d s
  | .mmaE4m3 p a b k d => Sys2Proof.Machine.execMmaE4m3 p a b k d s
  | .mmaE5m2 p a b k d => Sys2Proof.Machine.execMmaE5m2 p a b k d s
  | .mmbMxfp8e4 p a b k d => Sys2Proof.Machine.execMmbMxfp8e4 p a b k d s
  | .mmbMxfp8e5 p a b k d => Sys2Proof.Machine.execMmbMxfp8e5 p a b k d s
  | .mmbMxfp4 p a b k d => Sys2Proof.Machine.execMmbMxfp4 p a b k d s
  | .mmbMxint8 p a b k d => Sys2Proof.Machine.execMmbMxint8 p a b k d s
  | .mmbFk8 p a b k d => Sys2Proof.Machine.execMmbFk8 p a b k d s
  | .mmbFk4 p a b k d => Sys2Proof.Machine.execMmbFk4 p a b k d s
  | .sac p a b k d => Sys2Proof.Machine.execSac p a b k d s
  | .zacc p k q d => Sys2Proof.Machine.execZacc p k q d s
  | .ldacc p a k d => Sys2Proof.Machine.execLdacc p a k d s
  | .drain p w r t k d => Sys2Proof.Machine.execDrain p w r t k d s
  | .amaxr d p n => Sys2Proof.Machine.execAmaxr d p n s
  | .amaxc d p n => Sys2Proof.Machine.execAmaxc d p n s
  | .cld c r a => Sys2Proof.Machine.execCld c r a s
  | .cst c r a => Sys2Proof.Machine.execCst c r a s
  | .cctx r a => Sys2Proof.Machine.execCctx r a s
  | .cwhorl c r k d => Sys2Proof.Machine.execCwhorl c r k d s
  | .cparam u c a p => Sys2Proof.Machine.execCparam u c a p s
  | .cadj f b r => Sys2Proof.Machine.execCadj f b r s
  | .ctab u a => Sys2Proof.Machine.execCtab u a s
  | .cdrain r k => Sys2Proof.Machine.execCdrain r k s
  | .sstat d e => Sys2Proof.Machine.execSstat d e s
  | .mstat d e => Sys2Proof.Machine.execMstat d e s
  | .cstat d e => Sys2Proof.Machine.execCstat d e s
  | .txstat d e => Sys2Proof.Machine.execTxstat d e s
  | .stepr d => Sys2Proof.Machine.execStepr d s
  | .barm b a => Sys2Proof.Machine.execBarm b a s
  | .barv b a => Sys2Proof.Machine.execBarv b a s
  | .bars b a => Sys2Proof.Machine.execBars b a s
  | .stepadv a => Sys2Proof.Machine.execStepadv a s
  | .esc b imm => Sys2Proof.Machine.execEsc b imm s
  | .qlaunch k a b => Sys2Proof.Machine.execQlaunch k a b s
  | .vadd d a b m t => Sys2Proof.Machine.execVadd d a b m t s
  | .vsub d a b m t => Sys2Proof.Machine.execVsub d a b m t s
  | .vmul d a b m t => Sys2Proof.Machine.execVmul d a b m t s
  | .vfma d a b m t => Sys2Proof.Machine.execVfma d a b m t s
  | .vmin d a b m t => Sys2Proof.Machine.execVmin d a b m t s
  | .vmax d a b m t => Sys2Proof.Machine.execVmax d a b m t s
  | .vabs d a m t => Sys2Proof.Machine.execVabs d a m t s
  | .vneg d a m t => Sys2Proof.Machine.execVneg d a m t s
  | .vand d a b m => Sys2Proof.Machine.execVand d a b m s
  | .vor d a b m => Sys2Proof.Machine.execVor d a b m s
  | .vxor d a b m => Sys2Proof.Machine.execVxor d a b m s
  | .vnot d a m => Sys2Proof.Machine.execVnot d a m s
  | .vshl d a b m t => Sys2Proof.Machine.execVshl d a b m t s
  | .vshr d a b m t => Sys2Proof.Machine.execVshr d a b m t s
  | .vsra d a b m t => Sys2Proof.Machine.execVsra d a b m t s
  | .vcmp v a b c t => Sys2Proof.Machine.execVcmp v a b c t s
  | .vsel d a b m => Sys2Proof.Machine.execVsel d a b m s
  | .vbcast d a m t => Sys2Proof.Machine.execVbcast d a m t s
  | .vext d a n t => Sys2Proof.Machine.execVext d a n t s
  | .vperm d a b m => Sys2Proof.Machine.execVperm d a b m s
  | .vshuf d a b p t => Sys2Proof.Machine.execVshuf d a b p t s
  | .vredAdd d a p t => Sys2Proof.Machine.execVredAdd d a p t s
  | .vredMax d a p t => Sys2Proof.Machine.execVredMax d a p t s
  | .vredMin d a p t => Sys2Proof.Machine.execVredMin d a p t s
  | .vscanAdd d a p t => Sys2Proof.Machine.execVscanAdd d a p t s
  | .vamax d a p t => Sys2Proof.Machine.execVamax d a p t s
  | .vcvt d a u y r q m => Sys2Proof.Machine.execVcvt d a u y r q m s
  | .vrng d a m => Sys2Proof.Machine.execVrng d a m s
  | .vld d b imm => Sys2Proof.Machine.execVld d b imm s
  | .vst d b imm => Sys2Proof.Machine.execVst d b imm s
  | .vldg d a b m => Sys2Proof.Machine.execVldg d a b m s
  | .vsts d a b m => Sys2Proof.Machine.execVsts d a b m s
  | .syncgRelease g => Sys2Proof.Machine.execSyncgRelease g s
  | .waitkRelease t u => Sys2Proof.Machine.execWaitkRelease t u s
  | .fenceRelease t u => Sys2Proof.Machine.execFenceRelease t u s
  | .barwRelease t u => Sys2Proof.Machine.execBarwRelease t u s
  | .engineCommandStart t c => Sys2Proof.Machine.execEngineCommandStart t c s
  | .cmdqDispatch t u => Sys2Proof.Machine.execCmdqDispatch t u s
  | .streamElementTransfer t n e r w => Sys2Proof.Machine.execStreamElementTransfer t n e r w s
  | .ringWordWrite t n => Sys2Proof.Machine.execRingWordWrite t n s
  | .streamReadDone t n => Sys2Proof.Machine.execStreamReadDone t n s
  | .streamComplete t n d => Sys2Proof.Machine.execStreamComplete t n d s
  | .tokDelivery n => Sys2Proof.Machine.execTokDelivery n s
  | .tdsyncDone n => Sys2Proof.Machine.execTdsyncDone n s
  | .decoderAssign => Sys2Proof.Machine.execDecoderAssign s
  | .whorlFire t c => Sys2Proof.Machine.execWhorlFire t c s
  | .whorlDisarm t c => Sys2Proof.Machine.execWhorlDisarm t c s
  | .cdrainToken t n => Sys2Proof.Machine.execCdrainToken t n s
  | .barrierRequestLand n => Sys2Proof.Machine.execBarrierRequestLand n s
  | .barrierArrivalLand n => Sys2Proof.Machine.execBarrierArrivalLand n s
  | .barrierRelease e b => Sys2Proof.Machine.execBarrierRelease e b s
  | .asyncFaultReport n => Sys2Proof.Machine.execAsyncFaultReport n s
  | .freezeStop g => Sys2Proof.Machine.execFreezeStop g s
  | .groupResume g => Sys2Proof.Machine.execGroupResume g s
  | .cycleAlarm t u => Sys2Proof.Machine.execCycleAlarm t u s
  | .headConsider q => Sys2Proof.Machine.execHeadConsider q s
  | .kernelDispatch y n p => Sys2Proof.Machine.execKernelDispatch y n p s
  | .groupPlace k p => Sys2Proof.Machine.execGroupPlace k p s
  | .groupStart g => Sys2Proof.Machine.execGroupStart g s
  | .kernelFinish k => Sys2Proof.Machine.execKernelFinish k s
  | .commitPass k => Sys2Proof.Machine.execCommitPass k s
  | .sweepDone c => Sys2Proof.Machine.execSweepDone c s
  | .escapesPerformed k => Sys2Proof.Machine.execEscapesPerformed k s
  | .versionSettle l n => Sys2Proof.Machine.execVersionSettle l n s
  | .abandonedTicketPass c => Sys2Proof.Machine.execAbandonedTicketPass c s
  | .kernelAbort k => Sys2Proof.Machine.execKernelAbort k s
  | .abortDiscardDone k => Sys2Proof.Machine.execAbortDiscardDone k s
  | .writeInPlaceStart k => Sys2Proof.Machine.execWriteInPlaceStart k s
  | .budgetExpire k => Sys2Proof.Machine.execBudgetExpire k s
  | .qlaunchAppend n => Sys2Proof.Machine.execQlaunchAppend n s
  | .urgentPause k p => Sys2Proof.Machine.execUrgentPause k p s
  | .pauseStop g => Sys2Proof.Machine.execPauseStop g s
  | .urgentReleaseResume g => Sys2Proof.Machine.execUrgentReleaseResume g s
  | .fullSwitch k v => Sys2Proof.Machine.execFullSwitch k v s
  | .switchSaveDone g => Sys2Proof.Machine.execSwitchSaveDone g s
  | .restore g => Sys2Proof.Machine.execRestore g s
  | .gatingStart t => Sys2Proof.Machine.execGatingStart t s
  | .gatingDone t => Sys2Proof.Machine.execGatingDone t s
  | .tileWake t => Sys2Proof.Machine.execTileWake t s
  | .tileWakeDone t => Sys2Proof.Machine.execTileWakeDone t s
  | .ctxCreate x => Sys2Proof.Machine.execCtxCreate x s
  | .ctxSeal x => Sys2Proof.Machine.execCtxSeal x s
  | .ctxQuiesce x => Sys2Proof.Machine.execCtxQuiesce x s
  | .ctxKill x => Sys2Proof.Machine.execCtxKill x s
  | .ctxDestroy x => Sys2Proof.Machine.execCtxDestroy x s
  | .destroyScrubDone c => Sys2Proof.Machine.execDestroyScrubDone c s
  | .ctxStepWrite c n => Sys2Proof.Machine.execCtxStepWrite c n s
  | .stepWriteDone c => Sys2Proof.Machine.execStepWriteDone c s
  | .ctxStepRead x => Sys2Proof.Machine.execCtxStepRead x s
  | .qcfgWrite q w => Sys2Proof.Machine.execQcfgWrite q w s
  | .qtailWrite q w => Sys2Proof.Machine.execQtailWrite q w s
  | .segpoolPush w => Sys2Proof.Machine.execSegpoolPush w s
  | .pgUpdate c a => Sys2Proof.Machine.execPgUpdate c a s
  | .pgAdclear c a => Sys2Proof.Machine.execPgAdclear c a s
  | .pgWake c a => Sys2Proof.Machine.execPgWake c a s
  | .tqptrHeadWrite c w => Sys2Proof.Machine.execTqptrHeadWrite c w s
  | .trapRecordWrite c => Sys2Proof.Machine.execTrapRecordWrite c s
  | .spIdkey => Sys2Proof.Machine.execSpIdkey s
  | .spQuote => Sys2Proof.Machine.execSpQuote s
  | .spOwner => Sys2Proof.Machine.execSpOwner s
  | .spSecureCreate a => Sys2Proof.Machine.execSpSecureCreate a s
  | .mgmtHalt x => Sys2Proof.Machine.execMgmtHalt x s
  | .mgmtResume c t => Sys2Proof.Machine.execMgmtResume c t s
  | .startctlList t a => Sys2Proof.Machine.execStartctlList t a s
  | .startctlGo => Sys2Proof.Machine.execStartctlGo s
  | .rankWrite w => Sys2Proof.Machine.execRankWrite w s
  | .portstatRetrain p => Sys2Proof.Machine.execPortstatRetrain p s
  | .registerWrite p w => Sys2Proof.Machine.execRegisterWrite p w s
  | .hostBar2Read a n => Sys2Proof.Machine.execHostBar2Read a n s
  | .hostBar2Write a v => Sys2Proof.Machine.execHostBar2Write a v s
  | .ualReadRequest q n => Sys2Proof.Machine.execUalReadRequest q n s
  | .ualWriteRequest q v => Sys2Proof.Machine.execUalWriteRequest q v s
  | .ualAtomicAdd q w v => Sys2Proof.Machine.execUalAtomicAdd q w v s
  | .ualAtomicSwap q w v => Sys2Proof.Machine.execUalAtomicSwap q w v s
  | .ualAtomicCas q w x v => Sys2Proof.Machine.execUalAtomicCas q w x v s
  | .tokenWindowWrite q v n => Sys2Proof.Machine.execTokenWindowWrite q v n s
  | .remoteTokenLand n => Sys2Proof.Machine.execRemoteTokenLand n s
  | .remoteErrorResponse n => Sys2Proof.Machine.execRemoteErrorResponse n s
  | .remoteResponseTimeout n => Sys2Proof.Machine.execRemoteResponseTimeout n s
  | .hostReadCompletion n g v => Sys2Proof.Machine.execHostReadCompletion n g v s
  | .linkTrained p => Sys2Proof.Machine.execLinkTrained p s
  | .linkTrainedDegraded p w r => Sys2Proof.Machine.execLinkTrainedDegraded p w r s
  | .linkTrainingFail p => Sys2Proof.Machine.execLinkTrainingFail p s
  | .linkError p => Sys2Proof.Machine.execLinkError p s
  | .linkErrorDrained p => Sys2Proof.Machine.execLinkErrorDrained p s
  | .resetRelease => Sys2Proof.Machine.execResetRelease s
  | .firmwareVerified m k v => Sys2Proof.Machine.execFirmwareVerified m k v s
  | .throttle w c => Sys2Proof.Machine.execThrottle w c s
  | .thermalTrip w c => Sys2Proof.Machine.execThermalTrip w c s
  | .powerTrip w c => Sys2Proof.Machine.execPowerTrip w c s
  | .storageError e c => Sys2Proof.Machine.execStorageError e c s
  | .completionTimeout n => Sys2Proof.Machine.execCompletionTimeout n s
  | .remoteReadResponse n v => Sys2Proof.Machine.execRemoteReadResponse n v s
  | .resetAssert => Sys2Proof.Machine.execResetAssert s
  | .throttleEnd w c => Sys2Proof.Machine.execThrottleEnd w c s
  | .crownctlWrite e => Sys2Proof.Machine.execCrownctlWrite e s

end Sys2Proof.Machine
end

