-- ==== Sys2Proof/Machine/Step.lean ====
section
/-! DEFINITION. The step of the package: the work of the cycle, piece by piece, and the next tile clock edge when it is done (log 3); and how
an instruction comes to be the next to issue (log 4). -/
namespace Sys2Proof.Machine

/-- Slot `k` of the bundle a hardware context issues (R55, R56): the instruction it holds, and the way on to the next slot or past the bundle. -/
def State.runSlot (s : State) (t : Nat) (u : Bool) (k : Nat) : Out' :=
  match s.slot t u k with
  | (none, s) => .next s
  | (some i, s) =>
    match exec i s with
    | .next s => .next (s.afterSlot t u k)
    | o => o

/-- A step of the package or of its surroundings; one whose request for a bank is turned away joins the line of those that wait (R64). -/
def State.runEvent (s : State) (i : Instr) : Out' :=
  match exec i s with
  | .next s => .next (s.inLine i)
  | o => o

/-- One step. -/
def step (s : State) : Host.Outcome State Fault Refusal :=
  match s.work with
  | [] => .next s.tick
  | w :: r =>
    let s := { s with work := r }
    match w with
    | .event i => s.runEvent i
    | .issue t u k => s.runSlot t u k
    | w => (s.phase w).done

/-- A slot with its stop bit set, R76: a bundle of one slot. -/
def loneSlot (nbits w : Nat) : List Byte := leBytes 4 (w % 2 ^ min nbits 31 + 2 ^ 31)

/-- The state in which tile 0 issues next, in bring-up (R397), the one slot whose bits are `w`. -/
def State.withFetchWord (s : State) (nbits w : Nat) : State :=
  let id := s.nextId
  let s := { s with
    boot.inReset := false
    boot.stage := 2#4
    nextId := id + 1
    crown.groups := s.crown.groups.filter (fun (g : Group) => !g.holds 0) ++ [bringUpGroup id 0]
    work := [.issue 0 false 0] }
  s.onTile 0 fun x => { x with
    power := .busy
    imem := x.imem.write 0 (loneSlot nbits w)
    main := entryCtx id false 0 0 (Vector.replicate 16 0#32) }

end Sys2Proof.Machine
end

