-- ==== Sys2Proof/Machine/Registers.lean ====
section
/-! DEFINITION. What a host read of BAR0 returns: the Crown's registers as their field tables lay them out (R270, R280, R372, R376, R379, R381,
R391, R395, R396). No step of the table reads them; the state already holds every field. -/
namespace Sys2Proof.Machine

/-- The state field of QCFG, R280. -/
def QState.code : QState → Nat
  | .unbound => 0 | .disabled => 1 | .enabled => 2 | .stalled => 3

/-- The state field of PORTSTAT, R391. -/
def LinkState.code : LinkState → Nat
  | .down => 0 | .training => 1 | .up => 2 | .degraded => 3 | .error => 4

/-- A register word from its fields, each with its lowest bit. -/
def fieldsAt (l : List (Nat × Nat)) : Word := BitVec.ofNat 64 (l.foldl (fun n x => n + x.1 * 2 ^ x.2) 0)

/-- QCFG, R280. -/
def Queue.qcfg (q : Queue) : Word := fieldsAt [(q.cap, 32), (q.ctx, 48), (bitOf q.rej, 59), (q.st.code, 60), (bitOf q.en, 63)]

/-- QHEAD and QTAIL, R280. -/
def Queue.qhead (q : Queue) : Word := fieldsAt [(q.headSlot, 0), (q.headSeq.toNat, 48)]

/-- QTAIL, R280. -/
def Queue.qtail (q : Queue) : Word := fieldsAt [(q.tailSlot, 0), (q.tailSeq.toNat, 48)]

/-- PORTSTAT, R391. -/
def Port.portstat (p : Port) : Word := fieldsAt [(p.rate.toNat, 0), (p.width.toNat, 2), (p.st.code, 5), (p.errs, 32)]

/-- TQPTR, R376. -/
def Ctxt.tqptr (x : Ctxt) : Word := fieldsAt [(x.tqHead.toNat, 0), (x.tqTail.toNat, 32)]

/-- TQSTAT, R376. -/
def Ctxt.tqstat (x : Ctxt) : Word := fieldsAt [(x.room, 0), (bitOf x.ovf, 62), (bitOf x.fatal, 63)]

/-- SEGPOOL, R396. -/
def Boot.segpool (b : Boot) : Word := fieldsAt [(b.segs.length, 0), (bitOf b.segRej, 63)]

/-- BOOTSTAT, R396. -/
def Boot.bootstat (b : Boot) : Word := fieldsAt [(b.stage.toNat, 0), (b.fail.toNat, 8)]

/-- THERMSTAT, R396. -/
def Therm.thermstat (t : Therm) : Word := fieldsAt [(t.temp.toNat, 0), (t.power.toNat, 16), (bitOf t.throttle, 62), (bitOf t.trip, 63)]

/-- The register at an aligned BAR0 offset; 0 at an unlisted one and at one that is only written (R379, R396). -/
def State.register (s : State) (a : Nat) : Word :=
  let b := s.boot
  if a == 0x000000 then b.ctxcmd
  else if a == 0x000010 then b.pgcmd
  else if a == 0x000018 then b.pgdata
  else if 0x001000 ≤ a && a < 0x001100 then (vget s.links.ports ((a - 0x001000) / 8) Port.idle).portstat
  else if 0x010000 ≤ a && a < 0x010800 then
    let x := s.ctxt ((a - 0x010000) / 32)
    match (a - 0x010000) % 32 / 8 with
    | 0 => x.tqptr
    | 1 => x.tqstat
    | 2 => x.hwBase
    | _ => x.hwLim
  else if 0x100000 ≤ a && a < 0x110000 then
    let q := s.queue ((a - 0x100000) / 32)
    match (a - 0x100000) % 32 / 8 with
    | 0 => q.qcfg
    | 1 => q.qhead
    | 2 => q.qtail
    | _ => 0#64
  else if a == 0x200000 then 0x7FF#64
  else if a == 0x200008 then b.rank.setWidth 64
  else if a == 0x200010 then b.segpool
  else if a == 0x200018 then b.bootstat
  else if a == 0x200020 then fieldsAt [(bitOf b.crownEn, 0)]
  else if a == 0x200030 then b.startGcy
  else if a == 0x200038 then b.mgmt
  else if a == 0x200040 then s.therm.thermstat
  else if a == 0x200080 then b.spcmd
  else if a == 0x200088 then b.spseq
  else if 0x201000 ≤ a && a < 0x201200 then BitVec.ofNat 64 (leNat ((b.spbuf.drop (a - 0x201000)).take 8))
  else 0#64

/-- A host read of `n` bytes of BAR0, R379: only an aligned 8-byte read returns data; any other completes with Unsupported Request. -/
def State.readBar0 (s : State) (a n : Nat) : Option Word := if a % 8 == 0 && n == 8 then some (s.register a) else none

end Sys2Proof.Machine
end

