-- ==== Sys2Proof/Safety.lean ====
section
/-! DEFINITION. What counts as a safe run, and the words claims are stated in: runs of the step, the invariants of a state, what a slot leaves
scheduled when it issues, and what it keeps. -/
namespace Sys2Proof.Machine

/-! ### Runs and invariants -/

/-- The state after `n` steps; none when one of them stops. -/
def State.after : Nat → State → Option State
  | 0, s => some s
  | n + 1, s =>
    match step s with
    | .next t => t.after n
    | _ => none

/-- A run is safe for `n` steps when none of them stops. -/
def State.safe (n : Nat) (s : State) : Bool := (s.after n).isSome

/-- Every memory of the package is in its one canonical form, so that equal memories are equal data. -/
def State.memoriesCanonical (s : State) : Prop :=
  s.hbm.wf = true ∧ (∀ d : Fin 4, s.shared[d].wf = true)
    ∧ ∀ t : Fin 480, s.tiles[t].spad.wf = true ∧ s.tiles[t].imem.wf = true

/-! ### What a slot leaves when it issues -/

/-- A slot can take its effect: the issuing context has room among the effects in flight (R321). -/
def State.fit (s : State) : Prop := s.me.full = false

/-- A slot can take its effect and the issuing context is not in handler mode (R324). -/
def State.fitCore (s : State) : Prop := s.fit ∧ s.me.handling = false

/-- The state with one more effect of the issuing slot in flight, due `l` cycles after issue (R58), and nothing else changed. -/
def State.withEffect (s : State) (l : Nat) (fl : Flags) (k : EKind) : State :=
  let e : Effect := ⟨s.clock + l, s.me.flow.ord, s.cur.pc, s.cur.slot, fl, false, k⟩
  s.onMe fun c => { c with inflight := c.inflight ++ [e] }

/-- The state with a register result in flight and nothing else changed; a discarded register leaves the state as it is (R58, R78). -/
def State.withResult (s : State) (l : Nat) (d : Dst) (v : Wide) : State := if d.void then s else s.withEffect l 0#6 (.reg d v allBits)

/-- A result with flags: a discarded register that raises none leaves the state as it is (R48, R58, R78). -/
def State.withFlagged (s : State) (l : Nat) (fl : Flags) (d : Dst) (v m : Wide) : State :=
  if d.void = true ∧ fl = 0#6 then s else s.withEffect l fl (.reg d v m)

/-- A scalar result. -/
def State.withX (s : State) (l : Nat) (d : Fin 64) (v : Word) : State := s.withResult l (.x d) (v.setWidth 512)

/-- A predicate result. -/
def State.withP (s : State) (l : Nat) (p : Fin 8) (v : Bool) : State := s.withResult l (.p p) (if v then 1#512 else 0#512)

/-- The state with one more act of the issuing slot scheduled `l` cycles after issue, and nothing else changed. -/
def State.withAct (s : State) (l : Nat) (k : ActKind) : State :=
  let a : Act := ⟨s.clock + l, s.me.flow.ord, s.cur.pc, s.cur.slot, k⟩
  s.onMe fun c => { c with acts := c.acts ++ [a] }

/-! ### What stays -/

/-- Every byte of every memory is the same, and every word's check value fits it as it did (R399). -/
def State.sameMemory (s t : State) : Prop :=
  t.hbm = s.hbm ∧ t.shared = s.shared ∧ t.hbmBad = s.hbmBad ∧ t.sharedBad = s.sharedBad
    ∧ ∀ i, (t.tile i).spad = (s.tile i).spad ∧ (t.tile i).imem = (s.tile i).imem ∧ (t.tile i).spadBad = (s.tile i).spadBad

/-- Every register of R78 but the loop counters, and every control register, is the same in every hardware context. -/
def State.sameRegisters (s t : State) : Prop :=
  ∀ i u, let a := s.tctx i u; let b := t.tctx i u
    b.regs.x = a.regs.x ∧ b.regs.p = a.regs.p ∧ b.regs.v = a.regs.v ∧ b.regs.vm = a.regs.vm ∧ b.regs.k = a.regs.k
      ∧ b.regs.w = a.regs.w ∧ b.regs.mb = a.regs.mb ∧ b.cr = a.cr

/-- The planes of every matrix array and the records, tables, masks and ports of every Canopy are the same. -/
def State.sameEngines (s t : State) : Prop :=
  ∀ i, let a := s.tile i; let b := t.tile i
    b.mx.acc = a.mx.acc ∧ b.mx.bp = a.mx.bp ∧ b.mx.tag = a.mx.tag ∧ b.mx.amr = a.mx.amr ∧ b.mx.amc = a.mx.amc
      ∧ b.cn.recs = a.cn.recs ∧ b.cn.mask = a.cn.mask ∧ b.cn.tabs = a.cn.tabs ∧ b.cn.inp = a.cn.inp ∧ b.cn.outp = a.cn.outp

/-- What no slot changes at issue: memories, registers, engines' data, the clock, the contexts, queues and barriers of the Crown, the
Roots' versions, the links and the platform. -/
def State.sameArchitecture (s t : State) : Prop :=
  s.sameMemory t ∧ s.sameRegisters t ∧ s.sameEngines t
    ∧ t.gcyc = s.gcyc ∧ t.regions = s.regions ∧ t.tokIn = s.tokIn ∧ t.links = s.links ∧ t.boot = s.boot ∧ t.therm = s.therm
    ∧ t.crown.ctxs = s.crown.ctxs ∧ t.crown.queues = s.crown.queues ∧ t.crown.barriers = s.crown.barriers
    ∧ t.roots.versions = s.roots.versions ∧ t.roots.walks = s.roots.walks

end Sys2Proof.Machine
end

