-- ==== Sys2Proof/Certificates/Slice0/Obligations.lean ====
section
/-! DEFINITION. The statements for the provers: what the numbered rules of spec/ say the instructions and the machine do. -/
section Statements
open Sys2Proof Sys2Proof.Machine

/-- R100: the integer ALU instructions: the words of their encodings, and each completing with its result written to x[d] at issue + 1 (x0
discards it) and nothing else changed. -/
def Obligations.IntegerAluResultsLandOneCycleLater : Prop :=
  (∀ (d a b n : Fin 64) (imm : BitVec 12),
    let ri (op : Nat) : Nat := op * 2 ^ 24 + d.val * 2 ^ 18 + a.val * 2 ^ 12 + imm.toNat
    let sh : Fin 64 := Fin.ofNat 64 imm.toNat
    (decodeSlot (0x01 * 2 ^ 24 + d.val * 2 ^ 18 + a.val * 2 ^ 12 + b.val * 2 ^ 6 + n.val)).toOption
        = ([Instr.add d a b, .sub d a b, .and d a b, .or d a b, .xor d a b, .shl d a b, .shr d a b, .sra d a b, .minS d a b, .minZ d a b,
            .maxS d a b, .maxZ d a b] ++ if b = 0 then [.clz d a, .ctz d a, .popc d a] else [])[n.val]?
    ∧ decodeSlot (ri 0x07) = .ok (.addi d a imm) ∧ decodeSlot (ri 0x08) = .ok (.andi d a imm) ∧ decodeSlot (ri 0x09) = .ok (.ori d a imm)
    ∧ decodeSlot (ri 0x0A) = .ok (.xori d a imm)
    ∧ (decodeSlot (ri 0x0B)).toOption = if imm.toNat / 2 ^ 8 = 0 then [Instr.shli d a sh, .shri d a sh, .srai d a sh][imm.toNat / 2 ^ 6]? else none)
  ∧ (∀ (s : State) (d a b h : Fin 64) (imm : BitVec 12), s.fit →
    exec (.add d a b) s = .next (s.withX 1 d (s.x a + s.x b))
    ∧ exec (.addi d a imm) s = .next (s.withX 1 d (s.x a + imm.signExtend 64))
    ∧ exec (.sub d a b) s = .next (s.withX 1 d (s.x a - s.x b))
    ∧ exec (.and d a b) s = .next (s.withX 1 d (s.x a &&& s.x b))
    ∧ exec (.andi d a imm) s = .next (s.withX 1 d (s.x a &&& imm.signExtend 64))
    ∧ exec (.or d a b) s = .next (s.withX 1 d (s.x a ||| s.x b))
    ∧ exec (.ori d a imm) s = .next (s.withX 1 d (s.x a ||| imm.signExtend 64))
    ∧ exec (.xor d a b) s = .next (s.withX 1 d (s.x a ^^^ s.x b))
    ∧ exec (.xori d a imm) s = .next (s.withX 1 d (s.x a ^^^ imm.signExtend 64))
    ∧ exec (.shl d a b) s = .next (s.withX 1 d (s.x a <<< ((s.x b).toNat % 64)))
    ∧ exec (.shli d a h) s = .next (s.withX 1 d (s.x a <<< h.val))
    ∧ exec (.shr d a b) s = .next (s.withX 1 d (s.x a >>> ((s.x b).toNat % 64)))
    ∧ exec (.shri d a h) s = .next (s.withX 1 d (s.x a >>> h.val))
    ∧ exec (.sra d a b) s = .next (s.withX 1 d ((s.x a).sshiftRight ((s.x b).toNat % 64)))
    ∧ exec (.srai d a h) s = .next (s.withX 1 d ((s.x a).sshiftRight h.val))
    ∧ exec (.minS d a b) s = .next (s.withX 1 d (if (s.x a).toInt ≤ (s.x b).toInt then s.x a else s.x b))
    ∧ exec (.maxS d a b) s = .next (s.withX 1 d (if (s.x a).toInt ≤ (s.x b).toInt then s.x b else s.x a))
    ∧ exec (.minZ d a b) s = .next (s.withX 1 d (if (s.x a).toNat ≤ (s.x b).toNat then s.x a else s.x b))
    ∧ exec (.maxZ d a b) s = .next (s.withX 1 d (if (s.x a).toNat ≤ (s.x b).toNat then s.x b else s.x a))
    ∧ (∃ n ≤ 64, exec (.clz d a) s = .next (s.withX 1 d (BitVec.ofNat 64 n))
        ∧ (∀ i, i < n → (s.x a).getLsbD (63 - i) = false) ∧ (n < 64 → (s.x a).getLsbD (63 - n) = true))
    ∧ (∃ n ≤ 64, exec (.ctz d a) s = .next (s.withX 1 d (BitVec.ofNat 64 n))
        ∧ (∀ i, i < n → (s.x a).getLsbD i = false) ∧ (n < 64 → (s.x a).getLsbD n = true))
    ∧ exec (.popc d a) s = .next (s.withX 1 d (BitVec.ofNat 64 ((List.range 64).countP fun i => (s.x a).getLsbD i))))

/-- R101 with the corner results of R25: the multiply and divide group: its words and slot class, and each instruction completing with its
result in flight for issue + L. -/
def Obligations.MultiplyDivideResultsAndLatencies : Prop :=
  (slotClass 0x10 = .m ∧ ∀ d a b n : Fin 64,
    (decodeSlot (0x10 * 2 ^ 24 + d.val * 2 ^ 18 + a.val * 2 ^ 12 + b.val * 2 ^ 6 + n.val)).toOption
      = [Instr.mul d a b, .mulhS d a b, .mulhZ d a b, .divS d a b, .divZ d a b, .remS d a b, .remZ d a b][n.val]?)
  ∧ (∀ (s : State) (d a b : Fin 64), s.fit →
    exec (.mul d a b) s = .next (s.withX 3 d (s.x a * s.x b))
    ∧ (∃ v, exec (.mulhS d a b) s = .next (s.withX 4 d v) ∧ v.toInt = (s.x a).toInt * (s.x b).toInt / 2 ^ 64)
    ∧ (∃ v, exec (.mulhZ d a b) s = .next (s.withX 4 d v) ∧ v.toNat = (s.x a).toNat * (s.x b).toNat / 2 ^ 64)
    ∧ (∃ v, exec (.divS d a b) s = .next (s.withX 18 d v)
        ∧ (if s.x b = 0#64 then v = BitVec.allOnes 64
          else if s.x a = BitVec.intMin 64 ∧ s.x b = BitVec.allOnes 64 then v = BitVec.intMin 64
          else v.toInt = (s.x a).toInt.tdiv (s.x b).toInt))
    ∧ (∃ v, exec (.divZ d a b) s = .next (s.withX 18 d v)
        ∧ (if s.x b = 0#64 then v = BitVec.allOnes 64 else v.toNat = (s.x a).toNat / (s.x b).toNat))
    ∧ (∃ v, exec (.remS d a b) s = .next (s.withX 18 d v)
        ∧ (if s.x b = 0#64 then v = s.x a
          else if s.x a = BitVec.intMin 64 ∧ s.x b = BitVec.allOnes 64 then v = 0#64
          else v.toInt = (s.x a).toInt.tmod (s.x b).toInt))
    ∧ (∃ v, exec (.remZ d a b) s = .next (s.withX 18 d v)
        ∧ (if s.x b = 0#64 then v = s.x a else v.toNat = (s.x a).toNat % (s.x b).toNat)))

/-- R103, R104, R107, with the results of sel, limm and lsh18 (R105, R106): the words of the compares, predicate logic, select and pointer edits; the compares
and predicate logic, each writing one predicate at issue + 1 (p0 discards it), select and the constants; and the tagged-pointer edits, with
TAG_OVERFLOW where the new offset leaves 0 .. 2^41 - 1 and then no result. -/
def Obligations.ComparePredicateSelectAndPointerResults : Prop :=
  (∀ (d a b n : Fin 64) (p c : Fin 8) (imm : BitVec 12),
    let rr (op : Nat) : Nat := op * 2 ^ 24 + d.val * 2 ^ 18 + a.val * 2 ^ 12 + b.val * 2 ^ 6 + n.val
    let pd : Fin 8 := Fin.ofNat 8 d.val
    let pa : Fin 8 := Fin.ofNat 8 a.val
    let pb : Fin 8 := Fin.ofNat 8 b.val
    (decodeSlot (rr 0x02)).toOption = (if d.val < 8
      then [Instr.cmpEq pd a b, .cmpNe pd a b, .cmpLtS pd a b, .cmpLtZ pd a b, .cmpLeS pd a b, .cmpLeZ pd a b][n.val]? else none)
    ∧ (decodeSlot (0x03 * 2 ^ 24 + c.val * 2 ^ 21 + p.val * 2 ^ 18 + a.val * 2 ^ 12 + imm.toNat)).toOption
      = [Instr.cmpEqImm p a imm, .cmpNeImm p a imm, .cmpLtSImm p a imm, .cmpLtZImm p a imm, .cmpLeSImm p a imm, .cmpLeZImm p a imm][c.val]?
    ∧ (decodeSlot (rr 0x04)).toOption = (if d.val < 8 ∧ a.val < 8 ∧ b.val < 8
      then ([Instr.pand pd pa pb, .por pd pa pb, .pxor pd pa pb] ++ if b = 0 then [.pnot pd pa] else [])[n.val]? else none)
    ∧ (decodeSlot (rr 0x05)).toOption = (if n.val < 8 then some (.sel d a b (Fin.ofNat 8 n.val)) else none)
    ∧ (decodeSlot (rr 0x06)).toOption = [Instr.ptag d a b, .pspace d a b, .poff d a b, .padd d a b][n.val]?)
  ∧ ((∀ (s : State) (p : Fin 8) (a b : Fin 64) (imm : BitVec 12), s.fit →
      exec (.cmpEq p a b) s = .next (s.withP 1 p (decide (s.x a = s.x b)))
      ∧ exec (.cmpNe p a b) s = .next (s.withP 1 p (decide (s.x a ≠ s.x b)))
      ∧ exec (.cmpLtS p a b) s = .next (s.withP 1 p (decide ((s.x a).toInt < (s.x b).toInt)))
      ∧ exec (.cmpLtZ p a b) s = .next (s.withP 1 p (decide ((s.x a).toNat < (s.x b).toNat)))
      ∧ exec (.cmpLeS p a b) s = .next (s.withP 1 p (decide ((s.x a).toInt ≤ (s.x b).toInt)))
      ∧ exec (.cmpLeZ p a b) s = .next (s.withP 1 p (decide ((s.x a).toNat ≤ (s.x b).toNat)))
      ∧ exec (.cmpEqImm p a imm) s = .next (s.withP 1 p (decide (s.x a = imm.signExtend 64)))
      ∧ exec (.cmpNeImm p a imm) s = .next (s.withP 1 p (decide (s.x a ≠ imm.signExtend 64)))
      ∧ exec (.cmpLtSImm p a imm) s = .next (s.withP 1 p (decide ((s.x a).toInt < imm.toInt)))
      ∧ exec (.cmpLtZImm p a imm) s = .next (s.withP 1 p (decide ((s.x a).toNat < (imm.signExtend 64).toNat)))
      ∧ exec (.cmpLeSImm p a imm) s = .next (s.withP 1 p (decide ((s.x a).toInt ≤ imm.toInt)))
      ∧ exec (.cmpLeZImm p a imm) s = .next (s.withP 1 p (decide ((s.x a).toNat ≤ (imm.signExtend 64).toNat))))
   ∧ (∀ (s : State) (p q r : Fin 8) (d a b : Fin 64) (imm : BitVec 18), s.fit →
      exec (.pand p q r) s = .next (s.withP 1 p (s.p q && s.p r))
      ∧ exec (.por p q r) s = .next (s.withP 1 p (s.p q || s.p r))
      ∧ exec (.pxor p q r) s = .next (s.withP 1 p (s.p q ^^ s.p r))
      ∧ exec (.pnot p q) s = .next (s.withP 1 p (!s.p q))
      ∧ exec (.sel d a b q) s = .next (s.withX 1 d (if s.p q = true then s.x a else s.x b))
      ∧ exec (.limm d imm) s = .next (s.withX 1 d (imm.signExtend 64))
      ∧ exec (.lsh18 d imm) s = .next (s.withX 1 d (BitVec.ofNat 64 ((s.x d).toNat * 2 ^ 18 + imm.toNat)))))
  ∧ (∀ (s : State) (d a b : Fin 64), s.fit →
     let tag : Nat := (s.x a).toNat / 2 ^ 41
     let off : Nat := (s.x a).toNat % 2 ^ 41
     let sum : Int := (off : Int) + (s.x b).toInt
     exec (.ptag d a b) s = .next (s.withX 1 d (BitVec.ofNat 64 ((s.x b).toNat % 2 ^ 23 * 2 ^ 41 + off)))
     ∧ exec (.pspace d a b) s = .next (s.withX 1 d (BitVec.ofNat 64 ((s.x b).toNat % 2 ^ 4 * 2 ^ 60 + (s.x a).toNat % 2 ^ 60)))
     ∧ ((s.x b).toNat < 2 ^ 41 → exec (.poff d a b) s = .next (s.withX 1 d (BitVec.ofNat 64 (tag * 2 ^ 41 + (s.x b).toNat))))
     ∧ (2 ^ 41 ≤ (s.x b).toNat → ∃ i, exec (.poff d a b) s = .next (s.trap .tagOverflow i))
     ∧ (0 ≤ sum → sum < 2 ^ 41 → exec (.padd d a b) s = .next (s.withX 1 d (BitVec.ofNat 64 (tag * 2 ^ 41 + sum.toNat))))
     ∧ (sum < 0 ∨ 2 ^ 41 ≤ sum → ∃ i, exec (.padd d a b) s = .next (s.trap .tagOverflow i)))

/-- R115: nop's words and its effect. R113, R54, R73: the reads of the clocks and tchk. R113, R330, R311, R331: halt, trap, txabort, and eret outside handler mode (ERET_OUTSIDE, R331): the trap
joins its group's window and nothing else changes, but that txabort lets no further bundle of its tile issue. -/
def Obligations.ClockReadsTchkNopAndTraps : Prop :=
  (slotClass 0x00 = .a ∧ ∀ n, n < 2 ^ 24 → (decodeSlot n).toOption = if n = 0 then some .nop else none)
  ∧ (∀ (s : State) (d : Fin 64) (n : BitVec 12) (g : Group), s.fit → s.groupOf s.cur.tile s.cur.urgent = some g →
     exec (.cyc d) s = .next (s.withX 1 d (BitVec.ofNat 64 g.cnt))
     ∧ exec (.gcyc d) s = .next (s.withX 1 d s.gcyc)
     ∧ (g.cnt = s.me.flow.spanStart + n.toNat → exec (.tchk n) s = .next s)
     ∧ (g.cnt ≠ s.me.flow.spanStart + n.toNat → exec (.tchk n) s = .next (s.trap .tchkMismatch 0#64))
     ∧ exec .nop s = .next s)
  ∧ (∀ (s : State) (n : BitVec 8) (c : BitVec 12) (g : Group), s.fitCore → s.groupOf s.cur.tile s.cur.urgent = some g →
     exec .halt s = .next (s.onGroup g.id fun x => x.trap ⟨s.cur.tile, x.cnt, .halt, s.cur.pc, s.cur.slot, 0#64⟩)
     ∧ exec (.trap n) s = .next (s.onGroup g.id fun x => x.trap ⟨s.cur.tile, x.cnt, .softTrap, s.cur.pc, s.cur.slot, n.setWidth 64⟩)
     ∧ exec .eret s = .next (s.onGroup g.id fun x => x.trap ⟨s.cur.tile, x.cnt, .eretOutside, s.cur.pc, s.cur.slot, 0#64⟩)
     ∧ exec (.txabort c) s = .next ((s.onMe fun x => { x with flow := { x.flow with wait := some (.stopped c) } }).onGroup g.id
         fun x => x.trap ⟨s.cur.tile, x.cnt, .userAbort, s.cur.pc, s.cur.slot, 0#64⟩))

/-- R332 with R326's list: rdc and wrc, their faults in order, and what lands; what each register of R326 reads, and what each takes of the value that a wrc
lands in it (R4, R138). R333: snapr outside handler mode reads zero, an index of more than ten bits raises SNAP_RANGE, one that names no entry of a
handler's snapshot reads zero, and one that names an entry reads its word at the group's stop cycle; and the words of the entries of register writes,
loads, stores and atomics. What GPOS tells of a whole-die group is the model's reading of R315 (DEDUCED, log 79), and the value of a load that has not
sampled is the argument `free` (log 5). -/
def Obligations.ControlRegisterAndSnapshotReads : Prop :=
  (∀ (s : State) (d a : Fin 64) (r : BitVec 12), s.fit →
     let listed := [0x000#12, 0x001#12, 0x002#12, 0x008#12, 0x009#12, 0x00A#12, 0x010#12, 0x011#12, 0x012#12, 0x013#12, 0x014#12, 0x015#12,
       0x018#12, 0x020#12, 0x021#12, 0x022#12]
     let system := [0x020#12, 0x021#12, 0x022#12]
     let readOnly := [0x008#12, 0x009#12, 0x00A#12, 0x011#12, 0x012#12, 0x013#12, 0x014#12]
     (r ∉ listed → exec (.rdc d r) s = .next (s.trap .cregInvalid 0#64) ∧ exec (.wrc a r) s = .next (s.trap .cregInvalid 0#64))
     ∧ (r ∈ system → s.readback = false →
         exec (.rdc d r) s = .next (s.trap .privileged 0#64) ∧ exec (.wrc a r) s = .next (s.trap .privileged 0#64))
     ∧ (r ∈ readOnly → exec (.wrc a r) s = .next (s.trap .cregReadonly 0#64))
     ∧ (r ∈ listed → (r ∈ system → s.readback = true) → r ≠ 0x000#12 →
         exec (.rdc d r) s = .next (s.withX 1 d (s.readCreg s.cur.tile s.cur.urgent r.toNat)))
     ∧ (r = 0x000#12 → exec (.rdc d r) s
         = .next ((s.withX 1 d (s.readCreg s.cur.tile s.cur.urgent 0)).withAct 0 (.fill .fpstat)))
     ∧ (r ∈ listed → (r ∈ system → s.readback = true) → r ∉ readOnly → exec (.wrc a r) s = .next (s.withAct 1 (.wrc r.toNat (s.x a)))))
  ∧ (∀ (s : State) (t : Nat) (u : Bool) (g : Group), t < 480 → s.groupOf t u = some g → g.fits = true →
     let c := (s.tctx t u).cr
     let r (n : Nat) : Word := s.readCreg t u n
     r 0x000 = c.fpstat.setWidth 64 ∧ r 0x001 = c.rbseed ∧ r 0x002 = c.rbidx ∧ (r 0x008).toNat = t + s.boot.rank.toNat * 2 ^ 9
     ∧ (∀ i j, g.whole = false → i < g.rows → j < g.cols → t = g.place.die * 120 + (g.place.row + i) * 12 + g.place.col + j →
         r 0x009 = BitVec.ofNat 64 (j + i * 2 ^ 8 + g.rows * 2 ^ 16 + g.cols * 2 ^ 24))
     ∧ (∀ i j, g.whole = true → i < 10 * g.rows → j < 12 → t = (g.place.die + i / 10) * 120 + i % 10 * 12 + j →
         r 0x009 = BitVec.ofNat 64 (j + i * 2 ^ 8 + 10 * g.rows * 2 ^ 16 + 12 * 2 ^ 24 + 2 ^ 32))
     ∧ r 0x00A = BitVec.ofNat 64 (g.ctx + (if (s.ctxt g.ctx).secure = true then 2 ^ 6 else 0) + (if u = true then 2 ^ 7 else 0)
         + (if ∃ k, s.kernel g.id = some k ∧ k.ticket = none then 2 ^ 8 else 0))
     ∧ r 0x010 = c.tvec ∧ r 0x011 = c.tcause ∧ r 0x012 = c.tpc ∧ r 0x013 = c.tcyc ∧ r 0x014 = c.tinfo ∧ r 0x015 = c.tscratch ∧ r 0x018 = c.cycalarm
     ∧ r 0x020 = c.dbgctl.setWidth 64 ∧ r 0x021 = c.bkpt ∧ r 0x022 = c.watch)
  ∧ (∀ (s : State) (t : Nat) (u : Bool) (before after : List Act) (a : Act) (n : Nat) (v : Word), t < 480 →
     (s.tctx t u).acts = before ++ [a] ++ after → a.kind = .wrc n v → a.due = s.now t u → (∀ x ∈ before ++ after, ∀ m w, x.kind = .wrc m w → x.due ≠ s.now t u) →
     let c := (s.tctx t u).cr
     let part (hi lo : Nat) : Word := BitVec.ofNat 64 (v.toNat % 2 ^ (hi + 1) / 2 ^ lo * 2 ^ lo)
     let z (c : CRegs) : Prop := s.landWrc t u = s.onCtx t u fun x => { x with cr := c }
     (n = 0x000 → z { c with fpstat := v.setWidth 6 }) ∧ (n = 0x001 → z { c with rbseed := v, rbidx := 0#64 }) ∧ (n = 0x002 → z { c with rbidx := v })
     ∧ (n = 0x010 → z { c with tvec := part 17 2 }) ∧ (n = 0x015 → z { c with tscratch := v }) ∧ (n = 0x018 → z { c with cycalarm := v })
     ∧ (n = 0x020 → z { c with dbgctl := v.setWidth 5 }) ∧ (n = 0x021 → z { c with bkpt := part 17 2 }) ∧ (n = 0x022 → z { c with watch := part 20 6 }))
  ∧ (∀ (s : State) (d a : Fin 64) (g : Group), s.fit → s.groupOf s.cur.tile s.cur.urgent = some g →
     let i := (s.x a).toNat
     (2 ^ 10 ≤ i → exec (.snapr d a) s = .next (s.trap .snapRange 0#64))
     ∧ (i < 2 ^ 10 → (s.me.handling = false ∨ s.me.snap.length ≤ i % 64) →
         exec (.snapr d a) s = .next ({ s with free := s.free + 1 }.withX 1 d 0#64))
     ∧ (∀ e, i < 2 ^ 10 → s.me.handling = true → s.me.snap[i % 64]? = some e → ∃ v, exec (.snapr d a) s
         = .next ({ s with free := s.free + 1 }.withX 1 d (BitVec.ofNat 64 ((e.snapWords g.cnt v).getD (i / 64) 0)))))
  ∧ (∀ (e : Effect) (stop free : Nat),
     let m := e.due - stop
     let w (q : Nat) : Nat := (e.snapWords stop free).getD q 0
     (∀ (r : Fin 64) (v k : Wide), e.kind = .reg (.x r) v k → w 0 = 2 ^ 63 + m % 2 ^ 12 * 2 ^ 48 + r.val ∧ w 1 = v.toNat % 2 ^ 64)
     ∧ (∀ (r : Fin 32) (v k : Wide), e.kind = .reg (.v r) v k → w 0 = 2 ^ 63 + 2 ^ 60 + m % 2 ^ 12 * 2 ^ 48 + r.val
         ∧ ∀ q, q < 8 → w (1 + q) = v.toNat / 2 ^ (64 * q) % 2 ^ 64)
     ∧ (∀ (l : Loc) (p : Word) (n : Nat) (sg : Bool) (r : Fin 64) (got : Option Wide), e.kind = .load l p n sg (.x r) got →
         w 0 = 2 ^ 63 + m % 2 ^ 12 * 2 ^ 48 + r.val ∧ (got = none → w 1 = free % 2 ^ 64)
         ∧ ∀ v, got = some v → (n = 1 ∨ n = 2 ∨ n = 4 ∨ n = 8) → v.toNat < 2 ^ (8 * n) →
           w 1 = (if sg = true then (BitVec.ofNat (8 * n) v.toNat).signExtend 64 else v.setWidth 64).toNat)
     ∧ (∀ (l : Loc) (p : Word) (r : Fin 32) (got : Option Wide), e.kind = .load l p 64 false (.v r) got →
         w 0 = 2 ^ 63 + 2 ^ 60 + m % 2 ^ 12 * 2 ^ 48 + r.val ∧ (got = none → w 1 = free % 2 ^ 64)
         ∧ ∀ v, got = some v → ∀ q, q < 8 → w (1 + q) = v.toNat / 2 ^ (64 * q) % 2 ^ 64)
     ∧ (∀ (l : Loc) (p : Word) (bs : List Byte), e.kind = .store l p bs → w 0 = 2 ^ 63 + 5 * 2 ^ 60 + m % 2 ^ 12 * 2 ^ 48 + bs.length ∧ w 1 = p.toNat
         ∧ ∀ q, q < 8 → w (2 + q) = leNat bs / 2 ^ (64 * q) % 2 ^ 64)
     ∧ (∀ (l : Loc) (p : Word) (op : AtomOp) (w64 : Bool) (d : Fin 64) (x c : Word) (old : Option Word), e.kind = .atomic l p op w64 d x c old →
         let bits : Nat := if w64 = true then 64 else 32
         let next : Nat := if old.isSome = true then e.due - 1 - stop else e.due - 3 - stop
         let code : Nat := match op with
           | .add => 0 | .minS => 1 | .maxS => 2 | .and => 3 | .or => 4 | .xchg => 5 | .cas => 6 | .fadd => 7
         (w 0 = 2 ^ 63 + 6 * 2 ^ 60 + next % 2 ^ 12 * 2 ^ 48 + (bits / 8 + code * 2 ^ 4 + (if old.isSome = true then 2 ^ 7 else 0) + d.val * 2 ^ 8))
         ∧ w 1 = p.toNat ∧ w 2 = x.toNat % 2 ^ bits ∧ w 3 = (if op = .cas then c.toNat % 2 ^ bits else 0) ∧ w 4 = (old.getD 0#64).toNat ∧ w 5 = m))

/-- R108: the branches. A branch changes nothing at issue but what the bundle's branch is, and brl when taken schedules x63. -/
def Obligations.BranchesChooseTheirTarget : Prop :=
  ∀ (s : State) (p : Fin 8) (neg : Bool) (o : BitVec 20) (a : Fin 64) (m : Fin 16), s.fit → s.cur.pc < 2 ^ 18 →
    let taken : Bool := s.p p != neg
    let go (t : Nat) : State := { s with cur := { s.cur with branch := some (if taken then some t else none) } }
    let at_ : Int := (s.cur.pc : Int) + o.toInt * 4
    let second := s.cur.next + 4 * bundleSpan (s.tile s.cur.tile).imem s.cur.next
    let back := second + 4 * bundleSpan (s.tile s.cur.tile).imem second
    let bad (t : Nat) : Prop := t % 4 ≠ 0 ∨ 2 ^ 18 ≤ t
    (∃ t : Nat, (if 0 ≤ at_ ∧ at_ < 2 ^ 18 then (t : Int) = at_ else 2 ^ 18 ≤ t)
        ∧ exec (.br p neg o) s = .next (go t)
        ∧ exec (.brl p neg o) s = .next (if taken then (go t).withX 1 63 (BitVec.ofNat 64 back) else go t))
    ∧ (taken = true → bad (s.x a).toNat → exec (.jr p neg a) s = .next (s.trap .illegalOp 0#64))
    ∧ (taken = false ∨ ¬ bad (s.x a).toNat → exec (.jr p neg a) s = .next (go (s.x a).toNat))
    ∧ (taken = true → bad s.me.regs.mb[m].toNat → exec (.mbr p neg m) s = .next (s.trap .illegalOp 0#64))
    ∧ (taken = false ∨ ¬ bad s.me.regs.mb[m].toNat → exec (.mbr p neg m) s = .next (go s.me.regs.mb[m].toNat))

/-- R66 (and R108): two delay bundles issue, then the target of a taken branch, or the bundle after the second delay bundle. R110 and R111:
at the issue of an active loop's last bundle its counter steps, and the next bundle is the first of the body while the counter is not zero; at
zero the loop ends, and the next loop out steps where the bundle is its last too; a loop whose body runs on stays as it is. R67: after a loop of one pass or
more its body is active and its first bundle comes next; after a loop of none the bundle after the body's last one. R68: a taken branch leaves the
innermost loops whose body its target lies outside, their counters standing. R110 and R68: loop and loopi set their counter and open the body, or skip it
at a count of zero; a fifth active loop, or a counter in use, raises LOOP_NEST. -/
def Obligations.DelayBundlesAndLoops : Prop :=
  ((∀ (m : Mem) (c : Cur) (f : Fetch) (lc : Vector (BitVec 32) 4) (t : Option Nat),
      let q := stepLoops f.pc c.next f.loops lc
      let next := q.2.2.getD c.next
      let z := nextFetch m c f lc
      z.2 = q.2.1
      ∧ (c.loop = none →
        (f.br = none → c.branch = some t → z.1 = ⟨next, some ⟨t, 2⟩, q.1⟩)
        ∧ (f.br = some ⟨t, 2⟩ → z.1 = ⟨next, some ⟨t, 1⟩, q.1⟩)
        ∧ (f.br = some ⟨t, 1⟩ → z.1.pc = t.getD next ∧ z.1.br = none ∧ (t = none → z.1.loops = q.1))
        ∧ (f.br = none → c.branch = none → z.1 = ⟨next, none, q.1⟩)
        ∧ (∀ a, t = some a → f.br = some ⟨t, 1⟩ → ∃ left, q.1 = left ++ z.1.loops ∧ (∀ l ∈ z.1.loops, l.first ≤ a ∧ a ≤ l.last)
            ∧ ∀ l, left.getLast? = some l → ¬ (l.first ≤ a ∧ a ≤ l.last)))
      ∧ (∀ l : LoopF, c.loop = some (l, false) → z.1 = ⟨c.next, f.br, l :: q.1⟩)
      ∧ (∀ (l : LoopF) (k : Nat), c.loop = some (l, true) →
          let start (k : Nat) : Nat := Nat.repeat (fun a => a + 4 * bundleSpan m a) k c.next
          k < 2 ^ 16 → (∀ j, j < k → start (j + 1) ≤ l.last) → l.last < start (k + 1) → z.1 = ⟨start (k + 1), f.br, q.1⟩))
   ∧ (∀ (a e : Nat) (l : LoopF) (r : List LoopF) (lc : Vector (BitVec 32) 4),
      (a ≤ l.last → l.last < e → lc[l.lc] ≠ 1#32 →
        stepLoops a e (l :: r) lc = (l :: r, lc.set l.lc (lc[l.lc] - 1), some l.first))
      ∧ (a ≤ l.last → l.last < e → lc[l.lc] = 1#32 → stepLoops a e (l :: r) lc = stepLoops a e r (lc.set l.lc 0#32))
      ∧ (l.last < a ∨ e ≤ l.last → stepLoops a e (l :: r) lc = (l :: (stepLoops a e r lc).1, (stepLoops a e r lc).2))
      ∧ stepLoops a e [] lc = ([], lc, none)))
  ∧ (∀ (s : State) (c : Fin 4) (a : Fin 64) (e : BitVec 16) (n : BitVec 12) (e' : BitVec 10), s.fitCore →
     let loops := s.me.flow.fetch.loops
     let full := 4 ≤ loops.length ∨ ∃ l ∈ loops, l.lc = c
     let opened (n : BitVec 32) (e : Nat) : State :=
       { s.onMe (fun x => { x with regs := { x.regs with lc := x.regs.lc.set c n } }) with
         cur := { s.cur with loop := some (⟨c, s.cur.next, s.cur.pc + 4 * e⟩, n == 0#32) } }
     (¬ full → exec (.loop c a e) s = .next (opened (BitVec.ofNat 32 ((s.x a).toNat % 2 ^ 32)) e.toNat)
       ∧ exec (.loopi c n e') s = .next (opened (BitVec.ofNat 32 n.toNat) e'.toNat))
     ∧ (full → exec (.loop c a e) s = .next (s.trap .loopNest 0#64) ∧ exec (.loopi c n e') s = .next (s.trap .loopNest 0#64)))

/-- R50, R51, R184, R185, R354: a wait holds the issue of its hardware context from the next bundle on and ends the span; nothing else changes.
R184, R185, R354, R51: while its group counts, a held waitk goes on when its counter has reached n, which it then takes; a held fence when
every counter named m times has reached m; a held barw when its barrier condition of R354 no longer holds it; and a syncg of every tile of a
group at the release cycle of the group, which is 2D + 8 cycles after the last of them issued (one whose program has ended counts as one that issued it, R114), D the largest distance of two
tiles of the group: then
every tile that holds on syncg goes on, and nothing else changes. Otherwise nothing changes. -/
def Obligations.WaitsHoldIssueUntilTheirConditionHolds : Prop :=
  (∀ (s : State) (k a b c d b' : Fin 64) (n : BitVec 12), s.fitCore →
     let held (w : Wait) (aligned : Bool) : State :=
       s.onMe fun c => { c with flow := { c.flow with wait := some w, newSpan := some aligned } }
     exec (.waitk k n) s = .next (held (.waitk k n.toNat) false)
     ∧ exec (.fence a b c d) s = .next (held (.fence ([a, b, c, d].filter (· != 63))) false)
     ∧ exec .syncg s = .next (held (.syncg s.clock) true)
     ∧ exec (.barw b') s = .next (held (.barw b' (s.barView s.cur.tile s.cur.urgent b').done) false))
  ∧ (∀ (s : State) (t : Nat) (u : Bool) (g : Group), s.groupOf t u = some g → g.counts = true →
     let r := (s.tctx t u).regs
     (∀ (k : Fin 64) (n : Nat), (s.tctx t u).flow.wait = some (.waitk k n) → k ≠ 63 → n ≠ 0 →
       exec (.waitkRelease t u) s = .next (if n ≤ r.k[k].toNat then s.onCtx t u fun c => { c with
         flow := { c.flow with wait := none }, regs := { c.regs with k := c.regs.k.set k (c.regs.k[k] - BitVec.ofNat 32 n) } } else s))
     ∧ (∀ (k : Fin 64) (n : Nat), (s.tctx t u).flow.wait = some (.waitk k n) → k = 63 ∨ n = 0 →
       exec (.waitkRelease t u) s = .next (s.onCtx t u fun c => { c with flow := { c.flow with wait := none } }))
     ∧ (∀ l : List (Fin 64), (s.tctx t u).flow.wait = some (.fence l) → (∀ k ∈ l, l.count k ≤ r.k[k].toNat) →
       exec (.fenceRelease t u) s = .next (s.onCtx t u fun c => { c with
         flow := { c.flow with wait := none }, regs := l.foldl (fun (r : Regs) (k : Fin 64) => { r with k := r.k.set k (r.k[k] - 1#32) }) c.regs }))
     ∧ (∀ l : List (Fin 64), (s.tctx t u).flow.wait = some (.fence l) → (∃ k ∈ l, r.k[k].toNat < l.count k) → exec (.fenceRelease t u) s = .next s)
     ∧ (∀ (b : Fin 64) (d0 : BitVec 16), (s.tctx t u).flow.wait = some (.barw b d0) →
       let v := s.barView t u b
       exec (.barwRelease t u) s = .next (if v.out ≠ 0 ∨ (v.v = true ∧ v.done = v.last) ∨ (v.v = false ∧ v.done = d0) then s
         else s.onCtx t u fun c => { c with flow := { c.flow with wait := none } }))
     ∧ (∀ n : Nat, s.group n = some g → g.fits = true → g.sync = some g.cnt → ∃ z, exec (.syncgRelease n) s = .next z
       ∧ (∀ i v, let on := i ∈ g.tiles ∧ v = g.urgent ∧ ∃ at_, (s.tctx i v).flow.wait = some (.syncg at_)
           (on → z.tctx i v = { s.tctx i v with flow := { (s.tctx i v).flow with wait := none } }) ∧ (¬ on → z.tctx i v = s.tctx i v))
       ∧ z.group n = some { g with sync := none } ∧ (∀ m, m ≠ n → z.group m = s.group m) ∧ s.sameArchitecture z ∧ z.crown.kernels = s.crown.kernels
       ∧ z.traffic = s.traffic ∧ z.roots = s.roots)
     ∧ (∀ n : Nat, s.group n = some g → g.sync ≠ some g.cnt → exec (.syncgRelease n) s = .next s))
  ∧ (∀ (s : State) (g : Group), g.fits = true →
     let hops (a b : Nat) : Nat :=
       let far (x y : Nat) : Nat := max x y - min x y
       far (a % 120 / 12) (b % 120 / 12) + far (a % 12) (b % 12) + 12 * far (a / 120) (b / 120)
     let waits (i : Nat) : Prop := ∃ n, (s.tctx i g.urgent).flow.wait = some (.syncg n)
     let ended (i : Nat) : Prop := ∃ n, (s.tctx i g.urgent).flow.ended = some n ∧ n < g.cnt
     ((∀ i ∈ g.tiles, waits i ∨ ended i) → (∃ i ∈ g.tiles, waits i) → ∃ far, s.syncAt g = some (g.cnt + 2 * far + 8)
       ∧ (∀ a ∈ g.tiles, ∀ b ∈ g.tiles, hops a b ≤ far) ∧ ∃ a ∈ g.tiles, ∃ b ∈ g.tiles, hops a b = far)
     ∧ ((∃ i ∈ g.tiles, ¬ waits i ∧ ¬ ended i) → s.syncAt g = none)
     ∧ (s.group g.id = some g → g.counts = true → g.sync = none → ∀ n, s.syncAt g = some n → s.noteSync g = s.onGroup g.id fun x => { x with sync := some n })
     ∧ (g ∈ s.crown.groups → g.counts = true → g.sync = some g.cnt → Instr.syncgRelease g.id ∈ s.releaseEvents))

/-- R310 and R325: end ends its tile's program, keeping the stores, the memory halves of atomics and the lanes of vsts in flight and dropping
every register result; eret in handler mode holds the handler until its effects have landed. -/
def Obligations.EndAndEretKeepWhatMustStillLand : Prop :=
  ∀ (s : State), s.cur.tile < 480 →
    (s.me.handling = false → ∃ t, exec .endK s = .next t ∧ t.me.flow.ended = some s.clock
      ∧ s.sameMemory t ∧ s.sameRegisters t
      ∧ (∀ e ∈ s.me.inflight, (∃ l p bs, e.kind = .store l p bs) ∨ (∃ i ls a, e.kind = .scatter i ls a) → e ∈ t.me.inflight)
      ∧ (∀ e ∈ s.me.inflight, ∀ l p o w d a b v, e.kind = .atomic l p o w d a b v → { e with noReg := true } ∈ t.me.inflight)
      ∧ (∀ e ∈ t.me.inflight, e.storing = true ∨ (e.noReg = true ∧ ∃ l p o w d a b v, e.kind = .atomic l p o w d a b v)))
    ∧ (s.me.handling = true → exec .eret s = .next (s.onMe fun c => { c with flow := { c.flow with ereting := true } }))
    ∧ (s.me.handling = true → exec .endK s = .next (s.trap .handlerOp 0#64))

/-- R319, R320, R51: the first trap of a running group at T sets its stop cycle T + F with F = 2D + 8, where D is the group's diameter; every
trap joins the window; a later one does not move the stop. R323: a window whose every trap is handleable on a tile with a handler is
handled; one whose traps are all handleable on tiles that ask for it is held; any other ends the kernel (the cause it ends with is the
model's choice, log 29). -/
def Obligations.TrapsFreezeTheGroupAndAreDisposedOf : Prop :=
  (∀ (g : Group) (r : TrapRec),
     let d : Nat := if g.whole = true then 9 + 11 + 12 * (g.rows - 1) else (g.rows - 1) + (g.cols - 1)
     (g.st = .running → g.trap r = { g with st := .freezing (r.cyc + (2 * d + 8)), window := g.window ++ [r] })
     ∧ (∀ n, g.st = .freezing n → g.trap r = { g with window := g.window ++ [r] }))
  ∧ (∀ (s : State) (g : Group), g.window ≠ [] →
     let can (r : TrapRec) : Prop := r.cause ∈ [Cause.timingMiss, .slotReuse, .tchkMismatch, .debugStep, .debugBreak, .debugHalt, .cycleAlarm,
       .halt, .softTrap, .debugWatch]
     let cr (r : TrapRec) : CRegs := (s.tctx r.tile g.urgent).cr
     let handled := ∀ r ∈ g.window, can r ∧ (cr r).tvec ≠ 0#64
     let heldAll := ∀ r ∈ g.window, can r ∧ (cr r).dbgctl.getLsbD 4 = true
     (handled → s.disposal g = some .handle)
     ∧ (¬ handled → heldAll → s.disposal g = some .hold)
     ∧ (¬ handled → ¬ heldAll → ∃ r ∈ g.window, s.disposal g = some (.abort r)))

/-- R320, R321, R323, R334: at its stop cycle a freezing group stops and every effect of its tiles in flight moves into the snapshot buffers; in that gcy
its window is disposed of: where a handler runs for every trap, each the first one of its tile, every trapping tile is in its handler; otherwise, under a
kernel, the group stays frozen and a record of each trap for which no handler runs goes to the context's trap queue, of two alike one each. A group asked to
pause stops in the same way. The buffer has room for them all (R321): every instruction, with any operands, that would bring its context's effects in flight
above 64 raises INFLIGHT_LIMIT and has no effect. -/
def Obligations.StoppedGroupsKeepTheirEffects : Prop :=
  (∀ (i : Instr) (s : State), encode i ≠ none →
    let roomy := s.onMe fun c => { c with inflight := [] }
    (64 ≤ s.me.inflight.length → (∃ z e, exec i roomy = .next z ∧ z.me.inflight = [e]) → exec i s = .next (s.trap .inflightLimit 0#64))
    ∧ (∀ t, s.me.inflight.length ≤ 64 → exec i s = .next t → t.me.inflight.length ≤ 64))
  ∧ ∀ (s : State) (n : Nat) (g : Group), s.group n = some g → g.fits = true → g.paused = false → g.saveSlot = none →
    (∀ stop, g.st = .freezing stop → stop ≤ g.cnt → g.pauseAt = none → g.window ≠ [] →
      let taken (r : TrapRec) : Prop := s.disposal g = some .handle ∧ g.ordered.find? (·.tile == r.tile) = some r
      ((∀ r ∈ g.window, taken r) → g.window.Nodup → (∀ k, s.kernel n = some k → k.st = .running ∧ s.untold g.ctx n = false) → ∃ t h, exec (.freezeStop n) s = .next t
        ∧ t.group n = some h ∧ h.st = .handling ∧ h.window = [] ∧ h.cnt = g.cnt
        ∧ (∀ i ∈ g.tiles, (t.tctx i g.urgent).snap = (s.tctx i g.urgent).inflight ∧ (t.tctx i g.urgent).inflight = []
            ∧ (t.tctx i g.urgent).regs = (s.tctx i g.urgent).regs ∧ (t.tctx i g.urgent).flow.fetch = (s.tctx i g.urgent).flow.fetch
            ∧ ((∃ r ∈ g.window, r.tile = i) → (t.tctx i g.urgent).handling = true)))
      ∧ (∀ k : Kernel, (∃ r ∈ g.window, ¬ taken r) ∨ ¬ g.window.Nodup → s.kernel n = some k → k.st = .running → g.recorded = [] → g.ctx < 64 →
        ∃ t h rs, exec (.freezeStop n) s = .next t ∧ t.group n = some h ∧ h.st = .frozen ∧ h.window = g.window ∧ h.cnt = g.cnt
        ∧ (t.ctxt g.ctx).waiting = (s.ctxt g.ctx).waiting ++ rs
        ∧ ((∀ r ∈ g.window, r.cause ≠ .userAbort) → s.disposal g ≠ some .handle → rs.length = g.window.length)
        ∧ (∀ r ∈ g.window, taken r → r.cause ≠ .userAbort → ∀ m, g.window.count r = m + 1 → ∃ qs : List TqRec, qs.Sublist rs ∧ qs.length = m
            ∧ ∀ q ∈ qs, q.cause = r.cause ∧ q.tile = r.tile ∧ q.slot = r.slot)
        ∧ (∀ q ∈ rs, ∃ r ∈ g.window, (¬ taken r ∨ 1 < g.window.count r) ∧ q.cause = r.cause ∧ q.tile = r.tile ∧ q.fpc = r.fpc ∧ q.slot = r.slot ∧ q.owner = n)
        ∧ (∀ r ∈ g.window, ¬ taken r → r.cause ≠ .userAbort → ∃ q ∈ rs, q.cause = r.cause ∧ q.tile = r.tile)
        ∧ (∀ i ∈ g.tiles, (t.tctx i g.urgent).snap = (s.tctx i g.urgent).inflight ∧ (t.tctx i g.urgent).inflight = []
            ∧ (t.tctx i g.urgent).regs = (s.tctx i g.urgent).regs ∧ (t.tctx i g.urgent).flow = (s.tctx i g.urgent).flow)))
    ∧ (∀ p, g.st = .running → g.pauseAt = some p → p ≤ g.cnt → ∃ t h, exec (.pauseStop n) s = .next t
      ∧ t.group n = some h ∧ h.paused = true ∧ h.st = .running ∧ h.cnt = g.cnt
      ∧ (∀ i ∈ g.tiles, (t.tctx i g.urgent).snap = (s.tctx i g.urgent).inflight ∧ (t.tctx i g.urgent).inflight = []
          ∧ (t.tctx i g.urgent).regs = (s.tctx i g.urgent).regs))

/-- R325, R335, R316: a resuming group takes its snapshots back with their remaining latencies and runs again at its resume gcy, unless it is paused; a paused
group that no urgent group covers resumes F gcy later, or, where it was frozen, handling or held when it was paused, is back in that state with its counter
where it was; a placed group starts at its start gcy with its counter at zero. -/
def Obligations.GroupsStartAndResume : Prop :=
  ∀ (s : State) (n : Nat) (g : Group), s.group n = some g →
    (∀ m, g.fits = true → g.st = .resuming m → g.paused = false → m ≤ s.gcyc.toNat → g.pend = [] → g.window = [] →
      ∃ t h, exec (.groupResume n) s = .next t ∧ t.group n = some h ∧ h.st = .running ∧ h.cnt = g.cnt
        ∧ (∀ i ∈ g.tiles, (t.tctx i g.urgent).inflight = (s.tctx i g.urgent).snap ∧ (t.tctx i g.urgent).snap = []
            ∧ (t.tctx i g.urgent).regs = (s.tctx i g.urgent).regs ∧ (t.tctx i g.urgent).flow = (s.tctx i g.urgent).flow))
    ∧ (g.paused = true → exec (.groupResume n) s = .next s)
    ∧ (g.st = .frozen ∨ g.st = .handling ∨ g.st = .held → exec (.groupResume n) s = .next s)
    ∧ (g.paused = true → g.st = .frozen ∨ g.st = .handling ∨ g.st = .held → s.coveredBy g n = false →
        ∃ t, exec (.urgentReleaseResume n) s = .next t ∧ t.group n = some { g with paused := false } ∧ t.tiles = s.tiles ∧ t.hbm = s.hbm)
    ∧ (g.paused = true → s.coveredBy g n = true → exec (.urgentReleaseResume n) s = .next s)
    ∧ (g.paused = true → s.coveredBy g n = false →
        exec (.urgentReleaseResume n) s = .next (s.onGroup n fun y => { y with
          paused := false
          st := match y.st with
            | .running | .freezing _ => .resuming (s.gcyc.toNat + (2 * y.diameter + 8))
            | x => x }))
    ∧ (g.st = .placing s.gcyc.toNat → s.gcyc ≠ 0#64 → ∃ t h, exec (.groupStart n) s = .next t
        ∧ t.group n = some h ∧ h.st = .running ∧ h.cnt = 0 ∧ t.tiles = s.tiles ∧ t.hbm = s.hbm)

/-- R324, R326, R327: a tile enters its handler at the address in TVEC with TCAUSE.handler set, its main program's fetch state and its
registers unchanged; and TCAUSE, TPC, TCYC and TINFO tell of its first trap. -/
def Obligations.HandlerEntryAndCauseRegisters : Prop :=
  (∀ c : TileCtx, let d := c.enterHandler
    d.flow.handler = some ⟨(c.cr.tvec.toNat % 2 ^ 18) / 4 * 4, none, []⟩ ∧ d.flow.fetch = c.flow.fetch ∧ d.handling = true
      ∧ d.cr.tcause.getLsbD 63 = true ∧ d.regs = c.regs ∧ d.inflight = c.inflight ∧ d.snap = c.snap)
  ∧ (∀ (c : CRegs) (r : TrapRec) (multi : Bool) (pc : Nat), r.fpc < 2 ^ 18 → r.slot < 2 ^ 8 →
      let d := c.tell r multi pc
      d.tcause.getLsbD 63 = false ∧ d.tcause.getLsbD 62 = multi ∧ bits d.tcause.toNat 41 24 = r.fpc ∧ bits d.tcause.toNat 23 16 = r.slot
        ∧ bits d.tcause.toNat 7 0 = r.cause.code ∧ bits d.tpc.toNat 17 2 = pc % 2 ^ 18 / 4 ∧ d.tcyc.toNat = r.cyc % 2 ^ 64 ∧ d.tinfo = r.info
        ∧ d.tvec = c.tvec ∧ d.tscratch = c.tscratch ∧ d.fpstat = c.fpstat)

/-- R78: x0, p0 and vm0 read as zero, true and all ones whatever is stored, and a write to one of them changes nothing. R58, R78, R125, R173: any other
register write reads back, a vector register takes the bits its mask selects and keeps the others, and every other register of every file is
unchanged. -/
def Obligations.RegisterWritesReadBackAlone : Prop :=
  (∀ (r : Regs) (v m : Wide), r.getX 0 = 0#64 ∧ r.getP 0 = true ∧ r.getVm 0 = 0xFFFF#16
     ∧ r.put (.x 0) v m = r ∧ r.put (.p 0) v m = r ∧ r.put (.vm 0) v m = r)
  ∧ (∀ (r : Regs) (v m : Wide),
     (∀ i : Fin 64, i ≠ 0 → let q := r.put (.x i) v m
       q.getX i = v.setWidth 64 ∧ (∀ j, j ≠ i → q.getX j = r.getX j)
         ∧ q.p = r.p ∧ q.v = r.v ∧ q.vm = r.vm ∧ q.lc = r.lc ∧ q.k = r.k ∧ q.w = r.w ∧ q.mb = r.mb)
     ∧ (∀ i : Fin 8, i ≠ 0 → let q := r.put (.p i) v m
       q.getP i = v.getLsbD 0 ∧ (∀ j, j ≠ i → q.getP j = r.getP j)
         ∧ q.x = r.x ∧ q.v = r.v ∧ q.vm = r.vm ∧ q.lc = r.lc ∧ q.k = r.k ∧ q.w = r.w ∧ q.mb = r.mb)
     ∧ (∀ i : Fin 8, i ≠ 0 → let q := r.put (.vm i) v m
       q.getVm i = v.setWidth 16 ∧ (∀ j, j ≠ i → q.getVm j = r.getVm j)
         ∧ q.x = r.x ∧ q.p = r.p ∧ q.v = r.v ∧ q.lc = r.lc ∧ q.k = r.k ∧ q.w = r.w ∧ q.mb = r.mb)
     ∧ (∀ i : Fin 32, let q := r.put (.v i) v m
       (∀ b, b < 512 → q.v[i].getLsbD b = if m.getLsbD b then v.getLsbD b else r.v[i].getLsbD b) ∧ (∀ j, j ≠ i → q.v[j] = r.v[j])
         ∧ q.x = r.x ∧ q.p = r.p ∧ q.vm = r.vm ∧ q.lc = r.lc ∧ q.k = r.k ∧ q.w = r.w ∧ q.mb = r.mb)
     ∧ (∀ (i : Fin 32) (o : Fin 8), let q := r.put (.w i o) v m
       (∀ b, b < 512 → q.w[i].getLsbD b = if 64 * o.val ≤ b ∧ b < 64 * o.val + 64 then v.getLsbD (b - 64 * o.val) else r.w[i].getLsbD b)
         ∧ (∀ j, j ≠ i → q.w[j] = r.w[j])
         ∧ q.x = r.x ∧ q.p = r.p ∧ q.v = r.v ∧ q.vm = r.vm ∧ q.lc = r.lc ∧ q.k = r.k ∧ q.mb = r.mb))

/-- R58, R48: a result in flight changes no register before the cycle it is due; in that cycle its register takes it, alone of the
registers, its flags join FPSTAT, and it is in flight no longer. No other hardware context, and no memory, changes. -/
def Obligations.ResultsLandInTheCycleTheyAreDue : Prop :=
  ∀ (s : State) (t : Nat) (u : Bool) (before after : List Effect) (e : Effect) (d : Dst) (v m : Wide), t < 480 →
    (s.tctx t u).inflight = before ++ [e] ++ after → e.kind = .reg d v m → e.noReg = false →
    (∀ x ∈ before ++ after, x.due ≠ s.now t u) →
    let z := s.landRegs t u
    (e.due ≠ s.now t u → z.tctx t u = s.tctx t u)
    ∧ (e.due = s.now t u → (z.tctx t u).regs = (s.tctx t u).regs.put d v m ∧ (z.tctx t u).inflight = before ++ after
        ∧ (z.tctx t u).cr = { (s.tctx t u).cr with fpstat := (s.tctx t u).cr.fpstat ||| e.flags } ∧ (z.tctx t u).flow = (s.tctx t u).flow)
    ∧ (∀ i w, ¬ (i = t ∧ w = u) → z.tctx i w = s.tctx i w) ∧ s.sameMemory z ∧ z.crown = s.crown

/-- R59: of two results of different instructions that are due to write one register in one cycle neither is written, and the tile raises
WAW_COLLIDE. R63 with R61: two accesses of one cycle to one bank collide unless they are of one 64-byte word and both are core loads, or one is a core
store and the other a core load of bytes it stores (that the second case is none is the model's reading, log 10); exactly the accesses that collide with
another take part. R62, R63: of two colliding accesses of a tile's core to its scratchpad both are cancelled, and the tile raises BANK_COLLIDE once, at
the slot that issued first. -/
def Obligations.CollisionsTakeInBothParties : Prop :=
  (∀ (s : State) (t : Nat) (u : Bool) (rest : List Effect) (a b : Effect) (da db : Dst) (va vb ma mb : Wide) (g : Group), t < 480 →
     (s.tctx t u).inflight = [a, b] ++ rest → (∀ x ∈ rest, x.due ≠ s.now t u) → a.due = s.now t u → b.due = s.now t u → a.ord ≠ b.ord →
     a.kind = .reg da va ma → b.kind = .reg db vb mb → a.noReg = false → b.noReg = false → da.same db = true → db.same da = true →
     da.void = false → db.void = false →
     s.groupOf t u = some g → s.group g.id = some g → g.st = .running → (s.tctx t u).handling = false →
     let z := s.landRegs t u
     (z.tctx t u).regs = (s.tctx t u).regs ∧ (z.tctx t u).cr = (s.tctx t u).cr
       ∧ ∃ h, z.group g.id = some h ∧ h.st = .freezing (g.cnt + (2 * g.diameter + 8))
         ∧ ∃ r ∈ h.window, r.cause = .wawCollide ∧ r.tile = t ∧ r.cyc = g.cnt)
  ∧ (let fed (x y : Touch) : Prop := x.use = .store ∧ y.use = .load ∧ x.at_.lo ≤ y.at_.lo ∧ y.at_.lo + y.at_.len ≤ x.at_.lo + x.at_.len
   (∀ x y : Touch, x.clash y = true
      ↔ x.at_.bank = y.at_.bank ∧ ¬ (x.at_.word = y.at_.word ∧ (x.use = .load ∧ y.use = .load ∨ fed x y ∨ fed y x)))
   ∧ (∀ (a b c : List Touch) (x y : Touch), x.clash y = true → x ∈ clashing [] (a ++ [x] ++ b ++ [y] ++ c) ∧ y ∈ clashing [] (a ++ [x] ++ b ++ [y] ++ c))
   ∧ (∀ l : List Touch, l.Pairwise (fun x y => x.clash y = false) → clashing [] l = [])
   ∧ (∀ (l : List Touch) (z : Touch), z ∈ struck l ↔ z ∈ l ∧ ∃ x ∈ clashing [] l, x.at_.bank = z.at_.bank))
  ∧ (∀ (s : State) (t : Nat) (u : Bool) (g : Group) (x y : Touch), t < 480 → x.clash y = true → y.clash x = true → x.at_.bank / 256 = t →
     x.tile = t → y.tile = t → x.urgent = u → y.urgent = u → x.party = .core x.ord → y.party = .core y.ord → x.ord < y.ord →
     s.groupOf t u = some g → s.group g.id = some g → g.st = .running → (s.tctx t u).handling = false →
     struck [x, y] = [x, y] ∧
     (let z := [x, y].foldl State.cancelParty (s.raiseClashes [x, y])
     (z.tctx t u).inflight = (s.tctx t u).inflight.filter (fun e => e.ord != x.ord && e.ord != y.ord) ∧ (z.tctx t u).regs = (s.tctx t u).regs
       ∧ (z.tctx t u).cr = (s.tctx t u).cr ∧ s.sameMemory z
       ∧ z.group g.id = some { g with
         st := .freezing (g.cnt + (2 * g.diameter + 8))
         window := g.window ++ [⟨t, g.cnt, .bankCollide, x.pc, x.slot, BitVec.ofNat 64 (2 ^ 60 + 64 * x.at_.word % 2 ^ 41)⟩] }))

/-- R121, R142, R174 with R60: every load whose target passes R118 schedules its access, which samples three cycles before its register
changes, and nothing else changes; one whose target fails raises the fault. R60: the latency
of a load of the core by the space of its target, with h and c the row, column and die differences. -/
def Obligations.LoadsScheduleTheirAccess : Prop :=
  (∀ (s : State) (d b : Fin 64) (v w : Fin 32) (imm : BitVec 12) (l : Loc) (p : Word), s.fit →
     let scalar (i : Instr) (size : Nat) (sgn : Bool) : Prop :=
       (s.target [1, 2, 3, 4, 5] .load (b == 62) (s.x b) (imm.toInt * size) size = .ok (l, p) →
         exec i s = .next (s.withEffect (loadLatency s.cur.tile (ptrSpace p) l) 0#6 (.load l p size sgn (.x d) none)))
       ∧ (∀ c, s.target [1, 2, 3, 4, 5] .load (b == 62) (s.x b) (imm.toInt * size) size = .error (c, p) → exec i s = .next (s.trap c p))
     let wide (i : Instr) (r : Dst) : Prop :=
       (s.target [1, 2, 3, 5] .load (b == 62) (s.x b) (imm.toInt * 64) 64 = .ok (l, p) →
         exec i s = .next (s.withEffect (loadLatency s.cur.tile (ptrSpace p) l) 0#6 (.load l p 64 false r none)))
       ∧ (∀ c, s.target [1, 2, 3, 5] .load (b == 62) (s.x b) (imm.toInt * 64) 64 = .error (c, p) → exec i s = .next (s.trap c p))
     scalar (.ldS8 d b imm) 1 true ∧ scalar (.ldZ8 d b imm) 1 false ∧ scalar (.ldS16 d b imm) 2 true ∧ scalar (.ldZ16 d b imm) 2 false
       ∧ scalar (.ldS32 d b imm) 4 true ∧ scalar (.ldZ32 d b imm) 4 false ∧ scalar (.ld64 d b imm) 8 false ∧ wide (.vld v b imm) (.v v)
       ∧ (s.me.handling = false → wide (.wld w b imm) (.wrec w)))
  ∧ (∀ (t o d off n : Nat),
     let dist (a b : Nat) : Nat := max a b - min a b
     loadLatency t 1 (.spad t off) = 5 ∧ loadLatency t 4 (.mailbox n) = 5 ∧ loadLatency t 4 (.creg n) = 5 ∧ loadLatency t 5 (.readback o off) = 5
     ∧ loadLatency t 2 (.spad o off)
         = 12 + 2 * (dist (t % 120 / 12) (o % 120 / 12) + dist (t % 12) (o % 12)) + 24 * dist (t / 120) (o / 120)
     ∧ loadLatency t 3 (.shared d off)
         = 16 + 2 * (dist (t % 120 / 12) (off / 2 ^ 20 / 8 + 1) + dist (t % 12) (off / 2 ^ 20 % 8 + 2)) + 24 * dist (t / 120) d)

/-- R121, R142, R174 with R61: every store whose target passes R118 schedules the bytes it read at issue for the cycle in which a load of
its space would sample, and nothing else changes; one whose target fails raises the fault. -/
def Obligations.StoresScheduleTheirBytes : Prop :=
  ∀ (s : State) (x b : Fin 64) (v w : Fin 32) (imm : BitVec 12) (l : Loc) (p : Word), s.fit →
    let form (i : Instr) (spaces : List Nat) (size value : Nat) : Prop :=
      (s.target spaces .store (b == 62) (s.x b) (imm.toInt * size) size = .ok (l, p) →
        exec i s = .next (s.withEffect (loadLatency s.cur.tile (ptrSpace p) l - 3) 0#6 (.store l p (leBytes size value))))
      ∧ (∀ c, s.target spaces .store (b == 62) (s.x b) (imm.toInt * size) size = .error (c, p) → exec i s = .next (s.trap c p))
    form (.st8 x b imm) [1, 2, 3, 4, 5] 1 (s.x x).toNat ∧ form (.st16 x b imm) [1, 2, 3, 4, 5] 2 (s.x x).toNat
      ∧ form (.st32 x b imm) [1, 2, 3, 4, 5] 4 (s.x x).toNat ∧ form (.st64 x b imm) [1, 2, 3, 4, 5] 8 (s.x x).toNat
      ∧ form (.vst v b imm) [1, 2, 3, 5] 64 (s.v v).toNat
      ∧ (s.me.handling = false → form (.wst w b imm) [1, 2, 3, 5] 64 (s.w w).toNat)

/-- R123 with R60, R62: every atomic whose target passes R118 schedules its window with the operands it read at issue. -/
def Obligations.AtomicsScheduleTheirWindow : Prop :=
  ∀ (s : State) (d a b : Fin 64) (w64 : Bool) (l : Loc) (p : Word), s.fit →
    let form (i : Instr) (op : AtomOp) (w64 : Bool) : Prop :=
      let size : Nat := if w64 then 8 else 4
      (s.target [1, 2, 3] .atomic (a == 62) (s.x a) 0 size = .ok (l, p) → exec i s
        = .next (s.withEffect (loadLatency s.cur.tile (ptrSpace p) l) 0#6 (.atomic l p op w64 d (s.x b) (s.x d) none)))
      ∧ (∀ c, s.target [1, 2, 3] .atomic (a == 62) (s.x a) 0 size = .error (c, p) → exec i s = .next (s.trap c p))
    form (.aadd d a b w64) .add w64 ∧ form (.aminS d a b w64) .minS w64 ∧ form (.amaxS d a b w64) .maxS w64 ∧ form (.aand d a b w64) .and w64
      ∧ form (.aor d a b w64) .or w64 ∧ form (.axchg d a b w64) .xchg w64 ∧ form (.acas d a b w64) .cas w64 ∧ form (.afadd d a b) .fadd false

/-- R143 with R61: vldg and vsts schedule an access of every active lane at x[a]'s offset plus the lane's displacement when each passes
R118; the first lane that fails decides the fault, and one at or beyond 2^21 is SPACE_INVALID. -/
def Obligations.GathersAndScattersScheduleTheirLanes : Prop :=
  ∀ (s : State) (d b : Fin 32) (a : Fin 64) (m : Fin 8), s.fit → s.me.handling = false → ptrSpace (s.x a) = 1 →
    let lanes : List (Nat × Nat) := ((List.range 16).filter fun i => (s.vm m).getLsbD i).map fun i => (i, lane (s.v b) i)
    let at_ : List (Nat × Nat) := lanes.map fun (i, o) => (i, ptrOff (s.x a) + o)
    let passes (acc : Access) : Prop := ∀ x ∈ lanes, ∃ r, s.target [1] acc (a == 62) (s.x a) (x.2 : Int) 4 = .ok r
    (passes .load → exec (.vldg d a b m) s = .next (s.withEffect 20 0#6 (.gather s.cur.tile d at_ [] (at_.map (·.1)))))
    ∧ (passes .store → exec (.vsts d a b m) s
        = .next (s.withEffect 17 0#6 (.scatter s.cur.tile (at_.map fun (i, o) => (i, o, BitVec.ofNat 32 (lane (s.v d) i))) (at_.map (·.1)))))
    ∧ (∀ pre x post, lanes = pre ++ [x] ++ post → (∀ y ∈ pre, ∃ r, s.target [1] .load (a == 62) (s.x a) (y.2 : Int) 4 = .ok r) →
        (2 ^ 21 ≤ ptrOff (s.x a) + x.2 → ∃ p, exec (.vldg d a b m) s = .next (s.trap .spaceInvalid p))
        ∧ (∀ e, ptrOff (s.x a) + x.2 < 2 ^ 21 → s.target [1] .load (a == 62) (s.x a) (x.2 : Int) 4 = .error e →
          exec (.vldg d a b m) s = .next (s.trap e.1 e.2)))
    ∧ (∀ pre x post, lanes = pre ++ [x] ++ post → (∀ y ∈ pre, ∃ r, s.target [1] .store (a == 62) (s.x a) (y.2 : Int) 4 = .ok r) →
        (2 ^ 21 ≤ ptrOff (s.x a) + x.2 → ∃ p, exec (.vsts d a b m) s = .next (s.trap .spaceInvalid p))
        ∧ (∀ e, ptrOff (s.x a) + x.2 < 2 ^ 21 → s.target [1] .store (a == 62) (s.x a) (x.2 : Int) 4 = .error e →
          exec (.vsts d a b m) s = .next (s.trap e.1 e.2)))

/-- R116, R117, R118 and R120 for an access to the own scratchpad, outside handler mode: the offset is formed exactly; then TAG_OVERFLOW,
SPACE_INVALID, MISALIGNED, PERMISSION and STACK_OVERFLOW in that order, each named; an access that passes them reaches the offset. -/
def Obligations.OwnScratchpadChecksInOrder : Prop :=
  ∀ (s : State) (acc : Access) (sp : Bool) (ptr : Word) (disp : Int) (size : Nat), s.me.handling = false → ptr.toNat / 2 ^ 60 = 1 →
    size = 1 ∨ size = 2 ∨ size = 4 ∨ size = 8 ∨ size = 64 →
    let off : Int := ((ptr.toNat % 2 ^ 41 : Nat) : Int) + disp
    let lo : Int := if s.cur.urgent = true then 0x1E0000 else 0
    let hi : Int := if s.cur.urgent = true then 0x200000 else 0x1E0000
    let r := s.target [1, 2, 3, 4, 5] acc sp ptr disp size
    (off < 0 ∨ 2 ^ 41 ≤ off → ∃ p, r = .error (.tagOverflow, p))
    ∧ (2 ^ 21 ≤ off → off < 2 ^ 41 → ∃ p, r = .error (.spaceInvalid, p))
    ∧ (0 ≤ off → off < 2 ^ 21 → off % size ≠ 0 → ∃ p, r = .error (.misaligned, p))
    ∧ (0 ≤ off → off < 2 ^ 21 → off % size = 0 → (off < lo ∨ hi < off + size) → ∃ p, r = .error (.permission, p))
    ∧ (lo ≤ off → off + size ≤ hi → off % size = 0 → sp = true → off < s.me.floor → ∃ p, r = .error (.stackOverflow, p))
    ∧ (lo ≤ off → off + size ≤ hi → off % size = 0 → (sp = false ∨ (s.me.floor : Int) ≤ off) → ∃ n p, r = .ok (.spad s.cur.tile n, p)
        ∧ (n : Int) = off ∧ ptrSpace p = 1 ∧ (ptrOff p : Int) = off)

/-- R117 and R118 beyond the own scratchpad: spaces 0, 6 and 7 to 15 reach nothing; spaces 2 and 3 need an aligned span (R52), and in a
handler they are HANDLER_OP (R324), which comes first; an offset that the displacement takes out of 41 bits is TAG_OVERFLOW (R116); a space-2 access needs a
tile of the group and the running context's part of it, a space-3 access a region bound to the group (R277, R278; the world check then never fails, so
WORLD_VIOLATION never comes); an atomic reaches no space 4 or 5; space 4 has the mailbox, to be read in at most 4 bytes, and the control registers (R119,
R332); space 5 needs the readback right (R402). An access that passes reaches its place, and its pointer is the formed one. That an 8-byte access of space 4
at an offset of the control registers' range that is no multiple of 8 is MISALIGNED, and not SPACE_INVALID, is the model's choice (DEDUCED, log 34). -/
def Obligations.OtherSpacesAreCheckedInOrder : Prop :=
  ∀ (s : State) (acc : Access) (sp : Bool) (ptr : Word) (disp : Int) (size : Nat), 0 < size →
    let space := ptr.toNat / 2 ^ 60
    let at_ : Int := ((ptr.toNat % 2 ^ 41 : Nat) : Int) + disp
    let off := at_.toNat
    let r := s.target [1, 2, 3, 4, 5] acc sp ptr disp size
    let reaches (l : Loc) : Prop := ∃ p : Word, r = .ok (l, p) ∧ p.toNat / 2 ^ 41 = ptr.toNat / 2 ^ 41 ∧ p.toNat % 2 ^ 41 = off
    (space = 2 ∨ space = 3 → s.me.handling = true → ∃ p, r = .error (.handlerOp, p))
    ∧ (¬ ((space = 2 ∨ space = 3) ∧ s.me.handling = true) → at_ < 0 ∨ 2 ^ 41 ≤ at_ → ∃ p, r = .error (.tagOverflow, p))
    ∧ (∀ p, r ≠ .error (.worldViolation, p))
    ∧ (0 ≤ at_ → at_ < 2 ^ 41 →
    (space = 0 ∨ 6 ≤ space → ∃ p, r = .error (.spaceInvalid, p))
    ∧ (space = 2 → s.me.handling = false → 480 ≤ ptr.toNat / 2 ^ 41 % 2 ^ 9 ∨ ptr.toNat / 2 ^ 50 % 2 ^ 10 ≠ s.rank → ∃ p, r = .error (.spaceInvalid, p))
    ∧ (let tile := ptr.toNat / 2 ^ 41 % 2 ^ 9
      let inGroup : Prop := tile = s.cur.tile ∨ ∃ g, s.groupOf s.cur.tile s.cur.urgent = some g ∧ g.has tile = true
      let inPart : Prop := if s.cur.urgent = true then 0x1E0000 ≤ off ∧ off + size ≤ 0x200000 else off + size ≤ 0x1E0000
      space = 2 → s.me.handling = false → tile < 480 → ptr.toNat / 2 ^ 50 % 2 ^ 10 = s.rank →
      (2 ^ 21 ≤ off → ∃ p, r = .error (.spaceInvalid, p))
      ∧ (off < 2 ^ 21 → off % size ≠ 0 → ∃ p, r = .error (.misaligned, p))
      ∧ (off < 2 ^ 21 → off % size = 0 → s.me.flow.aligned = false → ∃ p, r = .error (.spanDesync, p))
      ∧ (off < 2 ^ 21 → off % size = 0 → s.me.flow.aligned = true → ¬ (inPart ∧ inGroup) → ∃ p, r = .error (.permission, p))
      ∧ (off < 2 ^ 21 → off % size = 0 → s.me.flow.aligned = true → inPart → inGroup → reaches (.spad tile off)))
    ∧ (let bound : Prop := s.me.group ≠ none ∧ vget s.regions (off / 2 ^ 26 * 16 + off % 2 ^ 26 / 2 ^ 22) none = s.me.group
      space = 3 → s.me.handling = false →
      (2 ^ 28 ≤ off → ∃ p, r = .error (.spaceInvalid, p))
      ∧ (off < 2 ^ 28 → off % size ≠ 0 → ∃ p, r = .error (.misaligned, p))
      ∧ (off < 2 ^ 28 → off % size = 0 → s.me.flow.aligned = false → ∃ p, r = .error (.spanDesync, p))
      ∧ (off < 2 ^ 28 → off % size = 0 → s.me.flow.aligned = true → ¬ bound → ∃ p, r = .error (.permission, p))
      ∧ (off < 2 ^ 28 → off % size = 0 → s.me.flow.aligned = true → bound → reaches (.shared (off / 2 ^ 26) (off % 2 ^ 26))))
    ∧ (space = 4 ∨ space = 5 → acc = .atomic → ∃ p, r = .error (.spaceInvalid, p))
    ∧ (space = 4 → acc ≠ .atomic →
      (0x40 ≤ off → off < 0x8000 ∨ 2 ^ 16 ≤ off → ∃ p, r = .error (.spaceInvalid, p))
      ∧ (off < 0x40 → 4 < size → ∃ p, r = .error (.spaceInvalid, p))
      ∧ (off < 0x40 → size ≤ 4 → off % size ≠ 0 → ∃ p, r = .error (.misaligned, p))
      ∧ (off < 0x40 → size ≤ 4 → off % size = 0 → acc = .store → ∃ p, r = .error (.permission, p))
      ∧ (off < 0x40 → size ≤ 4 → off % size = 0 → acc = .load → reaches (.mailbox off))
      ∧ (0x8000 ≤ off → off < 2 ^ 16 → size ≠ 8 → ∃ p, r = .error (.spaceInvalid, p))
      ∧ (0x8000 ≤ off → off < 2 ^ 16 → size = 8 → off % 8 ≠ 0 → ∃ p, r = .error (.misaligned, p))
      ∧ (0x8000 ≤ off → off < 2 ^ 16 → size = 8 → off % 8 = 0 →
        let n := (off - 0x8000) / 8
        let listed := [0x000, 0x001, 0x002, 0x008, 0x009, 0x00A, 0x010, 0x011, 0x012, 0x013, 0x014, 0x015, 0x018, 0x020, 0x021, 0x022]
        let system := [0x020, 0x021, 0x022]
        let readOnly := [0x008, 0x009, 0x00A, 0x011, 0x012, 0x013, 0x014]
        (n ∉ listed → ∃ p, r = .error (.cregInvalid, p)) ∧ (n ∈ system → s.readback = false → ∃ p, r = .error (.privileged, p))
        ∧ (n ∈ readOnly → acc = .store → ∃ p, r = .error (.cregReadonly, p))
        ∧ (n ∈ listed → (n ∈ system → s.readback = true) → (n ∈ readOnly → acc = .load) → reaches (.creg n))))
    ∧ (space = 5 → acc ≠ .atomic → 0x400000 ≤ off → ∃ p, r = .error (.spaceInvalid, p))
    ∧ (space = 5 → acc ≠ .atomic → off < 0x400000 → off % size ≠ 0 → ∃ p, r = .error (.misaligned, p))
    ∧ (space = 5 → acc ≠ .atomic → off < 0x400000 → off % size = 0 → s.readback = false → ∃ p, r = .error (.privileged, p))
    ∧ (space = 5 → acc ≠ .atomic → off < 0x400000 → off % size = 0 → s.readback = true →
        (acc = .store ∨ s.stoppedHere (s.ctxOf s.cur.tile s.cur.urgent) (ptr.toNat / 2 ^ 41 % 2 ^ 9) = false) → ∃ p, r = .error (.permission, p))
    ∧ (space = 5 → acc = .load → off < 0x400000 → off % size = 0 → s.readback = true →
        s.stoppedHere (s.ctxOf s.cur.tile s.cur.urgent) (ptr.toNat / 2 ^ 41 % 2 ^ 9) = true → reaches (.readback (ptr.toNat / 2 ^ 41 % 2 ^ 9) off)))

/-- R61, R121, R3: a store performs in the cycle it is due, and then changes exactly the bytes it stores at the location of its issue; in
no other cycle does it change anything. Every register stays. R119: a store to a control register becomes the write of a wrc one cycle later. R143: lane i
of a vsts performs in its own cycle, i cycles after the first one can, and changes exactly its four bytes. -/
def Obligations.StoresChangeExactlyTheirBytes : Prop :=
  ∀ (s : State) (t : Nat) (u : Bool) (now : Nat) (e : Effect) (p : Word) (bs : List Byte),
    (∀ l, e.kind = .store l p bs → e.due ≠ now → s.performWrite t u now e = s)
    ∧ (∀ o off, e.kind = .store (.spad o off) p bs → e.due = now → o < 480 → (s.tile o).spad.wf = true →
        let z := s.performWrite t u now e
        (∀ i a, (z.tile i).spad.get a = if i = o ∧ off ≤ a ∧ a < off + bs.length then bs.getD (a - off) 0#8 else (s.tile i).spad.get a)
          ∧ z.hbm = s.hbm ∧ z.shared = s.shared ∧ (∀ i, (z.tile i).imem = (s.tile i).imem) ∧ s.sameRegisters z ∧ (z.tile o).spad.wf = true)
    ∧ (∀ d off, e.kind = .store (.shared d off) p bs → e.due = now → d < 4 → (vget s.shared d []).wf = true →
        let z := s.performWrite t u now e
        (∀ i a, (vget z.shared i []).get a
            = if i = d ∧ off ≤ a ∧ a < off + bs.length then bs.getD (a - off) 0#8 else (vget s.shared i []).get a)
          ∧ z.hbm = s.hbm ∧ (∀ i, (z.tile i).spad = (s.tile i).spad ∧ (z.tile i).imem = (s.tile i).imem) ∧ s.sameRegisters z
          ∧ (vget z.shared d []).wf = true)
    ∧ (∀ c, e.kind = .store (.creg c) p bs → e.due = now → s.performWrite t u now e = s.onCtx t u fun x =>
        { x with acts := x.acts ++ [⟨now + 1, e.ord, e.pc, e.slot, .wrc c (BitVec.ofNat 64 (leNat bs))⟩] })
    ∧ (∀ (o : Nat) (ls : List (Nat × Nat × BitVec 32)) (all : List Nat), e.kind = .scatter o ls all →
      ((∀ x ∈ ls, e.due + x.1 ≠ now + 15) → s.performWrite t u now e = s)
      ∧ (∀ (before after : List (Nat × Nat × BitVec 32)) (i off : Nat) (v : BitVec 32), ls = before ++ [(i, off, v)] ++ after →
        (∀ x ∈ before ++ after, x.1 ≠ i) → e.due + i = now + 15 → o < 480 → (s.tile o).spad.wf = true →
        let z := s.performWrite t u now e
        (∀ j a, (z.tile j).spad.get a = if j = o ∧ off ≤ a ∧ a < off + 4 then (leBytes 4 v.toNat).getD (a - off) 0#8 else (s.tile j).spad.get a)
          ∧ z.hbm = s.hbm ∧ z.shared = s.shared ∧ (∀ j, (z.tile j).imem = (s.tile j).imem) ∧ s.sameRegisters z ∧ (z.tile o).spad.wf = true))

/-- R121, R119, R142, R174, R3 and R61: a load samples in the third cycle before it is due; its register then takes the bytes at its location,
little-endian, sign- or zero-extended as its form says, and a vector register or a walk record the 64 bytes of its word: from scratchpad, from shared
scratchpad, the mailbox (space 4) and the readback image (space 5); a load of a control register takes what rdc reads in that cycle. R400: where a word it
reads carries a check value that does not fit, it samples nothing and the kernel aborts with INTEGRITY. Sampling changes no memory and no register.
R143: lane i of a vldg samples its four bytes in its own cycle, i cycles after the first one can, and the vector register takes every lane sampled. -/
def Obligations.LoadsReturnTheBytesOfTheirLocation : Prop :=
  (∀ (s : State) (image : State → Nat → Bool → Nat → Nat → Nat → Nat) (t : Nat) (u : Bool) (now : Nat) (e : Effect) (l : Loc) (n : Nat) (p : Word)
     (sgn : Bool) (d : Dst), e.kind = .load l p n sgn d none → e.noReg = false → (∀ c, l ≠ .creg c) →
     let z := s.sample image t u now e
     let value : Nat := match l with
       | .spad o off => leNat ((s.tile o).spad.read off n)
       | .shared o off => leNat ((vget s.shared o []).read off n)
       | .mailbox o => leNat ((((s.tctx t u).regs.mb.toList.flatMap fun b => leBytes 4 b.toNat).drop o).take n)
       | .readback o off => image s (s.ctxOf t u) u o off n
       | .creg _ => 0
     (e.due ≠ now + 3 → z = (e, s))
     ∧ (e.due = now + 3 → s.badLoc (s.imagedSpad t u l) n = true → z = (e, s.spoilCore t u))
     ∧ (e.due = now + 3 → s.badLoc (s.imagedSpad t u l) n = false → (n = 1 ∨ n = 2 ∨ n = 4 ∨ n = 8) → (∀ o, l = .mailbox o → o + n ≤ 64) → value < 2 ^ (8 * n) →
         z.1.due = e.due ∧ s.sameMemory z.2 ∧ s.sameRegisters z.2
         ∧ ∀ r, d = .x r → ∃ w m, z.1.write = some (.x r, w, m)
           ∧ w.setWidth 64 = if sgn = true then (BitVec.ofNat (8 * n) value).signExtend 64 else BitVec.ofNat 64 value)
     ∧ (e.due = now + 3 → s.badLoc (s.imagedSpad t u l) n = false → n = 64 → sgn = false → (∀ o, l ≠ .mailbox o) → z.1.due = e.due ∧ s.sameMemory z.2 ∧ s.sameRegisters z.2
         ∧ z.1.write = some (d, BitVec.ofNat 512 value, allBits)))
  ∧ (∀ (s : State) (t : Nat) (u : Bool) (before after : List Effect) (e : Effect) (c : Nat) (p : Word) (r : Fin 64), t < 480 →
     (s.tctx t u).inflight = before ++ [e] ++ after → e.kind = .load (.creg c) p 8 false (.x r) none → e.noReg = false → e.due = s.now t u + 3 →
     let z := s.sampleCregs t u (c == 0)
     ∃ f, f ∈ (z.tctx t u).inflight ∧ f.due = e.due ∧ f.ord = e.ord ∧ f.write = some (.x r, (s.readCreg t u c).setWidth 512, allBits)
       ∧ (z.tctx t u).regs = (s.tctx t u).regs ∧ (z.tctx t u).cr = (s.tctx t u).cr ∧ s.sameMemory z)
  ∧ (∀ (s : State) (image : State → Nat → Bool → Nat → Nat → Nat → Nat) (t : Nat) (u : Bool) (now : Nat) (e : Effect) (o : Nat) (d : Fin 32)
     (ls : List (Nat × Nat)) (got : List (Nat × BitVec 32)) (all : List Nat), e.kind = .gather o d ls got all →
     let z := s.sample image t u now e
     ((∀ x ∈ ls, e.due + x.1 ≠ now + 18) → z = (e, s))
     ∧ (∀ (before after : List (Nat × Nat)) (i off : Nat), ls = before ++ [(i, off)] ++ after → (∀ x ∈ before ++ after, x.1 ≠ i) → e.due + i = now + 18 →
       (s.badLoc (.spad o off) 4 = true → z = (e, s.spoilCore t u))
       ∧ (s.badLoc (.spad o off) 4 = false →
         z.1.kind = .gather o d ls (got ++ [(i, BitVec.ofNat 32 (leNat ((s.tile o).spad.read off 4)))]) all ∧ z.1.due = e.due
         ∧ s.sameMemory z.2 ∧ s.sameRegisters z.2))
     ∧ (e.noReg = false → (got.map (·.1)).Nodup → (∀ x ∈ got, x.1 < 16) → all.Nodup → (∀ i ∈ all, i < 16) → ∃ v m, e.write = some (.v d, v, m)
       ∧ (∀ x ∈ got, lane v x.1 = x.2.toNat) ∧ ∀ k, k < 512 → (m.getLsbD k = true ↔ k / 32 ∈ all)))

/-- R123, R62: an atomic reads the bytes of its target at the start of its window, three cycles before it lands, in scratchpad or shared scratchpad; what
each leaves there one cycle before it lands, in its tile's or in shared scratchpad, and what it returns to x[d]; afadd's flags join FPSTAT (R48). -/
def Obligations.AtomicsReadModifyWrite : Prop :=
  (∀ (s : State) (image : State → Nat → Bool → Nat → Nat → Nat → Nat) (t : Nat) (u : Bool) (now : Nat) (e : Effect) (l : Loc) (p : Word) (op : AtomOp)
     (w64 : Bool) (d : Fin 64) (x c : Word), e.kind = .atomic l p op w64 d x c none →
     let size : Nat := if w64 = true then 8 else 4
     let z := s.sample image t u now e
     (e.due ≠ now + 3 → z = (e, s))
     ∧ (e.due = now + 3 → s.badLoc l size = true → z = (e, s.spoilCore t u))
     ∧ (e.due = now + 3 → s.badLoc l size = false → z.1.due = e.due ∧ z.1.ord = e.ord ∧ s.sameMemory z.2 ∧ s.sameRegisters z.2
       ∧ (∀ o off, l = .spad o off → z.1.kind = .atomic l p op w64 d x c (some (BitVec.ofNat 64 (leNat ((s.tile o).spad.read off size)))))
       ∧ (∀ o off, l = .shared o off → z.1.kind = .atomic l p op w64 d x c (some (BitVec.ofNat 64 (leNat ((vget s.shared o []).read off size)))))))
  ∧ ∀ (s : State) (t : Nat) (u : Bool) (now : Nat) (e : Effect) (l : Loc) (p : Word) (op : AtomOp) (w64 : Bool) (d : Fin 64)
    (x c old : Word), e.kind = .atomic l p op w64 d x c (some old) → e.due = now + 1 → e.noReg = false → t < 480 →
    let w : Nat := if w64 = true then 64 else 32
    let old' : Nat := old.toNat
    let opnd : Nat := x.toNat % 2 ^ w
    let cmp : Nat := c.toNat % 2 ^ w
    let z := s.performWrite t u now e
    (old' < 2 ^ w → ∃ new : Nat,
      (∀ o off, l = .spad o off → o < 480 → (s.tile o).spad.wf = true →
        (∀ i a, (z.tile i).spad.get a = if i = o ∧ off ≤ a ∧ a < off + w / 8 then (leBytes (w / 8) new).getD (a - off) 0#8 else (s.tile i).spad.get a)
        ∧ z.shared = s.shared ∧ z.hbm = s.hbm)
      ∧ (∀ o off, l = .shared o off → o < 4 → (vget s.shared o []).wf = true →
        (∀ i a, (vget z.shared i []).get a
          = if i = o ∧ off ≤ a ∧ a < off + w / 8 then (leBytes (w / 8) new).getD (a - off) 0#8 else (vget s.shared i []).get a)
        ∧ (∀ i, (z.tile i).spad = (s.tile i).spad) ∧ z.hbm = s.hbm)
      ∧ (z.tctx t u).cr.fpstat = (s.tctx t u).cr.fpstat ||| (if op = .fadd then (fp32.add old' opnd).2 else 0#6) ∧ (z.tctx t u).regs = (s.tctx t u).regs
      ∧ (op = .add → new = (old' + opnd) % 2 ^ w)
      ∧ (op = .minS → new = if sx w old' ≤ sx w opnd then old' else opnd)
      ∧ (op = .maxS → new = if sx w opnd ≤ sx w old' then old' else opnd)
      ∧ (op = .and → new = old' &&& opnd) ∧ (op = .or → new = old' ||| opnd) ∧ (op = .xchg → new = opnd)
      ∧ (op = .cas → new = if old' = cmp then opnd else old')
      ∧ (op = .fadd → new = (fp32.add old' opnd).1))
    ∧ (∃ v m, e.write = some (.x d, v, m) ∧ v.setWidth 64 = if op = .minS ∨ op = .maxS then BitVec.ofInt 64 (sx w old') else old)

/-- R127, R128, R129 with R125, R126: every elementwise vector instruction completes: its lanes, with the flags of its active lanes, are in
flight for issue + L under the write mask read at issue, and nothing else changes. -/
def Obligations.ElementwiseVectorsComplete : Prop :=
  ∀ (s : State) (d a b : Fin 32) (m : Fin 8) (t : LaneT), s.fit →
    let land (l : Nat) (r : Wide × Flags) : Host.Outcome State Fault Refusal := .next (s.withEffect l r.2 (.reg (.v d) r.1 (laneBits (s.vm m))))
    let each (f : Nat → Nat → Nat → Nat × Flags) : Wide × Flags := Machine.elementwise t (s.vm m) f (s.v a) (s.v b) (s.v d)
    let unary (f : Nat → Nat × Flags) : Wide × Flags := Machine.elementwise t (s.vm m) (fun x _ _ => f x) (s.v a) (s.v a) (s.v d)
    exec (.vadd d a b m t) s = land 2 (each fun x y _ => elemAdd t x y)
    ∧ exec (.vsub d a b m t) s = land 2 (each fun x y _ => elemSub t x y)
    ∧ exec (.vmul d a b m t) s = land 2 (each fun x y _ => elemMul t x y)
    ∧ exec (.vfma d a b m t) s = land 4 (each fun x y z => elemFma t x y z)
    ∧ exec (.vmin d a b m t) s = land 2 (each fun x y _ => elemPick true t x y)
    ∧ exec (.vmax d a b m t) s = land 2 (each fun x y _ => elemPick false t x y)
    ∧ exec (.vabs d a m t) s = land 2 (unary (elemAbs t))
    ∧ exec (.vneg d a m t) s = land 2 (unary (elemNeg t))
    ∧ exec (.vshl d a b m t) s = land 2 (each fun x y _ => (elemShl t x y, 0#6))
    ∧ exec (.vshr d a b m t) s = land 2 (each fun x y _ => (elemShr t x y, 0#6))
    ∧ exec (.vsra d a b m t) s = land 2 (each fun x y _ => (elemSra t x y, 0#6))
    ∧ exec (.vand d a b m) s = land 2 (s.v a &&& s.v b, 0#6)
    ∧ exec (.vor d a b m) s = land 2 (s.v a ||| s.v b, 0#6)
    ∧ exec (.vxor d a b m) s = land 2 (s.v a ^^^ s.v b, 0#6)
    ∧ exec (.vnot d a m) s = land 2 (~~~s.v a, 0#6)

/-- R124, R125: a lane the mask selects holds the operation's results on its elements in order; a flag is raised exactly when an element of such a
lane raises it; and the mask's bits of a register are those of its lanes. R25, R127, R129: the integer elements of w bits wrap, the .s types are
signed, shift amounts are the low bits, and no flag is set. R18, R29, R30: a sum, difference, product or fused product of floating-point elements is the
exact result of the values, rounded once (the rounding itself is stated with R32); an exact sum of zero is −0 only where both terms are; a NaN operand gives
the canonical NaN, and NV where it signals; ∞ − ∞ and 0 × ∞ give it with NV. Whether 0 × ∞ beside a quiet NaN sets NV is left open (log 12). -/
def Obligations.LanesAreComputedApart : Prop :=
  ((∀ (t : LaneT) (mask : BitVec 16) (f : Nat → Nat → Nat → Nat × Flags) (a b d : Wide), (∀ x y z, (f x y z).1 < 2 ^ laneWidth t) →
     let r := Machine.elementwise t mask f a b d
     (∀ i, i < 16 → mask.getLsbD i = true → ∀ j, j < (laneElems t 0).length →
       (laneElems t (lane r.1 i)).getD j 0
         = (f ((laneElems t (lane a i)).getD j 0) ((laneElems t (lane b i)).getD j 0) ((laneElems t (lane d i)).getD j 0)).1)
     ∧ (∀ k, r.2.getLsbD k = true ↔ ∃ i j, i < 16 ∧ mask.getLsbD i = true ∧ j < (laneElems t 0).length ∧
         (f ((laneElems t (lane a i)).getD j 0) ((laneElems t (lane b i)).getD j 0) ((laneElems t (lane d i)).getD j 0)).2.getLsbD k = true)
     ∧ (t = .bf16 → ∀ i, i < 16 → lane r.1 i % 2 ^ 16 = 0))
   ∧ (∀ (mask : BitVec 16) (k : Nat), k < 512 → (laneBits mask).getLsbD k = mask.getLsbD (k / 32)))
  ∧ (∀ (t : LaneT), laneFmt t = none → ∀ (x y z : BitVec (laneWidth t)),
     elemAdd t x.toNat y.toNat = ((x + y).toNat, 0#6) ∧ elemSub t x.toNat y.toNat = ((x - y).toNat, 0#6)
     ∧ elemMul t x.toNat y.toNat = ((x * y).toNat, 0#6) ∧ elemFma t x.toNat y.toNat z.toNat = ((x * y + z).toNat, 0#6)
     ∧ elemPick true t x.toNat y.toNat
         = ((if (if t = .z32 then x.toNat ≤ y.toNat else x.toInt ≤ y.toInt) then x else y).toNat, 0#6)
     ∧ elemPick false t x.toNat y.toNat
         = ((if (if t = .z32 then y.toNat ≤ x.toNat else y.toInt ≤ x.toInt) then x else y).toNat, 0#6)
     ∧ (t ≠ .z32 → elemAbs t x.toNat = ((if x.toInt < 0 then -x else x).toNat, 0#6)) ∧ elemNeg t x.toNat = ((-x).toNat, 0#6)
     ∧ elemShl t x.toNat y.toNat = (x <<< (y.toNat % laneWidth t)).toNat
     ∧ elemShr t x.toNat y.toNat = (x >>> (y.toNat % laneWidth t)).toNat
     ∧ elemSra t x.toNat y.toNat = (x.sshiftRight (y.toNat % laneWidth t)).toNat)
  ∧ (∀ (t : LaneT) (f : FFmt), laneFmt t = some f → ∀ x y z : Nat,
     let units (n : Bool) (m : Nat) (e q : Int) : Int := if n = true then -((m * 2 ^ (e - q).toNat : Nat) : Int) else ((m * 2 ^ (e - q).toNat : Nat) : Int)
     let once (i : Int) (q : Int) : Nat × Flags := f.round .rne false 0 (.num (decide (i < 0)) i.natAbs q)
     let inf (n : Bool) : Nat := f.signed n (f.maxCode + 1)
     let sig (l : List Nat) : Prop := ∃ c ∈ l, (f.val c).isSnan = true
     ((f.val x).isNan = true ∨ (f.val y).isNan = true → ∀ r ∈ [elemAdd t x y, elemSub t x y, elemMul t x y],
       r.1 = f.canon ∧ (sig [x, y] → r.2 = flNV) ∧ (¬ sig [x, y] → r.2 = 0#6))
     ∧ ((f.val x).isNan = true ∨ (f.val y).isNan = true ∨ (f.val z).isNan = true →
       (elemFma t x y z).1 = f.canon ∧ (sig [x, y, z] → (elemFma t x y z).2 = flNV))
     ∧ (∀ n m e n' m' e', f.val x = .num n m e → f.val y = .num n' m' e' →
       (let q := min e e'
        let sum (k : Bool) : Int := units n m e q + units k m' e' q
        (sum n' ≠ 0 → elemAdd t x y = once (sum n') q) ∧ (sum n' = 0 → elemAdd t x y = (f.signed (n && n') 0, 0#6))
        ∧ (sum (!n') ≠ 0 → elemSub t x y = once (sum (!n')) q) ∧ (sum (!n') = 0 → elemSub t x y = (f.signed (n && !n') 0, 0#6)))
       ∧ (m * m' ≠ 0 → elemMul t x y = f.round .rne false 0 (.num (n != n') (m * m') (e + e')))
       ∧ (m * m' = 0 → elemMul t x y = (f.signed (n != n') 0, 0#6))
       ∧ (∀ k j d, f.val z = .num k j d →
         let q := min (e + e') d
         let sum : Int := units (n != n') (m * m') (e + e') q + units k j d q
         (sum ≠ 0 → elemFma t x y z = once sum q) ∧ (sum = 0 → elemFma t x y z = (f.signed ((n != n') && k) 0, 0#6)))
       ∧ (∀ k, f.val z = .inf k → elemFma t x y z = (inf k, 0#6)))
     ∧ (∀ n, f.val x = .inf n →
       (∀ k j d, f.val y = .num k j d → elemAdd t x y = (inf n, 0#6) ∧ elemAdd t y x = (inf n, 0#6)
         ∧ elemSub t x y = (inf n, 0#6) ∧ elemSub t y x = (inf (!n), 0#6)
         ∧ (j ≠ 0 → elemMul t x y = (inf (n != k), 0#6) ∧ elemMul t y x = (inf (n != k), 0#6))
         ∧ (j = 0 → elemMul t x y = (f.canon, flNV) ∧ elemMul t y x = (f.canon, flNV)))
       ∧ (∀ k, f.val y = .inf k → elemAdd t x y = (if n = k then (inf n, 0#6) else (f.canon, flNV))
         ∧ elemSub t x y = (if n = k then (f.canon, flNV) else (inf n, 0#6)) ∧ elemMul t x y = (inf (n != k), 0#6)))
     ∧ (∀ n, (f.val x).mul (f.val y) = .inf n → (f.val z).isNan = false →
       elemFma t x y z = if f.val z = .inf (!n) then (f.canon, flNV) else (inf n, 0#6))
     ∧ ((f.val x).isNan = false → (f.val y).isNan = false → (f.val z).isNan = false → (f.val x).mul (f.val y) = .nan true →
       elemFma t x y z = (f.canon, flNV)))

/-- R130: vcmp writes a whole lane mask at issue + 2; a bit is set exactly when every element of its lane meets the condition. For integers
the condition is the order of the values; for floating point that of the numbers (−0 equal to +0, infinities beyond them), and no NaN meets lt, le or eq. -/
def Obligations.CompareWritesALaneMask : Prop :=
  (∀ (s : State) (v : Fin 8) (a b : Fin 32) (c : VCond) (t : LaneT), s.fit →
    let r := compareLanes t c (s.v a) (s.v b)
    exec (.vcmp v a b c t) s = .next (s.withFlagged 2 r.2 (.vm v) (r.1.setWidth 512) allBits)
    ∧ ∀ i, i < 16 → (r.1.getLsbD i = true ↔ ∀ j, j < (laneElems t 0).length →
        (elemCompare t c ((laneElems t (lane (s.v a) i)).getD j 0) ((laneElems t (lane (s.v b) i)).getD j 0)).1 = true))
  ∧ (∀ (t : LaneT), laneFmt t = none → ∀ (x y : BitVec (laneWidth t)),
      let less := if t = .z32 then x.toNat < y.toNat else x.toInt < y.toInt
      elemCompare t .eq x.toNat y.toNat = (decide (x = y), 0#6) ∧ elemCompare t .ne x.toNat y.toNat = (decide (x ≠ y), 0#6)
      ∧ elemCompare t .lt x.toNat y.toNat = (decide less, 0#6) ∧ elemCompare t .le x.toNat y.toNat = (decide (less ∨ x = y), 0#6))
  ∧ (∀ (t : LaneT) (f : FFmt) (x y : Nat), laneFmt t = some f → (f.val x).isNan = true ∨ (f.val y).isNan = true →
      (elemCompare t .eq x y).1 = false ∧ (elemCompare t .ne x y).1 = true ∧ elemCompare t .lt x y = (false, flNV)
      ∧ elemCompare t .le x y = (false, flNV)
      ∧ (elemCompare t .eq x y).2 = (if (f.val x).isSnan = true ∨ (f.val y).isSnan = true then flNV else 0#6)
      ∧ (elemCompare t .ne x y).2 = (if (f.val x).isSnan = true ∨ (f.val y).isSnan = true then flNV else 0#6))
  ∧ (∀ (t : LaneT) (f : FFmt) (x y : Nat), laneFmt t = some f → (f.val x).isNan = false → (f.val y).isNan = false → ∃ less same : Bool,
      elemCompare t .lt x y = (less, 0#6) ∧ elemCompare t .eq x y = (same, 0#6) ∧ elemCompare t .ne x y = (!same, 0#6)
      ∧ elemCompare t .le x y = (less || same, 0#6)
      ∧ (∀ n m e n' m' e', f.val x = .num n m e → f.val y = .num n' m' e' →
        ∀ q : Int, q ≤ e → q ≤ e' →
          let u : Int := (if n = true then -1 else 1) * ((m * 2 ^ (e - q).toNat : Nat) : Int)
          let v : Int := (if n' = true then -1 else 1) * ((m' * 2 ^ (e' - q).toNat : Nat) : Int)
          less = decide (u < v) ∧ same = decide (u = v))
      ∧ (∀ n, f.val x = .inf n → (∀ k, f.val y = .inf k → less = (n && !k) ∧ same = (n == k))
        ∧ ∀ k m e, f.val y = .num k m e → less = n ∧ same = false)
      ∧ (∀ k n m e, f.val x = .num n m e → f.val y = .inf k → less = !k ∧ same = false))

/-- R131, R132, R133, R134, R135: the moves between lanes, each completing with its result in flight for issue + 2. -/
def Obligations.LaneMovesComplete : Prop :=
  ∀ (s : State) (d a b : Fin 32) (m : Fin 8) (r x : Fin 64) (n : Fin 64) (p : ShufPat) (t : LaneT), s.fit →
    let all : Nat := if t = .bf16 then 16 else 512 / laneWidth t
    let ea (j : Nat) : Nat := (regElems t (s.v a)).getD j 0
    let eb (j : Nat) : Nat := (regElems t (s.v b)).getD j 0
    (∃ v : Wide, exec (.vsel d a b m) s = .next (s.withEffect 2 0#6 (.reg (.v d) v allBits))
      ∧ ∀ i, i < 16 → lane v i = if (s.vm m).getLsbD i = true then lane (s.v a) i else lane (s.v b) i)
    ∧ (∃ v : Wide, exec (.vbcast d x m t) s = .next (s.withEffect 2 0#6 (.reg (.v d) v (laneBits (s.vm m))))
      ∧ ∀ j, j < all → (regElems t v).getD j 0 = (s.x x).toNat % 2 ^ laneWidth t)
    ∧ exec (.vext r a n t) s = .next (s.withX 2 r
        (if t = .f32 ∨ t = .bf16 ∨ t = .z32 then BitVec.ofNat 64 (ea n) else (BitVec.ofNat (laneWidth t) (ea n)).signExtend 64))
    ∧ (∃ v : Wide, exec (.vperm d a b m) s = .next (s.withEffect 2 0#6 (.reg (.v d) v (laneBits (s.vm m))))
      ∧ ∀ i, i < 16 → lane v i = lane (s.v a) (lane (s.v b) i % 16))
    ∧ (t ≠ .bf16 → t ≠ .z32 → ∃ v : Wide, exec (.vshuf d a b p t) s = .next (s.withEffect 2 0#6 (.reg (.v d) v allBits))
      ∧ ∀ j, j < all / 2 →
        let out (j : Nat) : Nat := (regElems t v).getD j 0
        match p with
        | .lo => out (2 * j) = ea j ∧ out (2 * j + 1) = eb j
        | .hi => out (2 * j) = ea (all / 2 + j) ∧ out (2 * j + 1) = eb (all / 2 + j)
        | .ev => out j = ea (2 * j) ∧ out (all / 2 + j) = eb (2 * j)
        | .od => out j = ea (2 * j + 1) ∧ out (all / 2 + j) = eb (2 * j + 1))

/-- R31, R136, R137, R139, R141: reductions, the scan, conversions and vrng complete. A sum of 32-bit integers does not wrap, and a floating-point sum is the exact
sum of its numbers rounded once (R29): the canonical NaN with a NaN or with both infinities, an infinity with one, −0 only of terms all negative; lane i of the
scan holds the sum of the participants up to it. That a sum with a NaN sets NV only for a signalling NaN, also beside infinities of both signs, is the model's
choice (DEDUCED, log 7). vred.max and vred.min give the largest and the smallest participant, signed or unsigned as the type is and in R31's order of numbers,
NaNs aside unless there is nothing else, and the end of the type's range, or an infinity, where none participates. One NaN makes vamax the canonical NaN;
otherwise it is the largest magnitude, one of the participants'. A
conversion changes each lane of its mask alone, by R33 and R34 between its types (equal-width integers of other signedness are left open, log 33; a negative
number to a wider unsigned type is log 32); a .sr conversion pops one entry of the random-bit queue and no other does, and vrng's lanes are the counter
generator's words. -/
def Obligations.ReductionsConversionsAndRandomLanesComplete : Prop :=
  ∀ (s : State) (x : Fin 64) (d a : Fin 32) (p m : Fin 8) (t : LaneT) (u y : CvtT) (rm : Rm) (q : Bool), s.fit →
    let es := participants t (s.vm p) (s.v a)
    let land (r : Int × Flags) : Host.Outcome State Fault Refusal :=
      .next (s.withFlagged 4 r.2 (.x x) ((BitVec.ofInt 64 r.1).setWidth 512) allBits)
    let conv := convertLanes u y rm q (s.vm m) (if rm = .sr then rbqEntry s.me.cr.rbseed s.me.cr.rbidx.toNat else []) (s.v a)
    exec (.vredAdd x a p t) s = land (reduceAdd t es) ∧ exec (.vredMax x a p t) s = land (reducePick false t es)
    ∧ exec (.vredMin x a p t) s = land (reducePick true t es)
    ∧ (∀ least : Bool,
      let r := reducePick least t es
      let w := laneWidth t
      let val (e : Nat) : Int := if t = .z32 then (e : Int) else (BitVec.ofNat w e).toInt
      (laneFmt t = none → r.2 = 0#6
        ∧ (es = [] → r.1 = if least = true then (if t = .z32 then (2 : Int) ^ 32 - 1 else (2 : Int) ^ (w - 1) - 1) else (if t = .z32 then 0 else -((2 : Int) ^ (w - 1))))
        ∧ (es ≠ [] → (∃ e ∈ es, r.1 = val e) ∧ ∀ e ∈ es, if least = true then r.1 ≤ val e else val e ≤ r.1))
      ∧ (∀ f : FFmt, laneFmt t = some f → r.2 = (if ∃ e ∈ es, (f.val e).isSnan = true then flNV else 0#6)
        ∧ (es = [] → r.1 = (packLane t [f.signed (!least) (f.maxCode + 1)] : Nat))
        ∧ (es ≠ [] → (∀ e ∈ es, (f.val e).isNan = true) → r.1 = (packLane t [f.canon] : Nat))
        ∧ ((∃ e ∈ es, (f.val e).isNan = false) → ∃ c ∈ es, (f.val c).isNan = false ∧ r.1 = (packLane t [c] : Nat)
          ∧ ∀ e ∈ es, (f.val e).isNan = false → (f.val c).cmp (f.val e) ≠ if least = true then .gt else .lt)))
    ∧ (∃ r : Int × Flags, exec (.vamax x a p t) s = land r ∧ (es = [] → r = (0, 0#6)) ∧ ∀ f : FFmt, laneFmt t = some f →
        ((∃ e ∈ es, (f.val e).isNan = true) → r.1 = (packLane t [f.canon] : Nat))
        ∧ ((∀ e ∈ es, (f.val e).isNan = false) → ∃ c : Nat, r.1 = (packLane t [c] : Nat) ∧ (∀ e ∈ es, e % 2 ^ (f.ebits + f.mbits) ≤ c)
            ∧ (es ≠ [] → ∃ e ∈ es, e % 2 ^ (f.ebits + f.mbits) = c))
        ∧ r.2 = (if ∃ e ∈ es, (f.val e).isSnan = true then flNV else 0#6))
    ∧ exec (.vscanAdd d a p t) s
        = .next (s.withEffect 4 (scanAdd t (s.vm p) (s.v a)).2 (.reg (.v d) (scanAdd t (s.vm p) (s.v a)).1 (laneBits 0xFFFF#16)))
    ∧ (t = .s32 → reduceAdd t es = ((es.map fun e => (BitVec.ofNat 32 e).toInt).sum, 0#6))
    ∧ (∀ i, i < 16 → let upTo := reduceAdd t (participants t (s.vm p &&& BitVec.ofNat 16 (2 ^ (i + 1) - 1)) (s.v a))
        ((lane (scanAdd t (s.vm p) (s.v a)).1 i : Nat) : Int) = upTo.1 % 2 ^ 32 ∧ (∀ k, upTo.2.getLsbD k = true → (scanAdd t (s.vm p) (s.v a)).2.getLsbD k = true))
    ∧ (t = .z32 → reduceAdd t es = (((es.sum : Nat) : Int), 0#6))
    ∧ (∀ f : FFmt, laneFmt t = some f →
      let gives (r : Nat × Flags) : Prop := reduceAdd t es = (((packLane t [r.1] : Nat) : Int), r.2)
      ((∃ e ∈ es, (f.val e).isNan = true) → gives (f.canon, if ∃ e ∈ es, (f.val e).isSnan = true then flNV else 0#6))
      ∧ ((∀ e ∈ es, (f.val e).isNan = false) →
        ((∃ e ∈ es, f.val e = .inf true) → (∃ e ∈ es, f.val e = .inf false) → gives (f.canon, flNV))
        ∧ (∀ n, (∃ e ∈ es, f.val e = .inf n) → (∀ e ∈ es, f.val e ≠ .inf (!n)) → gives (f.signed n (f.maxCode + 1), 0#6)))
      ∧ ((∀ e ∈ es, ∃ n m x, f.val e = .num n m x) → ∀ q : Int, (∀ e ∈ es, ∀ n m x, f.val e = .num n m x → q ≤ x) →
        (∃ e ∈ es, ∃ n m, f.val e = .num n m q) →
        let sum : Int := (es.map fun e => (f.val e).units q).sum
        (sum ≠ 0 → gives (f.round .rne false 0 (.num (decide (sum < 0)) sum.natAbs q)))
        ∧ (sum = 0 → gives (f.signed (es.all fun e => (f.val e).isNeg) 0, 0#6))))
    ∧ (let place (t : CvtT) (i : Nat) : Nat × Nat := match t with
        | .f32 | .s32 | .z32 => (32 * i, 32)
        | .bf16 => (32 * i + 16, 16)
        | .s16 => (16 * i, 16)
        | .s8 | .e4m3 | .e5m2 => (8 * i, 8)
      let one (i : Nat) : Nat × Flags := convert u y rm q ((if rm = .sr then rbqEntry s.me.cr.rbseed s.me.cr.rbidx.toNat else []).getD i 0)
        ((s.v a).toNat / 2 ^ (place u i).1 % 2 ^ (place u i).2)
      (∀ i, i < 16 → (s.vm m).getLsbD i = true → conv.1.toNat / 2 ^ (place y i).1 % 2 ^ (place y i).2 = (one i).1)
      ∧ (∀ k, k < 512 → (conv.2.1.getLsbD k = true ↔ ∃ i, i < 16 ∧ (s.vm m).getLsbD i = true
          ∧ (if y = .bf16 then 32 * i ≤ k ∧ k < 32 * i + 32 else (place y i).1 ≤ k ∧ k < (place y i).1 + (place y i).2)))
      ∧ (∀ k, conv.2.2.getLsbD k = true ↔ ∃ i, i < 16 ∧ (s.vm m).getLsbD i = true ∧ (one i).2.getLsbD k = true))
    ∧ (∀ rw c : Nat,
      let fmt (t : CvtT) : Option FFmt := match t with
        | .f32 => some fp32 | .bf16 => some bf16 | .e4m3 => some e4m3 | .e5m2 => some e5m2
        | .s8 | .s16 | .s32 | .z32 => none
      let wide (t : CvtT) : Nat := match t with
        | .s8 => 8 | .s16 => 16 | .f32 | .bf16 | .e4m3 | .e5m2 | .s32 | .z32 => 32
      let number (t : CvtT) : Int := if t = .z32 then (c : Int) else (BitVec.ofNat (wide t) c).toInt
      let low (t : CvtT) : Int := if t = .z32 then 0 else -(2 ^ (wide t - 1) : Nat)
      let high (t : CvtT) : Int := if t = .z32 then (2 ^ 32 : Nat) - 1 else (2 ^ (wide t - 1) : Nat) - 1
      let r := convert u y rm q rw c
      (∀ f g, fmt u = some f → fmt y = some g → r = g.round rm (q && !(u == y || u == .bf16 && y == .f32 || (u == .e4m3 || u == .e5m2) && (y == .f32 || y == .bf16))) rw (f.val c))
      ∧ (∀ g, fmt u = none → fmt y = some g → r = g.round rm q rw (.num (decide (number u < 0)) (number u).natAbs 0))
      ∧ (∀ f, fmt u = some f → fmt y = none → let v := f.val c
        (v.isNan = true → r = (0, flNV))
        ∧ (∀ n, v = .inf n → r = (((if n = true then low y else high y) % 2 ^ wide y).toNat, flSAT))
        ∧ (∀ n k e, v = .num n k e → let z := roundUnits rm rw k e 0
          let i : Int := if n = true then -(z.1 : Int) else z.1
          r = ((max (low y) (min (high y) i) % 2 ^ wide y).toNat,
            (if z.2 = true then flNX else 0#6) ||| if low y ≤ i ∧ i ≤ high y then 0#6 else flSAT)))
      ∧ (fmt u = none → fmt y = none → c < 2 ^ wide u →
        (low y ≤ number u ∧ number u ≤ high y ∨ wide u < wide y → r = ((number u % 2 ^ wide y).toNat, 0#6))
        ∧ (¬ (low y ≤ number u ∧ number u ≤ high y) → wide y < wide u →
          r = if q = true then ((max (low y) (min (high y) (number u)) % 2 ^ wide y).toNat, flSAT) else ((number u % 2 ^ wide y).toNat, 0#6))))
    ∧ (rm ≠ .sr → exec (.vcvt d a u y rm q m) s = .next (s.withEffect 3 conv.2.2 (.reg (.v d) conv.1 conv.2.1)))
    ∧ (rm = .sr → exec (.vcvt d a u y rm q m) s = .next ((s.withEffect 3 conv.2.2 (.reg (.v d) conv.1 conv.2.1)).withAct 0 .pop))
    ∧ (∃ v : Wide, exec (.vrng d x m) s = .next (s.withEffect 3 0#6 (.reg (.v d) v (laneBits (s.vm m))))
      ∧ ∀ i, i < 16 → lane v i = counterGen s.me.cr.rbseed.toNat (((s.x x).toNat + i) % 2 ^ 64))

/-- R32, R35: a magnitude m × 2^e as a count of units 2^q: exact where it is one; otherwise to the nearest with ties to even, toward zero, or
stochastically: the floor of the exact sum of the magnitude and rw × 2^−32 units. R16 to R18: the value an encoding of a floating-point format
holds, the code of its largest number and its canonical NaN. R29, R30, R33: a value rounded to a format: NaN to the canonical NaN (E2M1: 0 and NV), an
infinity to itself, or clamped under saturation, or NaN where the format has none; a number to units of the last place of its magnitude, or of the
subnormals: the code of that value, with NX where it is inexact and UF where it is then a subnormal other than zero (that a result which rounds to zero sets NX without
UF is the model's choice: DEDUCED, log 6); beyond the largest number infinity,
NaN or the largest number, with OF and NX (and SAT where it clamps). R31: the larger and
the smaller of two floating-point elements: a NaN gives way to a number, two NaNs give the canonical NaN, −0 stands below +0, and only a
signalling NaN sets a flag. R127: vabs and vneg of a floating-point element change its sign bit alone and so its value's sign, and a NaN gives the canonical
NaN, with NV for a signalling one. -/
def Obligations.RoundingModesAndExtremes : Prop :=
  (∀ (rw m : Nat) (e q : Int),
     (q ≤ e → ∀ rm, roundUnits rm rw m e q = (m * 2 ^ (e - q).toNat, false))
     ∧ (e < q →
       let u : Nat := 2 ^ (q - e).toNat
       (∀ rm, ((roundUnits rm rw m e q).2 = false ↔ m % u = 0) ∧ (m % u = 0 → (roundUnits rm rw m e q).1 * u = m))
       ∧ (roundUnits .rz rw m e q).1 = m / u
       ∧ (let y := (roundUnits .rne rw m e q).1
          2 * (y * u) ≤ 2 * m + u ∧ 2 * m ≤ 2 * (y * u) + u ∧ (2 * (y * u) = 2 * m + u ∨ 2 * m = 2 * (y * u) + u → y % 2 = 0))
       ∧ (m % u ≠ 0 → (roundUnits .sr rw m e q).1 = (m * 2 ^ 32 + rw % 2 ^ 32 * u) / (u * 2 ^ 32))))
  ∧ (let formats := [fp32, bf16, fp16, e4m3, e5m2, e2m1]
    formats.map FFmt.maxCode = [0x7F7FFFFF, 0x7F7F, 0x7BFF, 0x7E, 0x7B, 7] ∧ formats.map FFmt.canon = [0x7FC00000, 0x7FC0, 0x7E00, 0x7F, 0x7E, 0]
    ∧ (∀ f ∈ formats, ∀ c : Nat,
      let m := c % 2 ^ f.mbits
      let x := c / 2 ^ f.mbits % 2 ^ f.ebits
      let n : Bool := decide (c / 2 ^ (f.mbits + f.ebits) % 2 = 1)
      let full : Prop := x = 2 ^ f.ebits - 1
      (if f.special = .ieee ∧ full then f.val c = if m = 0 then .inf n else .nan (decide (f.quiet = false ∧ m < 2 ^ (f.mbits - 1)))
        else if f = e4m3 ∧ full ∧ m = 7 then f.val c = .nan false
        else f.val c = if x = 0 then .num n m (1 - (f.bias : Int) - f.mbits) else .num n (m + 2 ^ f.mbits) ((x : Int) - f.bias - f.mbits)))
    ∧ (∀ f ∈ formats, ∀ (rm : Rm) (sat : Bool) (rw : Nat),
      let clamps : Prop := sat = true ∨ f = e2m1
      (∀ g, f.round rm sat rw (.nan g) = (f.canon, if g = true ∨ f = e2m1 then flNV else 0#6))
      ∧ (∀ n, f.round rm sat rw (.inf n) = if clamps then (f.signed n f.maxCode, flSAT) else if f = e4m3 then (f.canon, flNV) else (f.signed n (f.maxCode + 1), 0#6))
      ∧ (∀ n e, f.round rm sat rw (.num n 0 e) = (f.signed n 0, 0#6))
      ∧ (∀ (n : Bool) (m : Nat) (e : Int), m ≠ 0 →
        let least : Int := 1 - (f.bias : Int) - f.mbits
        let q := max ((Nat.log2 m : Int) + e - f.mbits) least
        let y := roundUnits rm rw m e q
        let size := y.1 * 2 ^ (q - least).toNat
        let top : Nat := match f.val f.maxCode with
          | .num _ k x => k * 2 ^ (x - least).toNat
          | _ => 0
        (size ≤ top → ∃ k x, f.val (f.round rm sat rw (.num n m e)).1 = .num n k x ∧ k * 2 ^ (x - least).toNat = size
          ∧ (f.round rm sat rw (.num n m e)).2
            = ((if y.2 = true then flNX else 0#6) ||| if y.2 = true ∧ size ≠ 0 ∧ size < 2 ^ f.mbits then flUF else 0#6))
        ∧ (top < size → f.round rm sat rw (.num n m e)
          = if clamps then (f.signed n f.maxCode, flOF ||| flNX ||| flSAT) else if f = e4m3 then (f.canon, flOF ||| flNX)
            else (f.signed n (f.maxCode + 1), flOF ||| flNX)))))
  ∧ (∀ f ∈ [fp32, bf16], ∀ (least : Bool) (a b : Nat),
     let r := f.extreme least [a, b]
     ((f.val a).isNan = true → (f.val b).isNan = false → r.1 = b) ∧ ((f.val b).isNan = true → (f.val a).isNan = false → r.1 = a)
     ∧ ((f.val a).isNan = true → (f.val b).isNan = true → r.1 = f.canon)
     ∧ ((f.val a).isNan = false → (f.val b).isNan = false → (r.1 = a ∨ r.1 = b)
         ∧ (least = true → (f.val r.1).cmp (f.val a) ≠ .gt ∧ (f.val r.1).cmp (f.val b) ≠ .gt)
         ∧ (least = false → (f.val r.1).cmp (f.val a) ≠ .lt ∧ (f.val r.1).cmp (f.val b) ≠ .lt))
     ∧ (f.val (f.signed true 0)).cmp (f.val (f.signed false 0)) = .lt
     ∧ r.2 = (if (f.val a).isSnan = true ∨ (f.val b).isSnan = true then flNV else 0#6))
  ∧ (∀ (t : LaneT) (f : FFmt) (a : Nat), laneFmt t = some f → a < 2 ^ laneWidth t →
     let abs := elemAbs t a
     let neg := elemNeg t a
     ((f.val a).isNan = true → let fl : Flags := if (f.val a).isSnan = true then flNV else 0#6
       abs = (f.canon, fl) ∧ neg = (f.canon, fl))
     ∧ (∀ n m e, f.val a = .num n m e → f.val abs.1 = .num false m e ∧ f.val neg.1 = .num (!n) m e)
     ∧ (∀ n, f.val a = .inf n → f.val abs.1 = .inf false ∧ f.val neg.1 = .inf (!n))
     ∧ ((f.val a).isNan = false → abs.2 = 0#6 ∧ neg.2 = 0#6 ∧ ∀ r ∈ [abs.1, neg.1],
       r < 2 ^ laneWidth t ∧ r % 2 ^ (laneWidth t - 1) = a % 2 ^ (laneWidth t - 1)))

/-- R324: in handler mode the instructions of a handler's forbidden classes raise HANDLER_OP, which ends the kernel, and do nothing else: streams,
walk records, tokens, engine commands, barriers, escapes, waits, loops, halt, trap and the kernel's own end. -/
def Obligations.HandlersMayNotUseEngines : Prop :=
  ∀ (s : State) (a b k k' : Fin 64) (w w' : Fin 32) (m : Fin 2) (p : Fin 4) (n : BitVec 12) (rows : BitVec 4) (c c' : Fin 12) (rm : Rm) (q : Bool),
    s.me.handling = true → ∀ (o sel8 : Fin 8) (e : Fin 5) (f : Fin 4) (n8 : BitVec 8) (n10 : BitVec 10) (n16 : BitVec 16),
    ∀ i ∈ [Instr.smov w w' k k' m, .smc w w' k k' m, .sgat2 w w' k k' m, .sexp w w' k k' m, .sdec w w' k k' m, .sport w w' k k' m,
        .sring w w' k k' m, .srel w a, .sbar, .tok k a n, .tdsync k a, .sstat a e, .wset w a o, .wld w b n, .wst w b n, .wcopy w w',
        .mmaBf16 p w w' k k', .mmaFp16 p w w' k k', .mmaE4m3 p w w' k k', .mmaE5m2 p w w' k k',
        .mmbMxfp8e4 m w w' k k', .mmbMxfp8e5 m w w' k k', .mmbMxfp4 m w w' k k', .mmbMxint8 m w w' k k', .mmbFk8 m w w' k k', .mmbFk4 m w w' k k', .sac p w w' k k', .zacc p q k k', .ldacc p w k k',
        .drain p w rm q k k', .amaxr a p b, .amaxc a p b, .cld c rows a, .cst c rows a, .cctx p a, .cwhorl c rows k k', .cparam w c a c', .cadj c c' rows,
        .ctab w a, .cdrain rows k, .mstat a e, .cstat a f, .txstat a sel8, .stepr a, .barm a b, .barv a b, .bars a b, .barw a, .barvw a, .stepadv a, .esc b n,
        .qlaunch k a b, .waitk k n, .fence a b k k', .loop p a n16, .loopi p n n10, .halt, .syncg, .endK, .trap n8],
      exec i s = .next (s.trap .handlerOp 0#64)

/-- R173, R175: wset and wcopy write at issue + 1 a word of a walk record, or the whole of one; wcopy of a record onto itself does nothing. R205: amaxr and
amaxc read their register, R206: mstat the array, R246: cstat the Canopy of the issuing hardware context, R264: stepr the step view of
a step-dependent kernel (RING_UNDECLARED in any other). amaxr, amaxc and mstat read late, after every effect of their issue cycle: of mstat, which R206 reads
"from the state at issue", this is the model's reading (DEDUCED, log 62). -/
def Obligations.WalkRecordWritesAndStatusReads : Prop :=
  (∀ (s : State) (w d e : Fin 32) (a : Fin 64) (o : Fin 8), s.fitCore →
     exec (.wset w a o) s = .next (s.withEffect 1 0#6 (.reg (.w w o) ((s.x a).setWidth 512) allBits))
     ∧ (d ≠ e → exec (.wcopy d e) s = .next (s.withEffect 1 0#6 (.reg (.wrec d) (s.w e) allBits)))
     ∧ exec (.wcopy d d) s = .next s)
  ∧ (∀ (s : State) (d : Fin 64) (p : Fin 4) (n : Fin 64) (e : Fin 5) (f : Fin 4), s.fitCore →
     let stepdep := (s.kernelOf s.cur.tile s.cur.urgent).any (·.stepdep) = true
     exec (.amaxr d p n) s = .next ((s.withX 2 d 0#64).withAct 0 (.fill (.amr p n)))
     ∧ exec (.amaxc d p n) s = .next ((s.withX 2 d 0#64).withAct 0 (.fill (.amc p n)))
     ∧ exec (.mstat d e) s = .next ((s.withX 2 d 0#64).withAct 0 (.fill (.mstat e.val)))
     ∧ (∃ v, exec (.cstat d f) s = .next (s.withX 2 d v)
         ∧ (let cn := (s.tile s.cur.tile).cn
           let mine (w : Whorl) : Prop := w ∈ cn.whorls ∧ (w.ctx = 11 ↔ s.cur.urgent = true)
           (f = 0 → v.toNat < 2 ^ 16 ∧ (∀ c : Fin 12, v.getLsbD c.val = true ↔ ∃ w, mine w ∧ w.ctx = c)
             ∧ ∀ r, r < 4 → (v.getLsbD (12 + r) = true ↔ ∃ w, mine w ∧ w.flight ≠ [] ∧ w.rows.getLsbD r = true))
           ∧ (f = 1 → ∀ r, r < 4 → v.toNat / 2 ^ (12 * r) % 2 ^ 12 = (vget cn.mask r 0#12).toNat)
           ∧ (f = 2 → v = BitVec.ofNat 64 cn.fires[if s.cur.urgent = true then (1 : Fin 2) else 0])
           ∧ (f = 3 → (∀ k, k < 8 → (vget cn.inp k []).length < 2 ^ 4) → ∀ k, k < 8 → v.toNat / 2 ^ (4 * k) % 2 ^ 4 = (vget cn.inp k []).length)))
     ∧ (¬ stepdep → exec (.stepr d) s = .next (s.trap .ringUndeclared 0#64))
     ∧ (∀ y, s.kernelOf s.cur.tile s.cur.urgent = some y → y.stepdep = true → exec (.stepr d) s = .next (s.withX 2 d (BitVec.ofNat 64 y.stepView))))
  ∧ (∀ (s : State) (t : Nat) (u : Bool) (a : Act) (r : LateRead), t < 480 → (s.tctx t u).acts = [a] → a.kind = .fill r → a.due = s.now t u →
     let m := (s.tile t).mx
     let v := s.lateValue t u r
     let latest (on : MCmd → Bool) (last : MCmd → Nat) : Prop := (∀ c ∈ m.cmds, on c = true → last c ≤ s.now t u + v)
       ∧ (v ≠ 0 → ∃ c ∈ m.cmds, on c = true ∧ last c = s.now t u + v)
     let port (k : MxPort) : Prop := latest (fun c => c.started && c.port == k) fun c => c.start + c.occupancy
     (∀ p n, r = .amr p n → v = (vget m.amr[p] n.val 0#32).toNat) ∧ (∀ p n, r = .amc p n → v = (vget m.amc[p] n.val 0#32).toNat)
     ∧ (r = .fpstat → v = (s.tctx t u).cr.fpstat.toNat)
     ∧ (r = .mstat 0 → port .feed) ∧ (r = .mstat 1 → port .scale) ∧ (r = .mstat 2 → port .drain)
     ∧ (r = .mstat 3 → v = m.tag[0].toNat + m.tag[1].toNat * 2 ^ 4)
     ∧ (r = .mstat 4 → latest (fun c => c.started && c.cut.isNone) (·.lastCycle))
     ∧ (∀ (e : Effect) d w mask, e ∈ (s.tctx t u).inflight → e.ord = a.ord → e.kind = .reg d w mask →
         { e with kind := .reg d (BitVec.ofNat 512 v) mask } ∈ ((s.fillReads t u).tctx t u).inflight)
     ∧ (∀ e ∈ (s.tctx t u).inflight, e.ord ≠ a.ord → e ∈ ((s.fillReads t u).tctx t u).inflight))

/-- R176, R158, R167, R179: a stream command latches both records; where a check fails it raises that fault, in a full queue CMDQ_FULL, and is
not queued; otherwise it takes one queue entry, held back by an earlier sbar only where it touches scratchpad (R182), and the stream
waits there for an engine. R151 to R157, R147, R149, R252: the fault is that of the first row of R158 that fails, each row stated on the fields of the records,
and WALK_INVALID of R176's shape after them all. Of the model and not of the rules (DESIGN CHOICE, log 93): that within a row the source is judged first, that
what R156 and R257 ask of a tensor stands behind order 2, and that a 4-bit tensor side is asked for an even o0 alone of its origins. -/
def Obligations.StreamCommandsCheckThenQueue : Prop :=
  (∀ (s : State) (op : StreamOp) (x : Latch),
    let ws := x.ws
    let wd := x.wd
    let F := s.latchFault op x
    let fails (c : Cause) : Prop := F = some (c, 0#64)
    let fd (w : Wide) (hi lo : Nat) : Nat := w.toNat / 2 ^ lo % 2 ^ (hi + 1 - lo)
    let pat (w : Wide) : Nat := fd w 79 76
    let ep (w : Wide) : Nat := fd w 75 72
    let fmt (w : Wide) : Nat := fd w 71 67
    let aux (w : Wide) : Nat := fd w 95 80
    let merge (w : Wide) : Nat := fd w 61 59
    let on (w : Wide) (i : Nat) : Prop := fd w i i = 1
    let base (w : Wide) : Nat := fd w 511 448
    let space (w : Wide) : Nat := fd w 511 508
    let count (w : Wide) (j : Nat) : Nat := fd w (287 + 32 * j) (256 + 32 * j)
    let stride (w : Wide) (j : Nat) : Int := (BitVec.ofNat 32 (fd w (159 + 32 * j) (128 + 32 * j))).toInt
    let elems (w : Wide) : Nat := count w 0 * count w 1 * count w 2 * count w 3
    let dep (w : Wide) : Prop := pat w = 1 ∨ pat w = 2 ∨ pat w = 3
    let reserved (w : Wide) : Prop := fd w 66 64 ≠ 0 ∨ fd w 52 0 ≠ 0 ∨ 5 ≤ pat w ∨ 5 ≤ ep w ∨ 5 ≤ merge w
      ∨ ((ep w = 1 ∨ ep w = 2) ∧ fd w 447 384 ≠ 0) ∨ (ep w = 3 ∧ (fd w 511 451 ≠ 0 ∨ fd w 447 384 ≠ 0)) ∨ (ep w = 4 ∧ fd w 511 400 ≠ 0)
      ∨ ((ep w = 1 ∨ ep w = 2 ∨ ep w = 3) ∧ 19 ≤ fmt w)
      ∨ (dep w ∧ (64 ≤ aux w ∨ (on w 85 ∧ fd w 84 83 ≠ 0))) ∨ (pat w = 4 ∧ (aux w = 0 ∨ 32767 < aux w))
      ∨ (pat w = 0 ∧ ep w = 4 ∧ aux w = 0) ∨ (pat w = 0 ∧ ep w ≠ 4 ∧ aux w ≠ 0)
    let width (w : Wide) (t : Option TensorV) : Option Nat :=
      if ep w = 0 then t.bind (fun t => fmtBits (fd t.desc 4 0)) else if ep w = 4 then none else fmtBits (fmt w)
    let sides : Prop := ep ws ≠ 4 ∧ pat ws ≠ 4 ∧ ¬ on ws 62 ∧ merge ws = 0 ∧ ¬ on ws 57 ∧ ¬ on ws 56 ∧ ¬ on wd 63 ∧ ¬ on wd 58
      ∧ (on ws 63 ∨ on ws 58 → ep ws = 0) ∧ (on wd 62 ∨ merge wd ≠ 0 → ep wd = 0) ∧ (on wd 56 → ep wd = 1)
      ∧ (on wd 57 → ep wd = 1 ∧ (space wd = 1 ∨ space wd = 2)) ∧ (pat wd = 4 → ep wd = 1 ∧ space wd = 1 ∧ base wd % 64 = 0)
      ∧ (on ws 58 → fd ws 415 384 % 4 = 0 ∧ count ws 0 % 4 = 0 ∧ stride ws 0 = 1 ∧ ep wd = 1 ∧ space wd = 1)
      ∧ ¬ (dep ws ∧ dep wd ∧ on ws 85 ∧ on wd 85 ∧ fd ws 82 80 = fd wd 82 80)
    let nibbles (w : Wide) (t : Option TensorV) : Prop := width w t = some 4 → pat w ≠ 4 → ep w ≠ 3 →
      stride w 0 = 1 ∧ count w 0 % 2 = 0 ∧ (∀ j ∈ [1, 2, 3], stride w j % 2 = 0) ∧ (ep w = 0 → fd w 415 384 % 2 = 0)
    let indexed (w : Wide) (i : Option Wide) : Prop := dep w → (pat w = 3 → count w 3 = 1)
      ∧ (on w 85 ∨ ∃ y, i = some y ∧ ¬ reserved y ∧ pat y = 0 ∧ ep y = 1 ∧ space y = 1 ∧ fmt y = 17)
    let order1 : Prop := ¬ reserved ws ∧ ¬ reserved wd ∧ sides ∧ (∀ a b, width ws x.st = some a → width wd x.dt = some b → a = b)
      ∧ nibbles ws x.st ∧ nibbles wd x.dt ∧ indexed ws x.si ∧ indexed wd x.di
    let named : List (Option TensorV) :=
      (if ep ws = 0 then [x.st] else []) ++ (if ep wd = 0 ∨ ep wd = 4 then [x.dt] else []) ++ (if ep wd = 4 then [x.pt] else [])
    let world := (s.ctxt (s.ctxOf s.cur.tile s.cur.urgent)).secure
    let fine (o : Option TensorV) : Prop := ∃ t, o = some t ∧ t.sound = true ∧ descWorld t.desc = world
    let ringed (o : Option TensorV) : Prop := ∃ t, o = some t ∧ on t.desc 29
    let block (o : Option TensorV) : Prop := ∃ t, o = some t ∧ 5 ≤ fd t.desc 4 0 ∧ fd t.desc 4 0 ≤ 10
    let attributes : Prop := (on ws 63 → ringed x.st) ∧ (on ws 58 → ¬ block x.st ∧ ∃ t, x.st = some t ∧ on t.desc 28)
      ∧ (ep wd = 0 → (ringed x.dt → (on wd 62 ∧ merge wd = 0) ∨ (¬ on wd 62 ∧ merge wd = 4))
        ∧ (¬ ringed x.dt → ¬ on wd 62 ∧ merge wd ≠ 4 ∧ (merge wd = 0 ∨ ¬ block x.dt)))
    let declared : Prop := s.stepDependent = true ∨ ¬ ((ep ws = 0 ∧ ringed x.st) ∨ (ep wd = 0 ∧ ringed x.dt))
    let turned : Prop := ∃ t, some t ∈ [x.st, x.dt, x.pt] ∧ block (some t) ∧ on t.desc 18
    let inside (w : Wide) (o : Option TensorV) : Prop := ep w = 0 → pat w = 0 → ∀ t, o = some t → ∀ e, e < elems w →
      inExtents t.desc (decide (on w 58)) (wCoords w (wAffine w e)) = true
    let based (w : Wide) (t : Option TensorV) : Option Cause := s.baseFault w ((width w t).getD 8)
    let told (c : Cause) (w : Wide) : Prop := F = some (c, if c = .permission ∨ c = .spaceInvalid then BitVec.ofNat 64 (base w) else 0#64)
    let total (w : Wide) : Option Nat := if ep w = 3 ∨ ep w = 4 ∨ pat w = 2 ∨ pat w = 4 then none else some (elems w)
    (ep ws ≠ 0 → x.st = none) → (ep wd ≠ 0 → ep wd ≠ 4 → x.dt = none) → (ep wd ≠ 4 → x.pt = none) →
    (¬ order1 → fails .walkInvalid)
    ∧ (order1 →
      (∀ l o r, named = l ++ o :: r → (∀ p ∈ l, fine p) → (¬ (∃ t, o = some t ∧ t.sound = true) → fails .tensorInvalid)
        ∧ (∀ t, o = some t → t.sound = true → descWorld t.desc ≠ world → fails .worldViolation))
      ∧ ((∀ o ∈ named, fine o) →
        (¬ attributes → fails .walkInvalid) ∧ (attributes → ¬ declared → fails .ringUndeclared)
        ∧ (attributes → declared → turned → fails .illegalLayout)
        ∧ (attributes → declared → ¬ turned → ¬ (inside ws x.st ∧ inside wd x.dt) → fails .coordRange)
        ∧ (attributes → declared → ¬ turned → inside ws x.st → inside wd x.dt →
          (∀ c, based ws x.st = some c → told c ws) ∧ (based ws x.st = none → ∀ c, based wd x.dt = some c → told c wd)
          ∧ (based ws x.st = none → based wd x.dt = none →
            ((∃ m n, total ws = some m ∧ total wd = some n ∧ m ≠ n) → fails .segmentMismatch)
            ∧ ((∀ m n, total ws = some m → total wd = some n → m = n) →
              (shapeFits op ws wd x.st x.dt x.pt = true → F = none) ∧ (shapeFits op ws wd x.st x.dt x.pt = false → fails .walkInvalid)))))))
  ∧ (∀ (t : TensorV), descRing t.desc = false → descAux t.desc = false → (t.sound = true ↔
      let fd (hi lo : Nat) : Nat := t.desc.toNat / 2 ^ lo % 2 ^ (hi + 1 - lo)
      let rank := fd 9 8
      let layout := fd 23 16
      fd 31 31 = 1 ∧ fd 4 0 < 19 ∧ ¬ (5 ≤ fd 4 0 ∧ fd 4 0 ≤ 10) ∧ fd 263 32 = 0 ∧ fd 26 24 = 0 ∧ fd 15 10 = 0 ∧ fd 7 5 = 0
        ∧ (∀ j, j < 4 → rank < j → fd (335 + 32 * j) (304 + 32 * j) = 1) ∧ fd 479 464 = 0
        ∧ layout < 8 ∧ (rank = 0 → layout = 0) ∧ (layout / 4 = 1 → 1 ≤ rank ∧ layout % 2 = 1)))
  ∧ (∀ (s : State) (w : Wide) (b : Nat), 0 < b →
    let p := wBase w
    let sp := p.toNat / 2 ^ 60
    let tile : Nat := p.toNat / 2 ^ 41 % 2 ^ 9
    let off : Nat := p.toNat % 2 ^ 41
    let inGroup : Prop := ∃ g, s.groupOf s.cur.tile s.cur.urgent = some g ∧ g.has tile = true
    let lo : Int := if s.cur.urgent = true then 0x1E0000 else 0
    let hi : Int := if s.cur.urgent = true then 0x200000 else 0x1E0000
    let outside : Prop := (off : Int) < lo ∨ hi ≤ off ∨ (wPattern w = 0 ∧ ∃ e, e < wCount w 0 * wCount w 1 * wCount w 2 * wCount w 3
      ∧ ((wOffset w b (wAffine w e)).1 < lo ∨ hi < (wOffset w b (wAffine w e)).1 + max 1 ((b : Int) / 8)))
      ∨ (wPattern w = 4 ∧ hi < off + 64 * (wAux w : Int))
    (wEnd w = 0 ∨ 3 ≤ wEnd w → s.baseFault w b = none)
    ∧ (wEnd w = 2 → s.baseFault w b = if sp = 6 then none else some .spaceInvalid)
    ∧ (wEnd w = 1 → sp ≠ 1 ∧ sp ≠ 2 ∧ sp ≠ 3 ∨ (sp ≠ 3 ∧ 2 ^ 21 ≤ off) ∨ (sp = 3 ∧ 2 ^ 28 ≤ off) → s.baseFault w b = some .spaceInvalid)
    ∧ (wEnd w = 1 → sp = 2 → off < 2 ^ 21 → wMulticast w = false → 480 ≤ tile → s.baseFault w b = some .spaceInvalid)
    ∧ (wEnd w = 1 → sp = 2 → off < 2 ^ 21 → wMulticast w = false → tile < 480 → p.toNat / 2 ^ 50 % 2 ^ 10 = s.rank → wPattern w = 0 → ¬ inGroup →
      s.baseFault w b = some .permission)
    ∧ (wEnd w = 1 → sp = 1 → off < 2 ^ 21 → wMulticast w = false → b = 4 ∨ b % 8 = 0 →
      s.baseFault w b = none ∨ s.baseFault w b = some .permission)
    ∧ (wEnd w = 1 → sp = 1 → off < 2 ^ 21 → wMulticast w = false → b = 4 ∨ b % 8 = 0 → (s.baseFault w b = some .permission ↔ outside)))
  ∧ ∀ (s : State) (a b : Fin 32) (k p : Fin 64) (m : Fin 2), s.me.handling = false → s.cur.tile < 480 →
    let x := (s.latch a b).1
    let t := (s.latch a b).2
    let room := s.me.cmdq.length < (if s.cur.urgent = true then 16 else 64)
    let ringOk := match s.me.rings.find? (·.base == wBase (s.w b)) with
      | some r => r.cap = wAux (s.w b)
      | none => s.me.rings.length < (if s.cur.urgent = true then 2 else 8)
    let form (i : Instr) (op : StreamOp) : Prop :=
      (∀ c v, t.latchFault op x = some (c, v) → exec i s = .next (t.trap c v))
      ∧ (t.latchFault op x = none → (op = .sring → ringOk) → ¬ room → exec i s = .next (t.trap .cmdqFull 0#64))
      ∧ (t.latchFault op x = none → (op = .sring → ringOk) → room → ∃ z y, exec i s = .next z
          ∧ z.traffic.streams = s.traffic.streams ++ [y] ∧ y.id = s.nextId ∧ y.op = op ∧ y.src = s.w a ∧ y.dst = s.w b ∧ y.tile = s.cur.tile
          ∧ y.urgent = s.cur.urgent ∧ y.kdone = k ∧ y.mode = m ∧ y.engine = none ∧ y.buf = []
          ∧ z.me.cmdq = s.me.cmdq ++ [⟨s.me.flow.ord, .stream s.nextId p, if wEnd (s.w a) = 1 ∨ wEnd (s.w b) = 1 then s.me.bar else []⟩]
          ∧ z.me.inflight = s.me.inflight ∧ s.sameArchitecture z)
    x.ws = s.w a ∧ x.wd = s.w b ∧ s.sameArchitecture t
    ∧ form (.smov a b k p m) .smov ∧ form (.smc a b k p m) .smc ∧ form (.sgat2 a b k p m) .sgat2 ∧ form (.sexp a b k p m) .sexp
    ∧ form (.sdec a b k p m) .sdec ∧ form (.sport a b k p m) .sport ∧ form (.sring a b k p m) .sring
    ∧ (t.latchFault .sring x = none → ¬ ringOk → exec (.sring a b k p m) s = .next (t.trap .walkInvalid 0#64))

/-- R180, R182, R183, R186, R187, R167: srel, sbar, tok, tdsync and sstat at issue: what each schedules or queues, and tok's faults; and the release of an
srel when it lands. -/
def Obligations.StreamControlCompletes : Prop :=
  ∀ (s : State) (w : Fin 32) (a k d : Fin 64) (n : BitVec 12) (e : Fin 5) (g : Group), s.fitCore → s.groupOf s.cur.tile s.cur.urgent = some g →
    let p := s.x a
    let space := p.toNat / 2 ^ 60
    let tile := p.toNat / 2 ^ 41 % 2 ^ 9
    let rank := p.toNat / 2 ^ 50 % 2 ^ 10
    let own := a = 0 ∨ space = 1
    let transactional := (s.kernelOf s.cur.tile s.cur.urgent).any (·.ticket.isSome) = true
    let room := s.me.cmdq.length < (if s.cur.urgent = true then 16 else 64)
    let queued (kind : QKind) (after : List WRef) : State := s.onMe fun c => { c with cmdq := c.cmdq ++ [⟨s.me.flow.ord, kind, after⟩] }
    exec (.srel w a) s = .next (s.withAct 1 (.srel (wBase (s.w w)).toNat (p.toNat % 2 ^ 32)))
    ∧ exec .sbar s = .next (s.onMe fun c => { c with bar := c.bar ++ s.outstanding })
    ∧ (¬ own → space ≠ 2 ∨ 480 ≤ tile → exec (.tok k a n) s = .next (s.trap .spaceInvalid p))
    ∧ (¬ own → space = 2 → tile < 480 → rank = s.rank → g.has tile = false → exec (.tok k a n) s = .next (s.trap .permission p))
    ∧ (¬ own → space = 2 → tile < 480 → rank ≠ s.rank → transactional → exec (.tok k a n) s = .next (s.trap .permission p))
    ∧ (own → k ≠ 63 → n ≠ 0 → room → exec (.tok k a n) s = .next (queued (.tok s.cur.tile none k n.toNat) s.me.bar))
    ∧ (¬ own → space = 2 → tile < 480 → rank = s.rank → g.has tile = true → k ≠ 63 → n ≠ 0 → room →
        exec (.tok k a n) s = .next (queued (.tok tile none k n.toNat) s.me.bar))
    ∧ (¬ own → space = 2 → tile < 480 → rank ≠ s.rank → ¬ transactional → k ≠ 63 → n ≠ 0 → room →
        exec (.tok k a n) s = .next (queued (.tok tile (some rank) k n.toNat) s.me.bar))
    ∧ (own → k = 63 ∨ n = 0 → exec (.tok k a n) s = .next s)
    ∧ (own → k ≠ 63 → n ≠ 0 → ¬ room → exec (.tok k a n) s = .next (s.trap .cmdqFull 0#64))
    ∧ (room → exec (.tdsync k a) s = .next (queued (.tdsync (p.toNat % 2 ^ 16) k) []))
    ∧ (¬ room → exec (.tdsync k a) s = .next (s.trap .cmdqFull 0#64))
    ∧ (∃ v, exec (.sstat d e) s = .next (s.withX 2 d v) ∧ (e = 0 → v = BitVec.ofNat 64 s.me.cmdq.length)
        ∧ (e = 4 → v = BitVec.ofNat 64 s.me.rings.length)
        ∧ (let mine := s.traffic.streams.filter fun x => x.tile == s.cur.tile && x.urgent == s.cur.urgent
          (e = 1 → (mine.filterMap (·.engine)).Nodup → ∀ i, i < 64 → (v.getLsbD i = true ↔ ∃ x ∈ mine, x.engine = some i))
          ∧ (e = 2 → v = BitVec.ofNat 64 mine.length)
          ∧ (e = 3 → v = BitVec.ofNat 64 (mine.countP fun x => s.roots.holds.any fun h => h.fid.isSome && match h.what with
            | .elem n _ _ => n == x.id
            | _ => false))))
    ∧ (∀ (t base m pc slot : Nat) (u : Bool), t < 480 →
      let z := s.releaseRing t u base m pc slot
      let find (c : TileCtx) : Option Ring := c.rings.find? (·.base.toNat == base)
      (find (s.tctx t u) = none → z = s.raise t u .ringRelease 0#64 pc slot)
      ∧ (∀ r, find (s.tctx t u) = some r → r.written - r.released < m → z = s.raise t u .ringRelease 0#64 pc slot)
      ∧ (∀ r, find (s.tctx t u) = some r → m ≤ r.written - r.released →
          find (z.tctx t u) = some { r with released := r.released + m } ∧ s.sameMemory z ∧ s.sameRegisters z))

/-- R195, R69, R72 with R198 to R203: a matrix command whose records pass R195's checks in their order joins its array's commands with its
records latched and its start cycle set, and nothing else changes; otherwise the fault is raised and nothing is latched. WALK_INVALID on any
record comes before SPACE_INVALID on any, then MISALIGNED, then PERMISSION; with none of them, no fault. R192, R196: the bytes a started command reads and
when. R196 to R204: what a command that is alone in its array leaves in it in each cycle: zacc and ldacc of each entry of their plane, mma and mmb of the
beats that reach it, sac of a folded entry and its block plane, drain of AMR and AMC and the values it reads; and the row a drain writes to scratchpad. R39
to R43: one beat of mma is one rounding of the exact sum of the entry and the products; one of mmb adds integers to the sub-sums its selectors name; a fold
is one rounding of the entry and the scaled sub-sums, with its NaN and infinity rules. -/
def Obligations.MatrixCommandsLatchTheirRecords : Prop :=
  (∀ (s : State) (p : Fin 4) (q : Fin 2) (a b : Fin 32) (k d : Fin 64) (rm : Rm) (sat kind : Bool), s.me.handling = false →
     let put (op : MOp) (wa wb : Wide) (n : Nat) : State :=
       let c : MCmd := ⟨s.nextId, s.me.flow.ord, s.cur.pc, s.cur.slot, s.clock + d.val, k, op, wa, wb, n, false, none, [], [], 0, []⟩
       { s with nextId := s.nextId + 1 }.onTile s.cur.tile fun x => { x with mx := { x.mx with cmds := x.mx.cmds ++ [c] } }
     let form (i : Instr) (op : MOp) (beats : Bool) (roles : List MxRole) (wa wb : Wide) (n : Nat) : Prop :=
       (mxFault beats roles = none → exec i s = .next (put op wa wb n))
       ∧ (∀ c v, mxFault beats roles = some (c, v) → exec i s = .next (s.trap c v))
     let product (i : Instr) (op : MOp) : Prop :=
       form i op (mxBeats (s.w a) == mxBeats (s.w b)) [mxOperand (s.w a), mxOperand (s.w b)] (s.w a) (s.w b) (mxBeats (s.w a))
     product (.mmaBf16 p a b k d) (.mma .bf16 p) ∧ product (.mmaFp16 p a b k d) (.mma .fp16 p)
     ∧ product (.mmaE4m3 p a b k d) (.mma .e4m3 p) ∧ product (.mmaE5m2 p a b k d) (.mma .e5m2 p)
     ∧ product (.mmbMxfp8e4 q a b k d) (.mmb .mxfp8e4 q) ∧ product (.mmbMxfp8e5 q a b k d) (.mmb .mxfp8e5 q)
     ∧ product (.mmbMxfp4 q a b k d) (.mmb .mxfp4 q) ∧ product (.mmbMxint8 q a b k d) (.mmb .mxint8 q)
     ∧ product (.mmbFk8 q a b k d) (.mmb .fk8 q) ∧ product (.mmbFk4 q a b k d) (.mmb .fk4 q)
     ∧ form (.sac p a b k d) (.sac p) true [mxScale (s.w a), mxScale (s.w b)] (s.w a) (s.w b) 0
     ∧ form (.ldacc p a k d) (.ldacc p) true [mxLoad (s.w a)] (s.w a) 0#512 0
     ∧ form (.drain p a rm sat k d) (.drain p rm sat) true [mxDrain (s.w a)] (s.w a) 0#512 0
     ∧ (kind = false → exec (.zacc p kind k d) s = .next (put (.zacc p) 0#512 0#512 0))
     ∧ (kind = true → ∃ r : Fin 2, r.val = p.val % 2 ∧ exec (.zacc p kind k d) s = .next (put (.zbp r) 0#512 0#512 0)))
  ∧ (∀ (beats : Bool) (rs : List MxRole),
     let bad (r : MxRole) : Prop := ptrSpace (wBase r.w) ≠ 1
     let odd (r : MxRole) : Prop := ptrOff (wBase r.w) % r.align ≠ 0
     let out (r : MxRole) : Prop := ∃ lo hi, r.range = some (lo, hi) ∧ (lo < 0 ∨ 0x1E0000 < hi)
     (beats = false ∨ (∃ r ∈ rs, r.ok = false) → mxFault beats rs = some (.walkInvalid, 0#64))
     ∧ (beats = true → (∀ r ∈ rs, r.ok = true) → (∃ r ∈ rs, bad r) → ∃ r ∈ rs, bad r ∧ mxFault beats rs = some (.spaceInvalid, wBase r.w))
     ∧ (beats = true → (∀ r ∈ rs, r.ok = true ∧ ¬ bad r) → (∃ r ∈ rs, odd r) → ∃ r ∈ rs, odd r ∧ mxFault beats rs = some (.misaligned, wBase r.w))
     ∧ (beats = true → (∀ r ∈ rs, r.ok = true ∧ ¬ bad r ∧ ¬ odd r) → (∃ r ∈ rs, out r) →
         ∃ r ∈ rs, out r ∧ mxFault beats rs = some (.permission, wBase r.w))
     ∧ (beats = true → (∀ r ∈ rs, r.ok = true ∧ ¬ bad r ∧ ¬ odd r ∧ ¬ out r) → mxFault beats rs = none))
  ∧ (∀ (c : MCmd) (m : Mem) (b : Nat), c.started = true → c.cut = none →
     let slice (w : Wide) : List Byte := let x := wAffine w b; m.read ((ptrOff (wBase w) : Int) + (x.1 + x.2.1 + x.2.2.1 + x.2.2.2) * 128).toNat 128
     let fed (a o : List Byte) : MCmd := { c with inA := c.inA ++ [a], inB := c.inB ++ [o] }
     (((∃ f p, c.op = .mma f p) ∨ ∃ f p, c.op = .mmb f p) → c.feed m (c.start + b) = if b < c.n then fed (slice c.wa) (slice c.wb) else c)
     ∧ (∀ p, c.op = .sac p → c.feed m (c.start + b) = if b = 0 then fed (m.read (ptrOff (wBase c.wa)) 128) (m.read (ptrOff (wBase c.wb)) 128) else c)
     ∧ (∀ p, c.op = .ldacc p → c.feed m (c.start + b)
       = if b < wCount c.wa 1 then fed (m.read ((ptrOff (wBase c.wa) : Int) + (b : Int) * wStride c.wa 1 * 4).toNat (4 * wCount c.wa 0)) [] else c))
  ∧ (∀ (s : State) (t now : Nat) (c : MCmd), t < 480 → (s.tile t).mx.cmds = [c] → c.started = true → c.cut = none → c.start ≤ now →
     let x := (s.tile t).mx
     let z := s.waveMatrix t now
     let y := (z.tile t).mx
     let acc (m : Matrix) (p : Fin 4) (i j : Nat) : Nat := (vget m.acc[p] (64 * i + j) 0#32).toNat
     let block (m : Matrix) (q : Fin 2) (i j : Nat) : BpEntry := vget m.bp[q] (64 * i + j) BpEntry.zero
     let at_ (o b i j : Nat) : Prop := i < 64 ∧ j < 64 ∧ now = c.start + o + b + i + j
     let kept : Prop := y.amr = x.amr ∧ y.amc = x.amc
     let others (p : Fin 4) : Prop := ∀ q, q ≠ p → y.acc[q] = x.acc[q]
     let flags (own : Nat → Prop) : Prop := ∀ k, (z.tctx t false).cr.fpstat.getLsbD k = true ↔ (s.tctx t false).cr.fpstat.getLsbD k = true ∨ own k
     y.tag = x.tag ∧ s.sameMemory z ∧ (z.tctx t false).regs = (s.tctx t false).regs
     ∧ (∀ p, c.op = .zacc p → kept ∧ others p ∧ y.bp = x.bp
       ∧ ∀ i j, i < 64 → j < 64 → (at_ 4 0 i j → acc y p i j = 0) ∧ (¬ at_ 4 0 i j → acc y p i j = acc x p i j))
     ∧ (∀ q, c.op = .zbp q → kept ∧ y.acc = x.acc ∧ (∀ r, r ≠ q → y.bp[r] = x.bp[r])
       ∧ ∀ i j, i < 64 → j < 64 → (at_ 4 0 i j → block y q i j = BpEntry.zero) ∧ (¬ at_ 4 0 i j → block y q i j = block x q i j))
     ∧ (∀ p, c.op = .ldacc p → kept ∧ others p ∧ y.bp = x.bp ∧ ∀ i j, i < 64 → j < 64 → (¬ at_ 4 0 i j → acc y p i j = acc x p i j)
       ∧ (at_ 4 0 i j → acc y p i j = if i < wCount c.wa 1 ∧ j < wCount c.wa 0 then leNat (((c.inA.getD i []).drop (4 * j)).take 4) else 0))
     ∧ (∀ f p, c.op = .mma f p → let new (i j b : Nat) : Nat × Flags := mmaBeat f (acc x p i j) (c.inA.getD b []) (c.inB.getD b []) i j
       kept ∧ others p ∧ y.bp = x.bp ∧ flags (fun k => ∃ i j b, b < c.n ∧ at_ 4 b i j ∧ (new i j b).2.getLsbD k = true)
       ∧ ∀ i j, i < 64 → j < 64 → (∀ b, b < c.n → at_ 4 b i j → acc y p i j = (new i j b).1)
         ∧ ((∀ b, b < c.n → ¬ at_ 4 b i j) → acc y p i j = acc x p i j))
     ∧ (∀ f q, c.op = .mmb f q → kept ∧ y.acc = x.acc ∧ (∀ r, r ≠ q → y.bp[r] = x.bp[r])
       ∧ ∀ i j, i < 64 → j < 64 → (∀ b, b < c.n → at_ 4 b i j → block y q i j = mmbBeat f (block x q i j) (c.inA.getD b []) (c.inB.getD b []) i j)
         ∧ ((∀ b, b < c.n → ¬ at_ 4 b i j) → block y q i j = block x q i j))
     ∧ (∀ p, c.op = .sac p → ∀ q : Fin 2, q.val = p.val % 2 →
       (BFmt.ofTag c.tag = none → y.acc = x.acc ∧ y.bp = x.bp ∧ kept)
       ∧ (∀ f, BFmt.ofTag c.tag = some f → let new (i j : Nat) : Nat × Flags := sacFold f (block x q i j) (acc x p i j) (c.inA.getD 0 []) (c.inB.getD 0 []) i j
         kept ∧ others p ∧ (∀ r, r ≠ q → y.bp[r] = x.bp[r]) ∧ flags (fun k => ∃ i j, at_ 5 0 i j ∧ (new i j).2.getLsbD k = true)
         ∧ ∀ i j, i < 64 → j < 64 → (at_ 5 0 i j → acc y p i j = (new i j).1 ∧ block y q i j = BpEntry.zero)
           ∧ (¬ at_ 5 0 i j → acc y p i j = acc x p i j ∧ block y q i j = block x q i j)))
     ∧ (∀ p rm sat, c.op = .drain p rm sat →
       let reads (i j : Nat) : Prop := at_ 4 0 i j ∧ i < wCount c.wa 1 ∧ j < wCount c.wa 0
       let old (l : Vector (BitVec 32) 64) (i : Nat) : Nat := if now = c.start then 0 else (vget l i 0#32).toNat
       let most (a v : Nat) : Nat := if (fp32.val a).isNan = true ∨ (fp32.val v).isNan = true then 0x7FC00000 else max (a % 2 ^ 31) (v % 2 ^ 31)
       y.acc = x.acc ∧ y.bp = x.bp ∧ (∀ q, q ≠ p → y.amr[q] = x.amr[q] ∧ y.amc[q] = x.amc[q])
       ∧ flags (fun k => k = 3 ∧ ∃ i j, reads i j ∧ (fp32.val (acc x p i j)).isSnan = true)
       ∧ (∀ i j, reads i j → (vget y.amr[p] i 0#32).toNat = most (old x.amr[p] i) (acc x p i j) ∧ (vget y.amc[p] j 0#32).toNat = most (old x.amc[p] j) (acc x p i j))
       ∧ (∀ i, i < 64 → (∀ j, ¬ reads i j) → (vget y.amr[p] i 0#32).toNat = old x.amr[p] i)
       ∧ (∀ j, j < 64 → (∀ i, ¬ reads i j) → (vget y.amc[p] j 0#32).toNat = old x.amc[p] j)
       ∧ (∀ d, y.cmds = [d] → (∀ g ∈ c.got, g ∈ d.got) ∧ ∀ i j, reads i j → (i, j, BitVec.ofNat 32 (acc x p i j)) ∈ d.got)))
  ∧ (∀ (s : State) (t : Nat) (c : MCmd) (p : Fin 4) (rm : Rm) (sat : Bool) (i : Nat), t < 480 → c.op = .drain p rm sat → c.started = true → c.cut = none →
     i < wCount c.wa 1 →
     let cr := (s.tctx t false).cr
     let fmt := wFmt c.wa
     let pops : Bool := rm == .sr && decide (1 ≤ fmt ∧ fmt ≤ 7)
     let n := wCount c.wa 0
     let drawn := (s.tile t).mx.drawn
     let word (j : Nat) : Nat := if pops = true then (match drawn with
       | some l => l.getD j 0
       | none => (rbqEntry cr.rbseed (cr.rbidx.toNat + j / 16)).getD (j % 16) 0) else 0
     let xs : List Nat := (List.range n).map fun j => ((c.got.find? fun g => g.1 == i && g.2.1 == j).elim 0#32 (·.2.2)).toNat
     let row : Nat := (drainByte c.wa i 0).toNat
     let z := s.drainNow t (c.start + 70 + i) c
     let wrote (m : Mem) (fl : Flags) : Prop := (z.tile t).spad = m ∧ (∀ u, u ≠ t → z.tile u = s.tile u) ∧ z.hbm = s.hbm ∧ (z.tctx t false).regs = (s.tctx t false).regs
       ∧ (z.tctx t false).cr = { cr with rbidx := if pops = true ∧ drawn = none then cr.rbidx + 4 else cr.rbidx, fpstat := cr.fpstat ||| fl }
     n ≤ 64 →
     (pops = true → c ∈ (s.tile t).mx.cmds → ∃ l, s.drawRow t (c.start + 70 + i) = (s.onMx t fun m => { m with drawn := some l })
       ∧ ∀ j, j < 64 → l.getD j 0 = (rbqEntry cr.rbseed (cr.rbidx.toNat + j / 16)).getD (j % 16) 0) ∧
     (fmt = 0 → wrote ((s.tile t).spad.write row (xs.flatMap fun v => leBytes 4 v)) 0#6)
     ∧ (∀ f : FFmt, (fmt = 1 ∧ f = bf16) ∨ (fmt = 2 ∧ f = fp16) ∨ (fmt = 3 ∧ f = e4m3) ∨ (fmt = 4 ∧ f = e5m2) →
       let one (j : Nat) : Nat × Flags := f.round rm sat (word j) (fp32.val (xs.getD j 0))
       ∃ bs fl, wrote ((s.tile t).spad.write row bs) fl ∧ bs.length = (1 + f.ebits + f.mbits) / 8 * n
         ∧ (∀ j, j < n → leNat ((bs.drop ((1 + f.ebits + f.mbits) / 8 * j)).take ((1 + f.ebits + f.mbits) / 8)) = (one j).1)
         ∧ ∀ k, fl.getLsbD k = true ↔ ∃ j, j < n ∧ (one j).2.getLsbD k = true)
     ∧ (∀ f : BFmt, blockOf fmt = some f →
       let block (b : Nat) : List Nat × List Nat × Flags := f.quantise rm ((List.range 32).map fun j => word (32 * b + j))
         ((List.range 32).map fun j => xs.getD (32 * b + j) 0)
       let codes : List Nat := ((List.range ((n + 31) / 32)).flatMap fun b => (block b).1).take n
       let scales : List Nat := (List.range ((n + 31) / 32)).flatMap fun b => (block b).2.1
       ∃ fl, wrote (((s.tile t).spad.write row (leBytes ((n * f.width + 7) / 8) (codes.foldr (fun e a => e + a * 2 ^ f.width) 0))).write
           ((ptrOff (wBase c.wa) : Int) + wStride c.wa 2 + (i : Int) * wStride c.wa 3).toNat (scales.map (BitVec.ofNat 8))) fl
         ∧ ∀ k, fl.getLsbD k = true ↔ ∃ b, b < (n + 31) / 32 ∧ (block b).2.2.getLsbD k = true))
  ∧ (∀ (acc : Nat) (a b : List Byte) (i j : Nat),
     let el (l : List Byte) (k w n : Nat) : Nat := leNat ((l.drop (2 * k)).take 2) / 2 ^ (w * n) % 2 ^ w
     let rounds (v : FVal) : Nat × Flags := fp32.round .rne false 0 v
     let pairs (g : FFmt) : List (FVal × FVal) := [(g.val (el a i 8 0), g.val (el b j 8 0)), (g.val (el a i 8 1), g.val (el b j 8 1))]
     mmaBeat .bf16 acc a b i j = rounds (sumProducts (fp32.val acc) [(bf16.val (el a i 16 0), bf16.val (el b j 16 0))])
     ∧ mmaBeat .fp16 acc a b i j = rounds (sumProducts (fp32.val acc) [(fp16.val (el a i 16 0), fp16.val (el b j 16 0))])
     ∧ mmaBeat .e4m3 acc a b i j = rounds (sumProducts (fp32.val acc) (pairs e4m3)) ∧ mmaBeat .e5m2 acc a b i j = rounds (sumProducts (fp32.val acc) (pairs e5m2))
     ∧ (∀ (c : FVal) (ps : List (FVal × FVal)) (q : Int), (∀ p ∈ (c, FVal.num false 1 0) :: ps, ∃ n m e n' m' e', p = (.num n m e, .num n' m' e') ∧ q ≤ e + e') →
       (∃ p ∈ (c, FVal.num false 1 0) :: ps, ∃ n m e n' m' e', p = (.num n m e, .num n' m' e') ∧ q = e + e') →
       let sum : Int := (((c, FVal.num false 1 0) :: ps).map fun p => (p.1.mul p.2).units q).sum
       sumProducts c ps = if sum = 0 then .num (((c, FVal.num false 1 0) :: ps).all fun p => (p.1.mul p.2).isNeg) 0 q else .num (decide (sum < 0)) sum.natAbs q)
     ∧ (∀ (f : BFmt) (e : BpEntry),
       let w : Nat := 16 / f.perBeat
       let x (k : Nat) : Nat := el a i w k
       let y (k : Nat) : Nat := el b j w k
       let r := mmbBeat f e a b i j
       let adds (old new : BitVec 80) (u v : Nat) : Prop :=
         let ks := (List.range f.perBeat).filter fun k => f.sel (x k) == u && f.sel (y k) == v
         new = if ks = [] then old else BitVec.ofInt 80 (BitVec.ofInt f.bpWidth (old.toInt + (ks.map fun k => f.elemInt (x k) * f.elemInt (y k)).sum)).toInt
       adds e.s00 r.s00 0 0 ∧ adds e.s01 r.s01 0 1 ∧ adds e.s10 r.s10 1 0 ∧ adds e.s11 r.s11 1 1
       ∧ ∀ k, r.flags.getLsbD k = true ↔ e.flags.getLsbD k = true ∨ ∃ n, n < f.perBeat ∧ (f.prodFlags (x n) (y n)).testBit k = true)
     ∧ (∀ (f : BFmt) (e : BpEntry),
       let byte (l : List Byte) (k : Nat) : Nat := (l.getD k 0#8).toNat
       let sa : List Nat := if f.fork = true then [byte a (2 * i), byte a (2 * i + 1)] else [byte a i]
       let sb : List Nat := if f.fork = true then [byte b (2 * j), byte b (2 * j + 1)] else [byte b j]
       let gone : Prop := 255 ∈ sa ++ sb
       let nan : Prop := f.fork = false ∧ (e.flags.getLsbD 0 = true ∨ (e.flags.getLsbD 1 = true ∧ e.flags.getLsbD 2 = true))
       let v := fp32.val acc
       let term (s : BitVec 80) (k n : Nat) : FVal := .num (decide (s.toInt < 0)) s.toInt.natAbs ((sa.getD k 127 : Int) - 127 + ((sb.getD n 127 : Int) - 127) + 2 * f.unitExp)
       (gone ∨ nan ∨ v.isNan = true → sacFold f e acc a b i j
         = (0x7FC00000, (if 255 ∈ sa ++ sb then flNB else 0#6) ||| if v.isSnan = true then flNV else 0#6))
       ∧ (¬ gone → ¬ nan → v.isNan = false →
         (∀ n, f.fork = false → (e.flags.getLsbD 1 = true ∨ e.flags.getLsbD 2 = true) → n = e.flags.getLsbD 2 → sacFold f e acc a b i j = rounds (sumExact [v, .inf n]))
         ∧ (f.fork = false → e.flags = 0#3 → sacFold f e acc a b i j = rounds (sumExact [v, term e.s00 0 0]))
         ∧ (f.fork = true → sacFold f e acc a b i j
           = rounds (sumExact [v, term e.s00 0 0, term e.s01 0 1, term e.s10 1 0, term e.s11 1 1])))))

/-- R238, R239, R243, R244: cld, cst, cadj and ctab take the configuration port of their hardware context when it is free and their checks
pass, and change nothing else at issue; a context of the other hardware context, an armed target or a unit that is no TABLE raises CANOPY_CONFIG, a base that
fails R118 its fault, an image that leaves the context's part PERMISSION (DEDUCED, log 23), and a busy port SLOT_REUSE. -/
def Obligations.CanopyConfigurationStarts : Prop :=
  ∀ (s : State) (c f : Fin 12) (rows : BitVec 4) (a : Fin 64) (u : Fin 32) (off : Nat), s.me.handling = false →
    let cn := (s.tile s.cur.tile).cn
    let free : Prop := cn.port s.cur.urgent = none
    let mine (c : Fin 12) : Prop := c = 11 ↔ s.cur.urgent = true
    let hi : Nat := if s.cur.urgent = true then 0x200000 else 0x1E0000
    let image (n : Nat) : Prop := s.wordTarget a 0 = .ok off ∧ off + 64 * n ≤ hi
    let words : Nat := 8 * (rowsOf rows).length
    let start (kind : CfgKind) (c : Fin 12) (rows : BitVec 4) (base : Nat) (recs : List Wide) : State :=
      let x : CfgCmd := ⟨s.me.flow.ord, s.cur.pc, s.cur.slot, s.clock, kind, c, rows, base, recs, none⟩
      s.onCn s.cur.tile fun n => n.setPort s.cur.urgent (some x)
    let records (c : Fin 12) : List Wide := (unitsIn rows).map fun u => cn.recOf u c
    let armed (c : Fin 12) : Prop := cn.armedIn c rows = true
    let tabUsed : Prop := ∃ w ∈ cn.whorls, (w.ctx = 11 ↔ s.cur.urgent = true) ∧ w.rows.getLsbD (u.val / 8) = true ∧ rEn (cn.recOf u w.ctx) = true
    let fails (i : Instr) (k : Cause) : Prop := exec i s = .next (s.trap k 0#64)
    (mine c → image words → ¬ armed c → free → exec (.cld c rows a) s = .next (start .cld c rows off []))
    ∧ (mine c → image words → free → exec (.cst c rows a) s = .next (start .cst c rows off (records c)))
    ∧ (mine f → mine c → f ≠ c → ¬ armed c → free → ∀ rs, adjoint (cn.enabled f rows) = some rs →
        exec (.cadj f c rows) s = .next (start .cadj c rows 0 ((unitsIn rows).map fun u => (rs.find? (·.1 == u)).elim 0#512 (·.2))))
    ∧ (kindOf u = .table → ¬ tabUsed → image 13 → free → exec (.ctab u a) s = .next (start (.ctab u) 0 0#4 off []))
    ∧ (¬ mine c → fails (.cld c rows a) .canopyConfig ∧ fails (.cst c rows a) .canopyConfig ∧ fails (.cadj c f rows) .canopyConfig
        ∧ fails (.cadj f c rows) .canopyConfig)
    ∧ (mine c → image words → armed c → fails (.cld c rows a) .canopyConfig)
    ∧ (mine f → mine c → f ≠ c → ¬ armed c → adjoint (cn.enabled f rows) = none → fails (.cadj f c rows) .adjointUnavailable)
    ∧ (kindOf u ≠ .table ∨ tabUsed → fails (.ctab u a) .canopyConfig)
    ∧ (mine f → mine c → f = c ∨ armed c → fails (.cadj f c rows) .canopyConfig)
    ∧ (mine c → image words → ¬ free → fails (.cst c rows a) .slotReuse ∧ (¬ armed c → fails (.cld c rows a) .slotReuse))
    ∧ (mine f → mine c → f ≠ c → ¬ armed c → ¬ free → ∀ rs, adjoint (cn.enabled f rows) = some rs → fails (.cadj f c rows) .slotReuse)
    ∧ (kindOf u = .table → ¬ tabUsed → image 13 → ¬ free → fails (.ctab u a) .slotReuse)
    ∧ (∀ e p, s.wordTarget a 0 = .error (e, p) →
      (mine c → exec (.cld c rows a) s = .next (s.trap e p) ∧ exec (.cst c rows a) s = .next (s.trap e p))
      ∧ (kindOf u = .table → ¬ tabUsed → exec (.ctab u a) s = .next (s.trap e p)))
    ∧ (s.wordTarget a 0 = .ok off →
      (mine c → hi < off + 64 * words → exec (.cld c rows a) s = .next (s.trap .permission (s.x a)) ∧ exec (.cst c rows a) s = .next (s.trap .permission (s.x a)))
      ∧ (kindOf u = .table → ¬ tabUsed → hi < off + 64 * 13 → exec (.ctab u a) s = .next (s.trap .permission (s.x a))))

/-- R240, R242, R241, R245: cctx and cparam take effect at issue + 1 where their checks pass; cwhorl joins the tile's commands with its start
cycle, and cdrain the drains its tile waits for. What then lands: cctx leaves its row the new mask, cparam its record the new parameter word (R240, R242);
a configuration command moves one bank word a cycle from the cycle after its issue on, which cst writes and cld and ctab read, and in its last cycle the
records of a cld, or of a cadj, stand in their context, and the image of a ctab in its table, where they pass R247; else CANOPY_CONFIG (R239, R243, R244). -/
def Obligations.CanopyParametersAndCommandsComplete : Prop :=
  ∀ (s : State) (r : Fin 4) (a k d : Fin 64) (u : Fin 32) (c p : Fin 12) (rows : BitVec 4), s.me.handling = false →
    let cn := (s.tile s.cur.tile).cn
    let mine : Prop := c = 11 ↔ s.cur.urgent = true
    let m : BitVec 12 := (s.x a).setWidth 12
    let several : Prop := ∃ w ∈ cn.whorls, w.rows.getLsbD r = true ∧ 1 < (rowsOf w.rows).length ∧ ∃ q ∈ rowsOf w.rows, vget cn.mask q 0#12 ≠ m
    let v : Nat := (s.x a).toNat % 2 ^ 32
    let after : Wide := setField (cn.recOf u c) (159 + 32 * p.val) (128 + 32 * p.val) v
    let decaying : Prop := kindOf u = .decay ∧ rEn (cn.recOf u c) = true ∧ cn.armedIn c (BitVec.ofNat 4 (2 ^ (u.val / 8))) = true
    let stepdep : Prop := (s.kernelOf s.cur.tile s.cur.urgent).any (·.stepdep) = true
    (s.cur.urgent = false → m.getLsbD 11 = false → ¬ several → exec (.cctx r a) s = .next (s.withAct 1 (.cctx r (s.x a))))
    ∧ (s.cur.urgent = true ∨ m.getLsbD 11 = true ∨ several → exec (.cctx r a) s = .next (s.trap .canopyConfig 0#64))
    ∧ (mine → p.val < (kindOf u).params → ¬ decaying → recordSound u after = true →
        exec (.cparam u c a p) s = .next (s.withAct 1 (.cparam u c p (BitVec.ofNat 32 v))))
    ∧ (mine → p.val < (kindOf u).params → decaying → (p = 2 ∨ p = 3) → (p = 2 → v % 2 = 1 ∨ stepdep) → recordSound u after = true →
        exec (.cparam u c a p) s = .next (s.withAct 1 (.cparam u c p (BitVec.ofNat 32 v))))
    ∧ (mine → decaying → p = 2 → v % 2 = 0 → ¬ stepdep → exec (.cparam u c a p) s = .next (s.trap .ringUndeclared 0#64))
    ∧ (¬ mine ∨ (kindOf u).params ≤ p.val ∨ (decaying ∧ p.val ≤ 1) → exec (.cparam u c a p) s = .next (s.trap .canopyConfig 0#64))
    ∧ (mine → p.val < (kindOf u).params → ¬ (decaying ∧ (p.val ≤ 1 ∨ (p = 2 ∧ v % 2 = 0 ∧ ¬ stepdep))) → recordSound u after = false →
        exec (.cparam u c a p) s = .next (s.trap .canopyConfig 0#64))
    ∧ (mine → exec (.cwhorl c rows k d) s = .next ({ s with nextId := s.nextId + 1 }.onCn s.cur.tile fun n =>
        { n with cmds := n.cmds ++ [WCmd.mk s.nextId s.me.flow.ord s.cur.pc s.cur.slot (s.clock + d.val) k c rows] }))
    ∧ (¬ mine → exec (.cwhorl c rows k d) s = .next (s.trap .canopyConfig 0#64))
    ∧ exec (.cdrain rows k) s = .next ({ s with nextId := s.nextId + 1 }.onCn s.cur.tile fun n =>
        { n with drains := n.drains ++ [DrainReq.mk s.nextId s.cur.urgent rows k s.clock] })
    ∧ (∀ (t : Nat) (e : Act), t < 480 →
      let old := (s.tile t).cn
      let z := s.landParam t e
      let new := (z.tile t).cn
      (∀ r v, e.kind = .cctx r v → z = s.onCn t fun n => { n with mask := n.mask.set r (v.setWidth 12) })
      ∧ (∀ (i : Fin 32) (f q : Fin 12) (w : BitVec 32), e.kind = .cparam i f q w →
        (∀ b, b < 512 → (new.recOf i f).getLsbD b
          = if 128 + 32 * q.val ≤ b ∧ b < 160 + 32 * q.val then w.getLsbD (b - (128 + 32 * q.val)) else (old.recOf i f).getLsbD b)
        ∧ (∀ j g : Nat, j ≠ i ∨ g ≠ f → new.recOf j g = old.recOf j g) ∧ new.mask = old.mask ∧ new.tabs = old.tabs ∧ new.inp = old.inp ∧ new.outp = old.outp))
    ∧ (∀ (t : Nat) (v : Bool) (now : Nat) (x : CfgCmd), t < 480 → (s.tile t).cn.port v = some x → x.cut = none →
      let old := (s.tile t).cn
      let words : Nat := match x.kind with
        | .cld | .cst => 8 * (rowsOf x.rows).length
        | .cadj => 0
        | .ctab _ => 13
      let last : Nat := match x.kind with
        | .cld => x.iss + words + 1
        | .cst => x.iss + words
        | .cadj => x.iss + 8
        | .ctab _ => x.iss + 14
      (∀ j, j < words → now = x.iss + 1 + j →
        let z := s.configMove t v now
        (x.kind = .cst → (z.tile t).spad = (s.tile t).spad.write (x.base + 64 * j) (leBytes 64 (x.recs.getD j 0#512).toNat)
          ∧ (z.tile t).cn.port v = (if j + 1 = words then none else some x) ∧ z.hbm = s.hbm ∧ s.sameRegisters z)
        ∧ (x.kind ≠ .cst → s.badLoc (.spad t ((x.base + 64 * j) / 64 * 64)) 64 = false →
          z = s.onCn t fun n => n.setPort v (some { x with recs := x.recs ++ [BitVec.ofNat 512 (leNat ((s.tile t).spad.read (x.base + 64 * j) 64))] })))
      ∧ (now ≠ last → s.landConfig t v now = s)
      ∧ (now = last →
        let z := s.landConfig t v now
        let new := (z.tile t).cn
        let us := (List.range 32).filter fun u => x.rows.getLsbD (u / 8)
        let fails : Prop := z = s.raise t v .canopyConfig 0#64 x.pc x.slot
        let stands : Prop := (∀ n u, us[n]? = some u → n < x.recs.length → new.recOf u x.ctx = x.recs.getD n 0#512)
          ∧ (∀ u g : Nat, u ∉ us ∨ g ≠ x.ctx → new.recOf u g = old.recOf u g) ∧ new.mask = old.mask ∧ new.tabs = old.tabs ∧ new.inp = old.inp
          ∧ new.outp = old.outp ∧ s.sameMemory z ∧ s.sameRegisters z
        let sound : Prop := ∀ n u, us[n]? = some u → n < x.recs.length → recordSound u (x.recs.getD n 0#512) = true
        (x.kind = .cst → z = s) ∧ (x.kind = .cadj → stands) ∧ (x.kind = .cld → (sound → stands) ∧ (¬ sound → fails))
        ∧ (∀ i : Fin 32, x.kind = .ctab i →
          let tab : Vector Wide 13 := Vector.ofFn fun j => x.recs.getD j.val 0#512
          (tabSound tab = true → z = s.onCn t fun n => { n with tabs := vset n.tabs (tabPlace i v) tab }) ∧ (tabSound tab = false → fails))))

/-- R348, R352, R353, R354: barm, barv, bars and barvw: a request of the tile to the barrier of its group's home die, its arrivals counted in
OUT; a weight of zero arrives nowhere, and an expected count of zero or a ninth outstanding arrival raise BARRIER_STATE. -/
def Obligations.BarrierInstructionsComplete : Prop :=
  ∀ (s : State) (b a : Fin 64), s.me.handling = false →
    let v := (s.x a).toNat
    let w := v % 2 ^ 12
    let die : Nat := (s.groupOf s.cur.tile s.cur.urgent).elim 0 (·.place.die)
    let full : Prop := (s.me.bars[b]).out = 8
    let room : Prop := s.me.cmdq.length < (if s.cur.urgent = true then 16 else 64)
    let send (s : State) (arm : Option (Nat × Bool)) (w : Nat) : State :=
      { s with
        nextId := s.nextId + 1
        crown.bReqs := s.crown.bReqs ++ [⟨s.nextId, s.nextId, s.me.group.getD 0, s.cur.tile, s.cur.urgent, die, b, arm, w, false⟩] }
    let counted : State := s.onMe fun c => { c with bars := c.bars.set b { c.bars[b] with out := c.bars[b].out + 1 } }
    (w = 0 → exec (.barm b a) s = .next (s.trap .barrierState 0#64))
    ∧ (w ≠ 0 → exec (.barm b a) s = .next (send s (some (w, (s.x a).getLsbD 16)) 0))
    ∧ (w = 0 → exec (.barv b a) s = .next s ∧ exec (.bars b a) s = .next s)
    ∧ (w ≠ 0 → full → exec (.barv b a) s = .next (s.trap .barrierState 0#64) ∧ exec (.bars b a) s = .next (s.trap .barrierState 0#64))
    ∧ (full → exec (.barvw b) s = .next (s.trap .barrierState 0#64))
    ∧ (s.cur.tile < 480 → w ≠ 0 → ¬ full → exec (.barv b a) s = .next (send counted none w))
    ∧ (w ≠ 0 → ¬ full → ¬ room → exec (.bars b a) s = .next (s.trap .cmdqFull 0#64))
    ∧ (s.cur.tile < 480 → w ≠ 0 → ¬ full → room → exec (.bars b a) s = .next (({ counted with nextId := s.nextId + 1 } : State).onMe fun c => { c with
        cmdq := c.cmdq ++ [⟨s.me.flow.ord, .bars b w s.nextId, s.outstanding⟩] }))
    ∧ (s.cur.tile < 480 → ¬ full → exec (.barvw b) s = .next ((send counted none 1).onMe fun c => { c with
        flow := { c.flow with wait := some (.barw b (s.me.bars[b]).done), newSpan := some false } }))

/-- R312, R287, R265, R266, R313: esc and qlaunch sample their record two cycles after issue; stepadv adds to the pending advance; rfac and txstat
write their results. When they land: stepadv adds to its kernel's advance; esc reads its 64 bytes, raises ESC_INVALID where the record does not fit and
stages nothing, and otherwise hands its bytes over; qlaunch hands its record over; a kernel stages what is handed over, with the token of a transactional
qlaunch, and beyond 1,024 staged escapes holds it or aborts with SAP_FULL (R303). -/
def Obligations.EscapesLaunchesAndStepsComplete : Prop :=
  ∀ (s : State) (k a b d : Fin 64) (i : BitVec 12) (sel : Fin 8) (g : Group) (n : Kernel), s.fitCore →
    s.groupOf s.cur.tile s.cur.urgent = some g → s.kernelOf s.cur.tile s.cur.urgent = some n → g.id = n.id → s.me.group = some n.id → s.kernel n.id = some n →
    let opened : State := { s with
      nextId := s.nextId + 1
      crown.kernels := s.crown.kernels.map fun x => if x.id == n.id then { x with
        escapes := x.escapes ++ [⟨s.nextId, s.clock, s.cur.tile, s.me.flow.ord, none, false, false⟩] } else x }
    let q := (s.x a).toNat % 2 ^ 11
    let own : Prop := (s.queue q).st ≠ .unbound ∧ (s.queue q).ctx = g.ctx
    let add := (s.x a).toNat % 2 ^ 32
    let y := s.x b
    let h : Nat := max 1 (min 12288 (y.toNat / 2 ^ 32 % 2 ^ 14))
    let f := decayed (y.toNat % 2 ^ 32) h ((s.x a).toNat % 2 ^ 32) ((s.x a).toNat / 2 ^ 32 % 2 ^ 16)
    (∀ off, s.wordTarget b (i.toInt * 64) = .ok off → exec (.esc b i) s = .next (opened.withAct 2 (.esc off (ptrOwn off) s.nextId)))
    ∧ (∀ c p, s.wordTarget b (i.toInt * 64) = .error (c, p) → exec (.esc b i) s = .next (s.trap c p))
    ∧ (¬ own → exec (.qlaunch k a b) s = .next (s.trap .queueInvalid 0#64))
    ∧ (own → ∀ c p, s.wordTarget b 0 = .error (c, p) → exec (.qlaunch k a b) s = .next (s.trap c p))
    ∧ (own → ∀ off, s.wordTarget b 0 = .ok off → n.ticket = none ∨ n.captured < 1024 ∨ n.inPlace = true ∨ n.waitsForPlace = true →
        exec (.qlaunch k a b) s = .next (opened.withAct 2 (.qlaunch q k off s.nextId)))
    ∧ (n.stepdep = false → exec (.stepadv a) s = .next (s.trap .ringUndeclared 0#64))
    ∧ (n.stepdep = true → s.pendingAdvance g + add ≤ 4096 → exec (.stepadv a) s = .next (s.withAct 1 (.stepadv (BitVec.ofNat 64 add))))
    ∧ (n.stepdep = true → 4096 < s.pendingAdvance g + add → exec (.stepadv a) s = .next (s.trap .stepRange 0#64))
    ∧ exec (.rfac d a b) s = .next (s.withFlagged 8 f.2 (.x d) (BitVec.ofNat 512 f.1) allBits)
    ∧ (∃ z v, exec (.txstat d sel) s = .next (z.withX 2 d v) ∧ s.sameArchitecture z ∧ z.me = s.me
        ∧ (sel = 0 → v = BitVec.ofNat 64 (n.ticket.getD 0x10000)) ∧ (sel = 1 → v = (s.ctxt g.ctx).ct.setWidth 64)
        ∧ (sel = 3 → v = BitVec.ofNat 64 n.aborts)
        ∧ (sel = 2 → v = BitVec.ofNat 64 ((if n.ticket ≠ none then 1 else 0) + (if n.serial = true then 2 else 0) + (if n.inPlace = true then 4 else 0)
          + (if n.stepdep = true then 8 else 0) + if fieldOf n.record 148 148 = 1 then 16 else 0))
        ∧ (sel = 4 → v = BitVec.ofNat 64 (if n.ticket = none then 0
          else (n.escapes.filter fun e => e.what ≠ none ∧ e.held = false ∧ (n.inPlace = true → e.early = true)).length))
        ∧ (sel = 6 → v = BitVec.ofNat 64 (n.disp + fieldOf n.record 447 400 - s.gcyc.toNat))
        ∧ ∃ e ∈ s.countPool.roots.counted, (sel = 5 → v = BitVec.ofNat 64 (e.2.filter fun l => l.1 = g.ctx ∧ n.ticket = some l.2).length)
          ∧ (sel = 7 → v = BitVec.ofNat 64 (s.poolLines g.ctx - (e.2.filter fun l => l.1 = g.ctx).length)))
    ∧ (let l := s.countPool.roots.counted
       l.head?.map (·.2) = some s.heldLines ∧ ∀ i e, l[i]? = some e → i + 1 < l.length → s.gcyc.toNat < e.1 + 256)
    ∧ (∀ (t : Nat) (u : Bool) (x : Act), t < 480 → s.groupOf t u = some g → s.kernelOf t u = some n →
      let at_ (off : Nat) : Wide := BitVec.ofNat 512 (leNat ((s.tile t).spad.read off 64))
      let quiet (off : Nat) : Prop := (s.tctx t u).watches (ptrOwn off) true false = false
      let sound (off : Nat) : Prop := s.badLoc (.spad t off) 64 = false
      let dropped (id : Nat) : State := s.dropEscape t u id
      (∀ v, x.kind = .stepadv v → (s.sampleAct t u x).kernel n.id = some { n with advance := n.advance + v.toNat })
      ∧ (∀ off p id, x.kind = .esc off p id → quiet off → sound off →
          let r := at_ off
          (s.escSound (s.ctxOf t u) r = false → s.sampleAct t u x = (dropped id).raise t u .escInvalid 0#64 x.pc x.slot)
          ∧ (s.escSound (s.ctxOf t u) r = true → s.sampleAct t u x
            = s.handOver t u id (.post (BitVec.ofNat 64 (r.toNat % 2 ^ 64)) ((leBytes 48 (r.toNat / 2 ^ 128)).take (r.toNat / 2 ^ 64 % 2 ^ 8)))))
      ∧ (∀ off p id, x.kind = .esc off p id → quiet off → ¬ sound off → s.sampleAct t u x = (dropped id).spoilCore t u)
      ∧ (∀ q k off id, x.kind = .qlaunch q k off id → quiet off → sound off → s.sampleAct t u x = s.handOver t u id (.launch q (at_ off) k))
      ∧ (∀ id w e, n.escapes.find? (·.id == id) = some e → e.what = none →
          let z := s.handOver t u id w
          let set (held : Bool) : List Escape := n.escapes.map fun y => if y.id == id then { y with what := some w, held := held } else y
          let token : Prop := ∃ q r k, w = .launch q r k ∧ k ≠ 63 ∧ n.ticket ≠ none
          let full : Prop := n.ticket ≠ none ∧ n.inPlace = false ∧ 1024 ≤ n.captured
          (¬ full → z.kernel n.id = some { n with escapes := set false }
            ∧ (¬ token → z.tokIn = s.tokIn)
            ∧ (∀ q r k, w = .launch q r k → k ≠ 63 → n.ticket ≠ none → z.tokIn = s.tokIn ++ [(t, u, k, 1, (s.tctx t u).group)]))
          ∧ (full → n.waitsForPlace = true → z.kernel n.id = some { n with escapes := set true, wantsPlace := true } ∧ z.tokIn = s.tokIn)
          ∧ (full → n.waitsForPlace = false → z = s.abort n.id .sapFull)))

/-- R153, R64, R170, R171, R178, R179, R181: the streams' own steps: an element of an affine stream between scratchpads is read, and written;
a full ring word is written and its token sent; the read-done token; a stream that has written everything sends its completion token and
leaves its engine. R153 to R157, R161, R255, R293, R294: an element of a tensor is read, plain, decayed or expanded, as its kernel sees it, and written or
merged into heartwood or into the kernel's own version; COORD_RANGE outside the tensor, and an earlier stream's overlapping elements go first. R257: what a
stamped add or a restamp makes of a ring group. R159, R210, R155: the next lane of an out port is read, an element joins the word of an in port, which lands
when it is full or its segment ends, or the word of a ring. R154: an index value is taken, and what it changes of the walk. R163 to R166, R177: a decoder's
source is decoded, or DECODE_ERROR, and its output written. R156, R158: with check, an element that comes with a check value that does not fit is not written, and the stream stops with INTEGRITY;
without it the word it is written to keeps a check value that does not fit, where the element fills the word (that a word keeps such a mark is the model's,
DEDUCED, log 73). R382: what a stream has for the host leaves as one write, which R382 bounds and the model cuts as log 47 says (DESIGN CHOICE). R368: a read
of a version walks its pool leaf, where a failing check is fatal. That a merge add into FP16 or FP8 is the format's sum without saturation is the model's
choice (DEDUCED, log 49), as is that a stream which a switch may suspend stands with at most four elements read and not written (DESIGN CHOICE, log 67). -/
def Obligations.StreamsMoveElementsAndComplete : Prop :=
  ∀ (s : State) (n t : Nat) (x : Stream), t < 480 → s.stream n = some x → x.tile = t → x.engine.isSome = true →
    let resting : Prop := x.suspends = true
      ∧ ((x.grouped = false ∧ 4 ≤ x.buf.length) ∨ (x.atBoundary = true ∧ ∃ g, s.group x.group = some g ∧ g.st = .switching))
    let told (k : Fin 64) : List (Nat × Bool × Fin 64 × Nat × Option Nat) := if k = 63 then [] else [(t, x.urgent, k, 1, (s.tctx t x.urgent).group)]
    let second : Fin 64 := if 62 ≤ x.kdone.val then 63 else x.kdone + 1
    let size : Nat := max 1 (x.width / 8)
    let open_ (o k : Nat) : Prop := ∀ b ∈ (Loc.spad t o).banks k, b ∉ s.busy
    let wrote (z : State) (o : Nat) (bs : List Byte) : Prop :=
      (z.tile t).spad = (s.tile t).spad.write o bs ∧ (∀ i, i ≠ t → (z.tile i).spad = (s.tile i).spad) ∧ (∀ i, (z.tile i).imem = (s.tile i).imem)
        ∧ z.hbm = s.hbm ∧ z.shared = s.shared ∧ s.sameRegisters z
    (resting → ∀ e, exec (.streamElementTransfer t n e 0 false) s = .next s)
    ∧ (∀ (e o : Nat), ¬ resting → x.op ≠ .sdec → x.loose = true → x.width ≠ 4 → s.blocked x e false = false → x.hasRead e = false → (∀ k ∈ x.total, e < k) →
      wEnd x.src = 1 → ptrSpace (wBase x.src) = 1 → s.place x x.src t (wOffset x.src x.width (wAffine x.src e)).1 size = .ok (.spad t o) →
      open_ o size → ∃ z y b, exec (.streamElementTransfer t n e 0 false) s = .next z ∧ z.stream n = some y
        ∧ y.buf = x.buf ++ [b] ∧ b.n = e ∧ b.bad = false ∧ b.val = leNat ((s.tile t).spad.read o size) ∧ y.dst = x.dst ∧ y.wroteTo = x.wroteTo
        ∧ s.sameMemory z ∧ s.sameRegisters z ∧ z.tokIn = s.tokIn)
    ∧ (∀ (e o : Nat) (b : BufElem), x.op ≠ .sdec → x.loose = true → x.width ≠ 4 → s.blocked x e true = false →
      x.buf.find? (·.n == e) = some b → b.left = [0] → wEnd x.dst = 1 → ptrSpace (wBase x.dst) = 1 → wMulticast x.dst = false →
      (b.bad = true → x.checks = true → exec (.streamElementTransfer t n e 0 true) s = .next (s.streamTrap x e .integrity))
      ∧ ((b.bad = true → x.checks = false) →
        s.place x x.dst t (wOffset x.dst x.width (wAffine x.dst e)).1 size = .ok (.spad t o) → open_ o size →
        ∃ z y, exec (.streamElementTransfer t n e 0 true) s = .next z ∧ z.stream n = some y ∧ y.buf = x.buf.filter (·.n != e)
          ∧ wrote z o (leBytes size b.val) ∧ z.tokIn = s.tokIn ∧ (∀ i ∈ wordSpan o size, i ∈ (z.tile t).spadBad
            ↔ b.bad = true ∧ x.fillsWord e (wOffset x.dst x.width (wAffine x.dst e)).1 (wOffset x.dst x.width (wAffine x.dst e)).2 = true)))
    ∧ (∀ (r : Ring), (s.tctx t x.urgent).rings.find? (·.base == wBase x.dst) = some r → wPattern x.dst = 4 → x.pack.length = 512 / x.width →
      r.written - r.released < r.cap → s.streamHeld x = false → open_ (ptrOff (wBase x.dst) + 64 * (r.written % r.cap)) 64 →
      ∃ z, exec (.ringWordWrite t n) s = .next z
        ∧ wrote z (ptrOff (wBase x.dst) + 64 * (r.written % r.cap))
          (leBytes ((x.pack.length * x.width + 7) / 8) (x.pack.foldr (fun v a => v + a * 2 ^ x.width) 0))
        ∧ (z.tctx t x.urgent).rings = (s.tctx t x.urgent).rings.map (fun q => if q.base == wBase x.dst then { q with written := q.written + 1 } else q)
        ∧ z.tokIn = s.tokIn ++ told x.kdone)
    ∧ (x.op ≠ .sdec → x.op ≠ .sring → x.mode = 1 → x.readTok = false → s.sourceOver x = true → s.streamHeld x = false →
      ∃ z y, exec (.streamReadDone t n) s = .next z ∧ z.stream n = some y ∧ y = { x with readTok := true } ∧ z.tokIn = s.tokIn ++ told second
        ∧ s.sameArchitecture { z with tokIn := s.tokIn })
    ∧ (s.allWritten x = true → (x.op = .sring ∨ x.mode = 0 ∨ x.readTok = true) → x.escape = none → wNotify x.dst = false → wEnd x.dst ≠ 3 →
      s.streamHeld x = false → t ∉ x.tokens → ∃ z, exec (.streamComplete t n t) s = .next z ∧ z.traffic.streams = s.traffic.streams.filter (·.id != x.id)
        ∧ z.tokIn = s.tokIn ++ told (if x.op = .sring then (if x.mode = 1 then second else 63) else x.kdone)
        ∧ s.sameMemory z ∧ s.sameRegisters z)
    ∧ (∀ (r : Run) (a : Nat), x.run = some r → s.sourceOver x = true ∨ resting → x.buf = [] → (x.op = .sring ∨ x.mode = 0 ∨ x.readTok = true) →
      x.escape = none → wEnd x.dst = 2 → s.streamHeld x = false → s.hostPlace x r.off r.data.length = .ok a → s.pcieUp = true →
      ∃ z, exec (.streamComplete t n t) s = .next z ∧ z.links.out = s.links.out ++ [.hostWrite a r.data] ∧ z.stream n = some { x with run := none }
        ∧ s.sameMemory z ∧ s.sameRegisters z ∧ z.tokIn = s.tokIn)
    ∧ (∀ (e : Nat) (d : TensorV), ¬ resting → x.op ≠ .sdec → x.loose = true → s.blocked x e false = false → x.hasRead e = false → (∀ k ∈ x.total, e < k) →
      wEnd x.src = 0 → x.srcT = some d →
      let co := wCoords x.src (wAffine x.src e)
      let c := co.map Int.toNat
      let run := exec (.streamElementTransfer t n e 0 false) s
      (inExtents d.desc (wExpand x.src) co = false → run = .next (s.streamTrap x e .coordRange))
      ∧ (inExtents d.desc (wExpand x.src) co = true → s.overlapped x (readsAt x.src d c) false = true → run = .next s)
      ∧ (inExtents d.desc (wExpand x.src) co = true → s.overlapped x (readsAt x.src d c) false = false →
        (∀ v bad z0 y, s.tensorSource x e d c = .ok (v, bad) z0 → z0.stream n = some y → ∃ z y' b, run = .next z ∧ z.stream n = some y'
          ∧ y'.buf = y.buf ++ [b] ∧ b.n = e ∧ b.val = v ∧ b.bad = bad ∧ y'.hasRead e = true ∧ z.hbm = z0.hbm ∧ z.tokIn = z0.tokIn)
        ∧ (∀ z0, s.tensorSource x e d c = .wait z0 → run = .next z0)
        ∧ (∀ f z0, s.tensorSource x e d c = .fault f z0 → run = .next (z0.streamTrap x e f))))
    ∧ (∀ (e : Nat) (d : TensorV) (c : List Nat), let src := s.tensorSource x e d c
      (wExpand x.src = false → wDecay x.src = false → ∀ p high panel z0, s.rootPlace x e d c false false = .ok (p, high, panel) z0 →
        ∃ z : State, src = .ok (pickNibble d.width high (leNat (z0.viewBytes (z0.streamKey x) p.phys (elemBytes d.width))),
            z0.viewBad (z0.streamKey x) p.phys (elemBytes d.width)) (z.see x p)
          ∧ z.hbm = z0.hbm ∧ z.roots = z0.roots
          ∧ ∀ k, z0.kernel x.group = some k → k.ticket.isSome = true → z.kernel x.group = some { k with reads := addPanel k.reads panel })
      ∧ (wExpand x.src = false → wDecay x.src = true → ∀ g, x.views.find? (·.first == groupFirst c) = some g →
        let age := ((((s.streamStep x : Nat) : Int) - (g.stamp : Nat)) % 2 ^ 16).toNat
        let y := decayed (descDecay d.desc).1 (descDecay d.desc).2 (g.vals.getD (c.getD 0 0 % 32) 0) age
        ∃ z, src = .ok (y.1, false) z ∧ (z.tctx t x.urgent).cr.fpstat = (s.tctx t x.urgent).cr.fpstat ||| y.2)
      ∧ (wExpand x.src = true → ∀ m z0, s.rootUse x e (companionView d.aux (auxTid d.desc)) [metaOf d.desc c, 0, 0, 0] false = .ok m z0 →
        let at0 := c.getD 0 0
        let stored (k : Nat) : Acc (Nat × Bool) := z0.storedSource x e d (c.set 0 (2 * (at0 / 4) + k))
        (16 ≤ m ∨ m / 4 ≤ m % 4 → src = .fault .expandMeta z0)
        ∧ (m < 16 → m % 4 < m / 4 → (at0 % 4 = m % 4 → src = stored 0) ∧ (at0 % 4 = m / 4 → src = stored 1)
          ∧ (at0 % 4 ≠ m % 4 → at0 % 4 ≠ m / 4 → src = .ok (0, false) z0))))
    ∧ (∀ (e mode v : Nat) (d : TensorV) (c : List Nat) (bad whole high : Bool) (p : Spot) (panel : Nat) (z0 : State),
      s.rootPlace x e d c true true = .ok (p, high, panel) z0 →
      let y0 := if mode = 0 then z0 else z0.see x p
      let key := y0.streamKey x
      let line := lineOfAddr p.phys
      let old := leNat (z0.viewBytes (z0.streamKey x) p.phys (elemBytes d.width))
      let bytes := elemData d.width (if mode = 0 then v else (mergeValue (descFmt d.desc) mode old v).1) high old
      (mode ≠ 0 → bad = false ∧ z0.viewBad (z0.streamKey x) p.phys (elemBytes d.width) = false) →
      (∀ z1, key = none → y0.settleCopies [line] = (.done, z1) → z1.streamKey x = none → p.phys + bytes.length ≤ hbmEnd →
        ∃ z, s.rootWrite x e d c mode v bad whole = .ok () z ∧ z.hbm = z1.hbm.write p.phys bytes ∧ z.roots.versions = z1.roots.versions)
      ∧ (∀ q tk k ver i j z1, key = some (q, tk) → y0.streamKernel x = some k → y0.ownVersion q tk line = some ver →
        State.walkPool q [ver.slot] y0 = (.ok i j, z1) → z1.roots.versions = y0.roots.versions →
        ∃ z ver', s.rootWrite x e d c mode v bad whole = .ok () z ∧ z.hbm = z1.hbm ∧ z.ownVersion q tk line = some ver' ∧ ver'.slot = ver.slot
          ∧ ver'.data = patchBytes ver.data (p.phys % 256) bytes))
    ∧ (∀ (e : Nat) (d : TensorV) (b : BufElem), x.op ≠ .sdec → x.loose = true → s.blocked x e true = false → x.buf.find? (·.n == e) = some b →
      b.left = [0] → wEnd x.dst = 0 → x.dstT = some d → (b.bad = true → x.checks = false) →
      let co := wCoords x.dst (wAffine x.dst e)
      let c := co.map Int.toNat
      let put := s.rootWrite x e d c 0 b.val b.bad (x.fillsLine e d c)
      let run := exec (.streamElementTransfer t n e 0 true) s
      (inExtents d.desc false co = false → run = .next (s.streamTrap x e .coordRange))
      ∧ (inExtents d.desc false co = true → s.overlapped x (writesAt false d c) true = true → run = .next s)
      ∧ (inExtents d.desc false co = true → s.overlapped x (writesAt false d c) true = false →
        (∀ z0, put = .ok () z0 → z0.stream n = some x → ∃ z y, run = .next z ∧ z.stream n = some y ∧ y.buf = x.buf.filter (·.n != e) ∧ y.hasWritten e = true
          ∧ z.hbm = z0.hbm ∧ z.roots.versions = z0.roots.versions ∧ z.tokIn = z0.tokIn)
        ∧ (∀ z0, put = .wait z0 → run = .next z0) ∧ (∀ f z0, put = .fault f z0 → run = .next (z0.streamTrap x e f))))
    ∧ (∀ (own : Option (Nat × Nat)) (a ticket tile : Nat),
      (s.seenVersion own (a / 256) = none → s.seeVersion own a ticket tile = s)
      ∧ (∀ v, s.seenVersion own (a / 256) = some v → ∀ w z0, s.flatWalk (s.ctxt v.ctx).poolRoot (v.slot / 2048) false (s.ctxt v.ctx).secure false = (w, z0) →
        (∀ f, w = .trap f → s.seeVersion own a ticket tile = z0.poolFault v.ctx f (v.spot.v + a % 256) v.spot.tid ticket tile false)
        ∧ ((∀ f, w ≠ .trap f) → s.seeVersion own a ticket tile = z0)))
    ∧ (∀ (f old new : Nat), (∀ g, mergeFmt f = some g → mergeValue f 1 old new = g.add old new ∧ mergeValue f 2 old new = g.extreme true [old, new]
        ∧ mergeValue f 3 old new = g.extreme false [old, new])
      ∧ (mergeFmt f = none → ∀ w, fmtBits f = some w → let val (v : Nat) : Int := if 11 ≤ f ∧ f ≤ 14 then sx w v else v
        mergeValue f 1 old new = ((old + new) % 2 ^ w, 0#6)
        ∧ (∃ m, mergeValue f 2 old new = (m, 0#6) ∧ (m = old ∨ m = new) ∧ val m ≤ val old ∧ val m ≤ val new)
        ∧ (∃ m, mergeValue f 3 old new = (m, 0#6) ∧ (m = old ∨ m = new) ∧ val old ≤ val m ∧ val new ≤ val m)))
    ∧ (∀ (lam h sc sv : Nat) (vs cs : List (Nat × Nat)), sc < 2 ^ 16 → sv < 2 ^ 16 →
      let age := (((sc : Int) - sv) % 2 ^ 16).toNat
      let of (i : Nat) : List Nat := (cs.filter (·.1 == i)).map (·.2)
      let older := age < 2 ^ 15
      let add := groupStep false lam h sc sv vs cs
      let re := groupStep true lam h sc sv vs cs
      re.2.1 = sc ∧ add.2.1 = (if older then sc else sv) ∧ re.1.length = vs.length ∧ add.1.length = vs.length
      ∧ (∀ (k i v : Nat), vs[k]? = some (i, v) → re.1[k]? = some (i, if of i = [] then (decayed lam h v age).1 else (of i).getLastD 0))
      ∧ (older → ∀ (k i v : Nat), vs[k]? = some (i, v) → add.1[k]? = some (i, (of i).foldl (fun a c => (fp32.add a c).1) (decayed lam h v age).1))
      ∧ (¬ older → ∀ (k i v : Nat), vs[k]? = some (i, v) →
        add.1[k]? = some (i, (of i).foldl (fun a c => (fp32.add a (decayed lam h c (2 ^ 16 - age)).1).1) v)))
    ∧ (∀ (e i : Nat) (w : CWord) (r : List CWord), ¬ resting → x.op ≠ .sdec → wEnd x.src = 3 → x.width ≤ 32 → e = x.readTo → s.blocked x e false = false →
      s.sourceOver x = false → vget (s.tile t).cn.outp (wPort x.src) [] = w :: r → i < 16 → w.lanes.act.getLsbD i = true →
      (∀ j, j < i → w.lanes.act.getLsbD j = false) →
      let left := w.lanes.act &&& ~~~(BitVec.ofNat 16 (2 ^ i))
      ∃ z y b, exec (.streamElementTransfer t n e 0 false) s = .next z ∧ z.stream n = some y ∧ y.buf = x.buf ++ [b] ∧ b.n = e
        ∧ b.val = lane w.lanes.val i % 2 ^ x.width ∧ b.rows = w.rows
        ∧ vget (z.tile t).cn.outp (wPort x.src) [] = (if left = 0#16 then r else { w with lanes.act := left } :: r) ∧ s.sameMemory z ∧ s.sameRegisters z)
    ∧ (∀ (e : Nat) (b : BufElem), x.op ≠ .sdec → x.grouped = false → wEnd x.dst = 3 → x.width ≤ 32 → e = x.wroteTo → s.blocked x e true = false →
      x.buf.find? (·.n == e) = some b → b.bad = false → b.left = [0] →
      let port := wPort x.dst
      let words := vget (s.tile t).cn.inp port []
      let left := b.seg.getD x.segLeft
      let pre := if b.seg.isSome = true then b.seg else x.pre
      let full := left ≤ 1 ∨ x.pack.length = 15
      let pack := if left = 0 then [] else x.pack ++ [b.val]
      let run := exec (.streamElementTransfer t n e 0 true) s
      (full → 4 ≤ words.length → run = .next s)
      ∧ (¬ full → ∃ z y, run = .next z ∧ z.stream n = some y ∧ y.buf = x.buf.filter (·.n != e) ∧ y.pack = pack ∧ y.pre = pre ∧ y.segLeft = left - 1
        ∧ vget (z.tile t).cn.inp port [] = words ∧ s.sameMemory z ∧ s.sameRegisters z)
      ∧ (full → words.length < 4 → ∃ z y w, run = .next z ∧ z.stream n = some y ∧ y.buf = x.buf.filter (·.n != e) ∧ y.pack = [] ∧ y.pre = none
        ∧ y.segLeft = left - 1 ∧ vget (z.tile t).cn.inp port [] = words ++ [w] ∧ w.pre = pre ∧ w.rows = (if x.urgent = true then 0xF0#8 else 0x0F#8) ∧ s.sameMemory z ∧ s.sameRegisters z
        ∧ (pack.length ≤ 16 → (∀ v ∈ pack, v < 2 ^ 32) → ∀ i, i < 16 → w.lanes.act.getLsbD i = decide (i < pack.length) ∧ lane w.lanes.val i = pack.getD i 0)))
    ∧ (∀ (e : Nat) (b : BufElem), x.op ≠ .sdec → x.grouped = false → wEnd x.dst ≠ 3 → wPattern x.dst = 4 → e = x.wroteTo →
      x.pack.length < 512 / x.width → s.blocked x e true = false → x.buf.find? (·.n == e) = some b → b.left = [0] → (b.bad = true → x.checks = false) →
      ∃ z y, exec (.streamElementTransfer t n e 0 true) s = .next z ∧ z.stream n = some y ∧ y.buf = x.buf.filter (·.n != e) ∧ y.pack = x.pack ++ [b.val]
        ∧ y.foul = (x.foul || b.bad) ∧ s.sameMemory z ∧ s.sameRegisters z)
    ∧ (∀ (e : Nat) (i : Wide), ¬ resting → x.op ≠ .sdec → x.loose = false → wEnd x.src ≠ 3 → e = x.srcCur.count → s.blocked x e false = false →
      x.srcCur.step x.src (wEnd x.dst == 3) = .index → wIndexPort x.src = none → x.srcIdx = some i → ptrSpace (wBase i) = 1 →
      let k := x.srcCur.taken
      let o := (wOffset i 32 (wAffine i k)).1
      let run := exec (.streamElementTransfer t n e 0 false) s
      ((∃ m, wTotal i = some m ∧ m ≤ k) → run = .next (s.streamTrap x e .segmentMismatch))
      ∧ ((∀ m, wTotal i = some m → k < m) → ∀ a, s.place x i t o 4 = .ok (.spad t a) → open_ a 4 →
        ∃ z, run = .next z ∧ z.stream n = some { x with srcCur := x.srcCur.take x.src (wEnd x.dst == 3) (leNat ((s.tile t).spad.read a 4)) }
          ∧ s.sameMemory z ∧ s.sameRegisters z))
    ∧ (∀ (w : Wide) (c : Cursor) (v : Nat), let st := wStride w
      (wPattern w = 1 → c.idx = some v → c.terms w = (c.i3 * st 3, c.i2 * st 2, v * st 1, c.i0 * st 0))
      ∧ (wPattern w = 2 → c.idx = some v → c.rowLen w = v ∧ c.terms w = (c.i3 * st 3, c.i2 * st 2, c.i1 * st 1, c.i0 * st 0))
      ∧ (wPattern w = 3 → c.idx = some v → c.terms w = (0, 0, (v / 2 ^ 16 : Nat) * st 2 + c.i1 * st 1, (v % 2 ^ 16 : Nat) * st 3 + c.i0 * st 0)))
    ∧ (x.op = .sdec → x.output = none → x.unit.isSome = true → s.streamHeld x = false → x.total = some x.readTo → (x.mode = 0 ∨ x.readTok = true) →
      let run := exec (.streamReadDone t n) s
      let fits (l : List (Bool × Nat × Nat × Nat)) : Prop := ∀ q ∈ l, ∃ d, (if q.1 = true then x.patchT else x.dstT) = some d
        ∧ q.2.1 < descExt d.desc 1 ∧ q.2.2.1 < descExt d.desc 0
      (decodePicture (x.buf.map (·.val)) = none → run = .next (s.streamTrap x x.readTo .decodeError))
      ∧ (∀ p, decodePicture (x.buf.map (·.val)) = some p →
        (¬ fits (pageOutput p (wAux x.dst)) → run = .next (s.streamTrap x x.readTo .decodeError))
        ∧ (fits (pageOutput p (wAux x.dst)) → ∃ z, run = .next z ∧ z.stream n = some { x with buf := [], output := some (pageOutput p (wAux x.dst)) }
          ∧ s.sameMemory z ∧ s.sameRegisters z ∧ z.tokIn = s.tokIn)))
    ∧ (∀ (e c1 c0 v : Nat) (patch : Bool) (out : List (Bool × Nat × Nat × Nat)) (d : TensorV), x.op = .sdec → x.output = some out →
      out[e]? = some (patch, c1, c0, v) → e = x.wroteTo → s.blocked x e true = false → (if patch = true then x.patchT else x.dstT) = some d →
      s.overlapped x (writesAt false d [c0, c1, 0, 0]) true = false →
      let put := s.rootWrite x e d [c0, c1, 0, 0] 0 v false false
      let run := exec (.streamElementTransfer t n e 0 true) s
      (∀ z0 y, put = .ok () z0 → z0.stream n = some y → ∃ z, run = .next z ∧ z.stream n = some { y with wroteTo := e + 1 }
        ∧ z.hbm = z0.hbm ∧ z.roots.versions = z0.roots.versions)
      ∧ (∀ f z0, put = .fault f z0 → run = .next (z0.streamTrap x e f)))

/-- R168, R169, R177, R183, R186, R319: a ready command leaves its command queue, with its precondition's decrement: a stream takes the
free engine of its context that became free earliest, and a token of the package sets out; the token lands, a descriptor's reload ends with its
token, a free decoder unit goes to the oldest waiting sdec, and a fault's report joins the window of its group, with fpc all ones and slot 0xFF (R327, of an asynchronous fault: DEDUCED, log 68). -/
def Obligations.QueuedCommandsDispatchAndLand : Prop :=
  ∀ (s : State),
    (∀ (t : Nat) (u : Bool) (c : QCmd) (id : Nat) (p : Fin 64) (x : Stream), t < 480 → (s.tctx t u).cmdq.find? (s.readyCmd t u) = some c →
      c.kind = .stream id p → s.stream id = some x → ∃ z e, exec (.cmdqDispatch t u) s = .next z
        ∧ z.stream id = some { x with engine := some e } ∧ (if u = true then 12 ≤ e ∧ e < 16 else e < 12)
        ∧ (∀ j : Fin 16, (if u = true then 12 ≤ j.val else j.val < 12) → (∀ y ∈ s.traffic.streams, y.tile = t → y.urgent = u → y.engine ≠ some j.val) →
            vget (s.tile t).engFree e 0 ≤ (s.tile t).engFree[j])
        ∧ (z.tctx t u).cmdq = (s.tctx t u).cmdq.filter (· != c)
        ∧ (z.tctx t u).regs = (if p = 63 then (s.tctx t u).regs else { (s.tctx t u).regs with k := (s.tctx t u).regs.k.set p ((s.tctx t u).regs.k[p] - 1) })
        ∧ s.sameMemory z)
    ∧ (∀ (t : Nat) (u : Bool) (c : QCmd) (d n : Nat) (k : Fin 64), t < 480 → (s.tctx t u).cmdq.find? (s.readyCmd t u) = some c →
      c.kind = .tok d none k n → ∃ z m, exec (.cmdqDispatch t u) s = .next z ∧ z.traffic.toks = s.traffic.toks ++ [m] ∧ m.id = s.nextId
        ∧ m.tile = d ∧ m.urgent = u ∧ m.k = k ∧ m.n = n ∧ (z.tctx t u).cmdq = (s.tctx t u).cmdq.filter (· != c) ∧ s.sameArchitecture z)
    ∧ (∀ (n : Nat) (m : TokMsg), s.traffic.toks.find? (·.id == n) = some m → (s.tctx m.tile m.urgent).group = some m.group → m.k ≠ 63 →
      exec (.tokDelivery n) s = .next { s with
        traffic.toks := s.traffic.toks.filter (·.id != n), tokIn := s.tokIn ++ [(m.tile, m.urgent, m.k, m.n, some m.group)] })
    ∧ (∀ (n : Nat) (r : Reload), s.traffic.reloads.find? (·.id == n) = some r → (s.tctx r.tile r.urgent).group = some r.group → r.k ≠ 63 →
      ∃ z, exec (.tdsyncDone n) s = .next z ∧ z.traffic.reloads = s.traffic.reloads.filter (·.id != n)
        ∧ z.tokIn = s.tokIn ++ [(r.tile, r.urgent, r.k, 1, some r.group)] ∧ s.sameMemory z ∧ s.sameRegisters z)
    ∧ (∀ (x : Stream) (j : Fin 16), s.traffic.streams.find? (fun x => x.op == .sdec && x.engine.isSome && x.unit.isNone) = some x →
      (s.traffic.units[j]).1 = none → ∃ i : Fin 16, (s.traffic.units[i]).1 = none ∧ (s.traffic.units[i]).2 ≤ (s.traffic.units[j]).2
        ∧ exec .decoderAssign s = .next { s with
          traffic.streams := s.traffic.streams.map fun y => if y.id == x.id then { y with unit := some i.val } else y
          traffic.units := s.traffic.units.set i (some x.id, (s.traffic.units[i]).2) })
    ∧ (∀ (n : Nat) (f : FaultMsg) (g : Group), s.traffic.faults.find? (·.id == n) = some f → s.group f.group = some g → g.counts = true →
      ∃ z, exec (.asyncFaultReport n) s = .next z ∧ z.traffic.faults = s.traffic.faults.filter (·.id != n)
        ∧ z.group f.group = some (g.trap ⟨f.tile, g.cnt, f.cause, 0x3FFFF, 0xFF, f.info⟩) ∧ z.tiles = s.tiles ∧ z.hbm = s.hbm)

/-- R69, R71, R188, R190, R191, R200, R241: a matrix command of any kind and a cwhorl start in their start cycle with their precondition taken; where its
counter is zero they raise TIMING_MISS instead, and where the command's port, or the arming of this gcy, is taken SLOT_REUSE; a cwhorl whose checks fail arms
nothing (R247). R227, R229 to R231, R220: a whorl whose ports hold their words fires, consuming one word of each and counting the firing; its segment's
fault stops it. R232: a whorl that is over disarms and releases its ports; of "the stream feeding that port" the model counts those that hold an engine
(DEDUCED, log 60). R245: a cdrain's token lands once its rows are idle and every word of theirs
is taken and written, whether its group counts or not. R213 to R226, R229: what a unit of a firing reads by its routes, what each kind makes of it
(inactive lanes hold 0), and that a firing's outputs are noted in the cycle its unit's depth gives and reach the out ports at f + Λ; which lanes of RAND's
word and of halves are active is the model's choice (DESIGN CHOICE, log 93), as are these readings: a lane of any other output is active where every input
that the op reads has it active (DEDUCED, log 20), an out port takes output 0 of the unit that drives it (DEDUCED, log 43), and a MAP of function 0 copies a
lane bit for bit, a NaN too (DEDUCED, log 57). The evaluation of a TABLE, of a CONV to or from integers and of a block's
quantisation is that of `tableEval`, `convLane` and `quantiseEach`. -/
def Obligations.EnginesStartFireAndDrain : Prop :=
  ∀ (s : State) (t : Nat) (g : Group), t < 480 →
    let cn := (s.tile t).cn
    let mx := (s.tile t).mx
    let taken (k : Fin 64) (r : Regs) : Regs := if k = 63 then r else { r with k := r.k.set k (r.k[k] - 1#32) }
    let trapped (z : State) (c : Cause) (info : Word) (pc slot : Nat) : Prop :=
      ∃ h r, z.group g.id = some h ∧ r ∈ h.window ∧ r.cause = c ∧ r.info = info ∧ r.tile = t ∧ r.fpc = pc ∧ r.slot = slot
    (∀ (m : MCmd), s.groupOf t false = some g → g.counts = true → g.cnt = m.start → (s.tctx t false).handling = false →
      mx.cmds.find? (fun c => c.id == m.id && !c.started) = some m →
      let port (c : MCmd) : Nat := match c.op with
        | .mma _ _ | .mmb _ _ | .ldacc _ => 1
        | .sac _ => 2
        | .drain _ _ _ => 3
        | .zacc _ | .zbp _ => 0
      let cycles (c : MCmd) : Nat := match c.op with
        | .mma _ _ | .mmb _ _ => c.n
        | .ldacc _ | .drain _ _ _ => 64
        | .sac _ => 1
        | .zacc _ | .zbp _ => 0
      let busy : Prop := ∃ c ∈ mx.cmds, c.id ≠ m.id ∧ c.started = true ∧ port c = port m ∧ port m ≠ 0 ∧ c.start ≤ m.start ∧ m.start < c.start + cycles c
      let miss : Prop := m.kpre ≠ 63 ∧ (s.tctx t false).regs.k[m.kpre] = 0#32
      let runs (c : MCmd) : MCmd := match m.op with
        | .sac p => { c with started := true, tag := (vget mx.tag (p.val % 2) 0#3).toNat }
        | _ => { c with started := true }
      let tags : Vector (BitVec 3) 2 := match m.op with
        | .mmb b p => if m.n = 0 then mx.tag else mx.tag.set p (BitVec.ofNat 3 b.tag)
        | .zbp p => mx.tag.set p 0#3
        | _ => mx.tag
      let dropped (c : Cause) (info : Word) : Prop := ∃ z, exec (.engineCommandStart t m.id) s = .next z
        ∧ (z.tile t).mx = { mx with cmds := mx.cmds.filter (·.id != m.id) } ∧ s.sameMemory z ∧ s.sameRegisters z ∧ trapped z c info m.pc m.slot
      (¬ miss → ¬ busy → ∃ z, exec (.engineCommandStart t m.id) s = .next z
        ∧ (z.tile t).mx = { mx with cmds := mx.cmds.map (fun c => if c.id = m.id then runs c else c), tag := tags }
        ∧ (z.tctx t false).regs = taken m.kpre (s.tctx t false).regs ∧ s.sameMemory z ∧ z.crown = s.crown)
      ∧ (miss → dropped .timingMiss (BitVec.ofNat 64 m.kpre.val))
      ∧ (¬ miss → busy → dropped .slotReuse 0#64))
    ∧ (∀ (c : WCmd), let u : Bool := c.ctx == 11
      s.groupOf t u = some g → g.counts = true → g.cnt = c.start → (s.tctx t u).handling = false →
      cn.cmds.find? (·.id == c.id) = some c → (∀ m ∈ mx.cmds, m.id = c.id → m.started = true) →
      let us := cn.enabled c.ctx c.rows
      let miss : Prop := c.kpre ≠ 63 ∧ (s.tctx t u).regs.k[c.kpre] = 0#32
      let left (z : State) : Prop := (z.tile t).cn.cmds = cn.cmds.filter (·.id != c.id) ∧ (z.tile t).cn.recs = cn.recs ∧ s.sameMemory z
      let fails (k : Cause) (info : Word) : Prop := ∃ z, exec (.engineCommandStart t c.id) s = .next z ∧ left z ∧ (z.tile t).cn.whorls = cn.whorls
        ∧ trapped z k info c.pc c.slot
      (¬ miss → cn.armed ≠ some s.gcyc.toNat → s.armFault t c.ctx c.rows = none →
        ∃ z w, exec (.engineCommandStart t c.id) s = .next z ∧ left z ∧ (z.tile t).cn.whorls = cn.whorls ++ [w] ∧ (z.tile t).cn.armed = some s.gcyc.toNat
        ∧ w.id = c.id ∧ w.ctx = c.ctx ∧ w.rows = c.rows ∧ w.fired = 0 ∧ w.seg = 0 ∧ w.round = 0 ∧ w.dead = false ∧ w.flight = []
        ∧ w.units.map (·.1) = us.map (·.1) ∧ (z.tctx t u).regs = taken c.kpre (s.tctx t u).regs ∧ z.crown = s.crown)
      ∧ (¬ miss → cn.armed ≠ some s.gcyc.toNat → ∀ k, s.armFault t c.ctx c.rows = some k → fails k 0#64)
      ∧ (miss → fails .timingMiss (BitVec.ofNat 64 c.kpre.val))
      ∧ (¬ miss → cn.armed = some s.gcyc.toNat → fails .slotReuse 0#64)
      ∧ (s.armFault t c.ctx c.rows = none → us ≠ [] ∧ ∀ w ∈ cn.whorls, let vs := cn.enabled w.ctx w.rows
          (w.ctx = c.ctx → w.rows &&& c.rows = 0#4) ∧ (∀ k ∈ inPorts us, k ∉ inPorts vs)
            ∧ ∀ k ∈ (outPorts us).map (·.1), k ∉ (outPorts vs).map (·.1)))
    ∧ (∀ (w : Whorl), cn.whorls.find? (·.id == w.id) = some w → w.dead = false →
      (if w.ctx = 11 then ∃ h, s.groupOf t true = some h ∧ h.counts = true
        else (∀ h, s.groupOf t true = some h → h.counts = false) ∧ ∃ h, s.groupOf t false = some h ∧ h.counts = true
          ∧ ∀ r ∈ rowsOf w.rows, rowSelects (vget cn.mask r 0#12) h.cnt = some w.ctx.val) →
      let us := cn.enabled w.ctx w.rows
      let begins : Bool := w.seg == 0
      let live := liveValues us w begins (s.headWord t)
      let need := (everyPorts us ++ (gateStep us w begins).1 ++ (if begins = true then (paramPorts us).map (·.1) else [])).eraseDups
      let hw : Fin 2 := if w.ctx = 11 then 1 else 0
      (begins = true → ∀ x ∈ countUnits us, w.round < rParam x.2 3) → (∀ k ∈ need, (s.headWord t k).isSome = true) →
      (∀ k ∈ outPorts us, (vget cn.outp k.1 []).length + w.flight.length < 64) →
      (∀ len : Nat, (if begins = true then segmentLen us (s.headWord t) live = .ok len else len = w.len) →
        let left : Nat := if begins = true then len else w.seg
        ∃ z y f, exec (.whorlFire t w.id) s = .next z ∧ (z.tile t).cn.whorls.find? (·.id == w.id) = some y
        ∧ y.fired = w.fired + 1 ∧ y.seg = left - 16 ∧ y.len = len ∧ y.flight = w.flight ++ [f] ∧ y.dead = false
        ∧ y.round = (if left ≤ 16 ∧ countUnits us ≠ [] then w.round + 1 else w.round)
        ∧ f.m = w.fired ∧ f.at_ = s.gcyc.toNat ∧ f.left = left ∧ f.len = len ∧ f.outs = [] ∧ f.recs = []
        ∧ f.ins = need.map (fun k => (k, (s.headWord t k).elim Lanes.none (·.lanes)))
        ∧ (z.tile t).cn.fires = cn.fires.set hw (cn.fires[hw] + 1)
        ∧ (z.tile t).cn.inp = need.foldl (fun v k => vmod v k (·.drop 1)) cn.inp
        ∧ (z.tile t).cn.outp = cn.outp ∧ (z.tile t).cn.recs = cn.recs ∧ s.sameMemory z ∧ s.sameRegisters z)
      ∧ (∀ c, begins = true → segmentLen us (s.headWord t) live = .error c → exec (.whorlFire t w.id) s = .next (s.whorlTrap t w w.fired c)))
    ∧ (∀ (w : Whorl), cn.whorls.find? (·.id == w.id) = some w →
      let us := cn.enabled w.ctx w.rows
      let feeds (x : Stream) (k : Nat) : Bool := x.tile == t && x.engine.isSome && wEnd x.dst == 3 && wPort x.dst == k
      let spent : Prop := w.dead = false
        ∧ (∀ k ∈ inPorts us, vget cn.inp k [] = [] ∧ (∀ x ∈ s.traffic.streams, feeds x k = true → s.delivered x = true)
          ∧ (vget cn.fed k 0#2 ≠ 0#2 ∨ ∃ x ∈ s.traffic.streams, feeds x k = true ∧ x.spent = false))
        ∧ (∀ x ∈ countUnits us, rParam x.2 3 ≤ w.round) ∧ ∀ f ∈ w.flight, f.at_ + w.lambda us ≤ s.gcyc.toNat
      (spent → exec (.whorlDisarm t w.id) s = .next (({ s with
          traffic.streams := s.traffic.streams.map fun x => if (inPorts us).any (feeds x) then { x with spent := true } else x } : State).onCn t fun n => { n with
        whorls := n.whorls.filter (·.id != w.id)
        fed := (inPorts us).foldl (fun v k => vset v k 0#2) n.fed
        closed := (((outPorts us).map (·.1)).eraseDups).foldl (fun v k => vmod v k (· + 1)) n.closed }))
      ∧ (¬ spent → exec (.whorlDisarm t w.id) s = .next s))
    ∧ (∀ (d : DrainReq), cn.drains.find? (·.id == d.id) = some d → s.groupOf t d.urgent = some g →
      let idle : Prop := (g.counts = true → d.iss < g.cnt)
        ∧ (∀ w ∈ cn.whorls, (w.ctx = 11 ↔ d.urgent = true) → w.rows &&& d.rows = 0#4)
        ∧ (∀ q ∈ cn.outp.toList, ∀ x ∈ q, tagged x.rows d.urgent d.rows = false)
        ∧ ∀ x ∈ s.traffic.streams, x.tile = t → x.carries d.urgent d.rows = false
      (idle → exec (.cdrainToken t d.id) s = .next ((s.onCn t fun n => { n with drains := n.drains.filter (·.id != d.id) }).token t d.urgent d.k 1))
      ∧ (¬ idle → exec (.cdrainToken t d.id) s = .next s))
    ∧ (∀ (r : Wide) (f : Firing) (i : Nat), let c := rRoute r i
      (c = 1 ∨ c = 2 → unitInput r f i = (Lanes.const (rParam r (c - 1)), true))
      ∧ (∀ k l, k < 8 → c = 8 + k → f.ins.find? (·.1 == k) = some (k, l) → unitInput r f i = (l, true))
      ∧ (∀ k, k < 8 → c = 8 + k → f.ins.find? (·.1 == k) = none → unitInput r f i = (Lanes.none, false))
      ∧ (∀ u o, u < 32 → f.outs.find? (·.unit == u) = some o → (c = 0x20 + u → unitInput r f i = (o.o0, true)) ∧ (c = 0x40 + u → unitInput r f i = (o.o1, true))))
    ∧ (∀ (x : UnitIn) (f : Firing) (st : UState),
      let op := rOp x.r
      let p (k : Nat) : Nat := rParam x.r k
      let y := x.eval f st
      let a (i : Nat) : Nat := lane x.a.val i
      let b (i : Nat) : Nat := lane x.b.val i
      let c (i : Nat) : Nat := lane x.c.val i
      let onA (i : Nat) : Bool := x.a.act.getLsbD i
      let onB (i : Nat) : Bool := x.b.act.getLsbD i
      let holds (l : Lanes) (act : Nat → Bool) (v : Nat → Nat) : Prop := ∀ i, i < 16 → l.act.getLsbD i = act i ∧ lane l.val i = if act i = true then v i else 0
      let gives (act : Nat → Bool) (v : Nat → Nat × Flags) : Prop := holds y.o0 act (fun i => (v i).1)
        ∧ ∀ k, y.flags.getLsbD k = true ↔ ∃ i, i < 16 ∧ act i = true ∧ (v i).2.getLsbD k = true
      let t : LaneT := if op / 64 = 0 then .f32 else if op / 64 = 1 then .s32 else .z32
      let past : Past := if f.first = true then ⟨0, 0#16, []⟩ else st.past
      let fold (fn : Nat) (t : LaneT) (i : Nat) (es : List Nat) : Nat × Flags :=
        let q := past.parts.getD i ⟨[], []⟩
        if fn = 0 ∧ t = .f32 then fp32.round .rne false 0 (sumExact (q.terms ++ es.map fp32.val))
        else let r := if fn = 0 then reduceAdd t (q.codes ++ es) else reducePick (fn == 2) t (q.codes ++ es)
          ((r.1 % 2 ^ 32).toNat, r.2)
      let hist : List (Nat × Lanes × Lanes) := (if f.first = true then [] else st.hist) ++ [(f.m, x.a, x.b)]
      let values (h : Nat × Lanes × Lanes) : List Nat := ((List.range 16).filter h.2.1.act.getLsbD).map (lane h.2.1.val)
      let column (i : Nat) : List Nat := (hist.filter fun h => h.2.1.act.getLsbD i).map fun h => lane h.2.1.val i
      let yes (r : Bool × Flags) : Nat × Flags := (if r.1 = true then 1 else 0, r.2)
      (x.kind = .map → op % 64 ≤ 18 →
        gives (fun i => onA i && (decide (op % 64 ∈ [0, 7, 8]) || onB i) && (decide (op % 64 ∉ [4, 15]) || x.c.act.getLsbD i)) fun i => match op % 64 with
          | 0 => (a i, 0#6) | 1 => elemAdd t (a i) (b i) | 2 => elemSub t (a i) (b i) | 3 => elemMul t (a i) (b i) | 4 => elemFma t (a i) (b i) (c i)
          | 5 => elemPick true t (a i) (b i) | 6 => elemPick false t (a i) (b i) | 7 => elemAbs t (a i) | 8 => elemNeg t (a i)
          | 9 => (a i &&& b i, 0#6) | 10 => (a i ||| b i, 0#6) | 11 => (a i ^^^ b i, 0#6) | 12 => (a i * 2 ^ (b i % 32) % 2 ^ 32, 0#6)
          | 13 => (a i / 2 ^ (b i % 32), 0#6) | 14 => (((BitVec.ofNat 32 (a i)).sshiftRight (b i % 32)).toNat, 0#6)
          | 15 => (if c i ≠ 0 then a i else b i, 0#6)
          | 16 => yes (elemCompare t .eq (a i) (b i)) | 17 => yes (elemCompare t .lt (a i) (b i)) | _ => yes (elemCompare t .le (a i) (b i)))
      ∧ (x.kind = .acc → op % 4 = 3 → let w := if f.first = true then x.a else st.word
        gives (fun i => decide (i < f.left)) (fun i => (lane w.val (if op / 32 % 2 = 1 then i else 0), 0#6)) ∧ y.st = { st with word := w })
      ∧ (x.kind = .acc → op % 4 ≠ 3 → y.st = { st with hist := hist, past := past } ∧ (f.last = false → y.o0 = Lanes.none)
        ∧ (f.last = true → op / 32 % 2 = 1 → gives (fun i => decide (i < f.len)) fun i => fold (op % 4) t i (column i))
        ∧ (f.last = true → op / 32 % 2 = 0 → gives (fun i => i == 0) fun _ => fold (op % 4) t 0 (hist.flatMap values)))
      ∧ (x.kind = .scan → y.st = { st with hist := hist, past := past } ∧ gives onA fun i => fold (op % 2) t 0
        ((if f.first = true then [] else st.hist).flatMap values ++ ((List.range 16).filter fun j => onA j && decide (j ≤ i)).map a))
      ∧ (x.kind = .conv → gives onA fun i => convLane op (p 0) (b i) (a i))
      ∧ (∀ g h : FFmt, convFmt (op / 16) = some g → convFmt (op % 16) = some h → ∀ rw v : Nat, v < 2 ^ (1 + g.ebits + g.mbits) → p 0 % 4 ≠ 3 →
        convLane op (p 0) rw v = h.round (if p 0 % 4 = 0 then .rne else if p 0 % 4 = 1 then .rz else .sr)
          (decide (p 0 / 4 % 2 = 1 ∧ ¬ (g.ebits ≤ h.ebits ∧ g.mbits ≤ h.mbits))) rw (g.val v))
      ∧ (x.kind = .table → op = 0 → gives onA fun i => tableEval (tabParams x.tab) (tabCoef x.tab) (a i))
      ∧ (x.kind = .table → op = 1 → gives (fun i => onA i && onB i) fun i => tableSlope (tabParams x.tab) (tabCoef x.tab) (a i) (b i))
      ∧ (x.kind = .index → ∀ l e ok, f.live.find? (·.1 == x.unit) = some (x.unit, l, e, ok) → 1 ≤ p 2 → p 2 ≤ 65536 →
        let beyond : Prop := e ≠ 0#32 ∧ ∃ i, i < 16 ∧ onA i = true ∧ e.toNat ≤ a i
        let v (i : Nat) : Nat := a i + l.toNat
        (ok = false → y.fault = some .canopyConfig) ∧ (op = 0 → ok = true → y.fault = none)
        ∧ (op = 0 → gives (fun i => decide (i < f.left)) fun i => ((l.toNat + (f.len - f.left + i) * p 2) % 2 ^ 32, 0#6))
        ∧ (op = 1 → gives onA (fun i => ((l.toNat + a i * p 2) % 2 ^ 32, 0#6)) ∧ (ok = true → (beyond → y.fault = some .coordRange) ∧ (¬ beyond → y.fault = none)))
        ∧ (op = 2 → gives onA (fun i => (v i / p 2 * 65536 % 2 ^ 32 + v i % p 2, 0#6))
          ∧ (ok = true → let far : Prop := beyond ∨ ∃ i, i < 16 ∧ onA i = true ∧ 65536 ≤ v i / p 2
            (far → y.fault = some .coordRange) ∧ (¬ far → y.fault = none))))
      ∧ (x.kind = .split → (op = 0 → y.o0 = x.a ∧ y.o1 = x.a)
        ∧ (op = 1 → holds y.o0 (fun i => onA i && onB i) (fun i => if b i ≠ 0 then a i else 0) ∧ holds y.o1 (fun i => onA i && onB i) fun i => if b i = 0 then a i else 0)
        ∧ (op = 2 → holds y.o0 (fun i => decide (i < 8) && onA i) a ∧ holds y.o1 (fun i => decide (i < 8) && onA (i + 8)) fun i => a (i + 8)))
      ∧ (x.kind = .merge → (op = 0 → gives (fun i => onA i && onB i && x.c.act.getLsbD i) fun i => (if c i ≠ 0 then a i else b i, 0#6))
        ∧ (op = 1 → gives (fun i => onA i && onB i) fun i => fp32.add (a i) (b i))
        ∧ (op = 2 → gives (fun i => if i < 8 then onA i else onB (i - 8)) fun i => (if i < 8 then a i else b (i - 8), 0#6)))
      ∧ (x.kind = .rep → op = 0 → let take : Bool := x.taken && (f.first || st.cnt == 0 || decide (8 ≤ rRoute x.r 0 ∧ rRoute x.r 0 ≤ 15))
        let w := if take = true then x.a else st.word
        y.o0 = w ∧ y.st = { st with word := w, cnt := (if take = true then p 0 else st.cnt) - 1 })
      ∧ (x.kind = .rep → op = 1 → (past.n + hist.length < p 0 → f.last = false → y.o0 = Lanes.none ∧ y.st = { st with hist := hist, past := past })
        ∧ (p 0 ≤ past.n + hist.length ∨ f.last = true → gives (fun i => past.act.getLsbD i || hist.any fun h => h.2.1.act.getLsbD i)
          (fun i => fold 0 .f32 i (column i)) ∧ y.st = { st with hist := [], past := ⟨0, 0#16, []⟩ }))
      ∧ (x.kind = .decay → gives (fun i => onA i && onB i) fun i => decayed (p 0) (p 1 % 2 ^ 16) (a i)
        ((((if p 2 % 2 = 0 then x.step else p 3 % 2 ^ 16) : Nat) - (b i % 2 ^ 16 : Nat) : Int) % 2 ^ 16).toNat)
      ∧ (x.kind = .rand → ∀ i, i < 16 → (y.o0.act.getLsbD i = decide (i < f.left))
        ∧ lane y.o0.val i = counterGen (p 1 * 2 ^ 32 + p 0) ((p 3 * 2 ^ 32 + p 2 + 16 * f.m + i) % 2 ^ 64))
      ∧ (x.kind ≠ .index → y.fault = none))
    ∧ (∀ (r : Wide) (w rnd : Lanes) (other : List Nat) (second closes : Bool), other.length = 16 →
      let own : List Nat := (List.range 16).map fun i => if w.act.getLsbD i = true then lane w.val i else 0
      let block := if second = true then other ++ own else own ++ other
      let y := mxqOut r w rnd other second closes
      (closes = false → y.2.1 = Lanes.none)
      ∧ (rOp r = 6 → y.1 = Lanes.none ∧ (closes = true → y.2.1 = ⟨BitVec.ofNat 512 ((fp32.maxMag block).1 % 2 ^ 32), 1#16⟩))
      ∧ (∀ f : BFmt, [BFmt.mxint8, .mxfp8e4, .mxfp8e5, .mxfp4, .fk8, .fk4][rOp r]? = some f → rParam r 0 % 4 ≠ 3 →
        let q := f.quantiseEach (if rParam r 0 % 4 = 0 then .rne else if rParam r 0 % 4 = 1 then .rz else .sr)
          ((if second = true then List.replicate 16 0 else []) ++ (List.range 16).map (lane rnd.val)) block
        let own (i : Nat) : Nat × Flags := q.1.getD (if second = true then 16 + i else i) (0, 0#6)
        y.1.act = w.act ∧ (∀ i, i < 16 → lane y.1.val i = if w.act.getLsbD i = true then (own i).1 else 0)
        ∧ (∀ k, y.2.2.getLsbD k = true ↔ ∃ i, i < 16 ∧ w.act.getLsbD i = true ∧ (own i).2.getLsbD k = true)
        ∧ (closes = true → y.2.1 = ⟨BitVec.ofNat 512 ((q.2.getD 0 0 + 256 * q.2.getD 1 0) % 2 ^ 32), 1#16⟩)))
    ∧ (∀ (w : Whorl) (us : List (Nat × Wide)) (f : Firing),
      let tag : BitVec 8 := if w.ctx = 11 then w.rows.setWidth 8 <<< 4 else w.rows.setWidth 8
      (f.at_ + w.lambda us ≠ s.gcyc.toNat → s.deliver t w us f = s)
      ∧ (f.at_ + w.lambda us = s.gcyc.toNat → ((outPorts us).map (·.1)).Nodup →
        let z := s.deliver t w us f
        (∀ k u, (k, u) ∈ outPorts us → vget (z.tile t).cn.outp k []
          = vget cn.outp k [] ++ [⟨(f.outs.find? (·.unit == u)).elim Lanes.none (·.o0), none, s.gcyc.toNat, tag⟩])
        ∧ (∀ k, k ∉ (outPorts us).map (·.1) → vget (z.tile t).cn.outp k [] = vget cn.outp k [])
        ∧ (z.tile t).cn.inp = cn.inp ∧ (z.tile t).cn.recs = cn.recs ∧ (z.tile t).cn.whorls = cn.whorls ∧ s.sameMemory z ∧ s.sameRegisters z)
      ∧ (∀ (v : Whorl) (y : Firing) (u : Nat) (r : Wide), s.firing t w.id f.m = some (v, y) → us = [(u, r)] → f.at_ + w.depthOf u = s.gcyc.toNat →
        let x : UnitIn := ⟨kindOf u, u, r, (unitInput r y 0).1, (unitInput r y 1).1, (unitInput r y 2).1, (unitInput r y 0).2,
          ((s.kernelOf t (w.ctx == 11)).elim 0 (·.stepView)) % 2 ^ 16, vget cn.tabs (tabPlace u (w.ctx == 11)) (Vector.replicate 13 0#512)⟩
        let o := x.eval y (v.unitState u)
        let z := s.readUnits t w us f
        (∀ c, o.fault = some c → z = s.whorlTrap t v y.m c)
        ∧ (o.fault = none → (z.tctx t (w.ctx == 11)).cr.fpstat = (s.tctx t (w.ctx == 11)).cr.fpstat ||| o.flags ∧ s.sameMemory z
          ∧ ∃ v' y', z.firing t w.id f.m = some (v', y') ∧ y'.outs = (if kindOf u = .mxq then y.outs else y.outs ++ [⟨u, o.o0, o.o1⟩])
            ∧ y'.recs = (if kindOf u = .mxq then y.recs ++ [(u, r)] else y.recs))))

/-- R344, R345, R347 to R350, R352, R353: a barm arms an unbound barrier, or one of its group that stands unarmed, or armed with no arrival counted, with its
target; on a draining one, or with arrivals counted, it raises BARRIER_STATE. An arrival counts toward an armed barrier, and the one that completes the phase
sets its release at g + F; one beyond the target is not counted and raises BARRIER_STATE; one that meets an unarmed or draining barrier is held, and counts
when it is armed or, with auto, released. A request to another group's barrier raises BARRIER_INVALID, or WORLD_VIOLATION across worlds. At the release
every tile of the group sees the phase done, and the barrier is re-armed with auto, unarmed without. -/
def Obligations.BarriersArmCountAndRelease : Prop :=
  ∀ (s : State) (g : Group) (die : Nat) (b : Fin 64), die < 4 →
    let x := s.barrier die b
    let foreign : Bool := x.group.any fun h => (s.group h).any fun o => (s.ctxt o.ctx).secure != (s.ctxt g.ctx).secure
    let told (z : State) (i : Nat) (c : Cause) : Prop := z.traffic.faults = s.traffic.faults ++ [⟨s.nextId, g.id, i, c, 0#64⟩]
    let refused (z : State) (r : BReq) (c : Cause) : Prop := z.crown.bReqs = s.crown.bReqs.filter (·.id != r.id) ∧ told z r.tile c
      ∧ { z.barrier die b with last := x.last } = x
    let took (z : State) (st : BState) (target w i : Nat) : Prop := (z.barrier die b).held = []
      ∧ (z.barView i g.urgent b).out = (s.barView i g.urgent b).out - 1
      ∧ (w < target → (z.barrier die b).st = st ∧ (z.barrier die b).count = w ∧ z.traffic = s.traffic)
      ∧ (w = target → (z.barrier die b).st = .draining ∧ (z.barrier die b).count = w ∧ (z.barrier die b).due = g.cnt + (2 * g.diameter + 8))
      ∧ (target < w → (z.barrier die b).st = st ∧ (z.barrier die b).count = 0 ∧ told z i .barrierState)
    (∀ (r : BReq) (target : Nat) (auto : Bool), s.crown.bReqs.find? (·.id == r.id) = some r → r.die = die → r.bar = b →
      r.arm = some (target, auto) → s.group r.group = some g → s.mayLand r = true →
      (x.st = .unbound ∧ x.group = none) ∨ (x.st = .unarmed ∧ x.group = some g.id ∧ x.held = [])
        ∨ ((x.st = .armed ∨ x.st = .rearmed) ∧ x.group = some g.id ∧ x.count = 0) →
      ∃ z, exec (.barrierRequestLand r.id) s = .next z ∧ z.crown.bReqs = s.crown.bReqs.filter (·.id != r.id)
        ∧ (z.barrier die b).st = .armed ∧ (z.barrier die b).target = target ∧ (z.barrier die b).auto = auto ∧ (z.barrier die b).group = some g.id
        ∧ (x.st = .unbound → (z.barrier die b).count = 0 ∧ (z.barrier die b).phase = 0#16) ∧ (x.st ≠ .unbound → (z.barrier die b).phase = x.phase ∧ (z.barrier die b).count = x.count)
        ∧ z.tiles = s.tiles ∧ z.hbm = s.hbm)
    ∧ (∀ (r : BReq) (target : Nat) (auto : Bool), s.crown.bReqs.find? (·.id == r.id) = some r → r.die = die → r.bar = b →
      r.arm = some (target, auto) → s.group r.group = some g → s.mayLand r = true →
      (x.group = some g.id → x.st = .draining ∨ (x.st = .armed ∨ x.st = .rearmed) ∧ x.count ≠ 0 →
        ∃ z, exec (.barrierRequestLand r.id) s = .next z ∧ refused z r .barrierState ∧ z.tiles = s.tiles)
      ∧ (x.group ≠ none → x.group ≠ some g.id → ∃ z, exec (.barrierRequestLand r.id) s = .next z
        ∧ refused z r (if foreign = true then .worldViolation else .barrierInvalid) ∧ z.tiles = s.tiles)
      ∧ (∀ (i w : Nat), x.st = .unarmed → x.group = some g.id → x.held = [(i, w)] → x.count = 0 → i < 480 →
        ∃ z, exec (.barrierRequestLand r.id) s = .next z ∧ took z .armed target w i ∧ (z.barrier die b).target = target ∧ (z.barrier die b).phase = x.phase
          ∧ s.sameMemory z ∧ s.sameRegisters z))
    ∧ (∀ (r : BReq), s.crown.bReqs.find? (·.id == r.id) = some r → r.die = die → r.bar = b → r.tile < 480 → r.urgent = g.urgent →
      r.arm = none → s.group r.group = some g → s.mayLand r = true → x.group = some g.id → x.st = .armed ∨ x.st = .rearmed →
      x.count + r.weight ≤ x.target → ∃ z, exec (.barrierArrivalLand r.id) s = .next z ∧ z.crown.bReqs = s.crown.bReqs.filter (·.id != r.id)
        ∧ (z.barrier die b).count = x.count + r.weight
        ∧ (x.count + r.weight = x.target → (z.barrier die b).st = .draining ∧ (z.barrier die b).due = g.cnt + (2 * g.diameter + 8))
        ∧ (x.count + r.weight ≠ x.target → (z.barrier die b).st = x.st)
        ∧ (z.barView r.tile r.urgent b).out = (s.barView r.tile r.urgent b).out - 1 ∧ (z.barView r.tile r.urgent b).last = x.phase
        ∧ (z.barView r.tile r.urgent b).v = true ∧ s.sameMemory z ∧ s.sameRegisters z)
    ∧ (∀ (r : BReq), s.crown.bReqs.find? (·.id == r.id) = some r → r.die = die → r.bar = b → r.tile < 480 → r.urgent = g.urgent →
      r.arm = none → s.group r.group = some g → s.mayLand r = true →
      (x.group = some g.id → x.st = .armed ∨ x.st = .rearmed → x.target < x.count + r.weight → ∃ z, exec (.barrierArrivalLand r.id) s = .next z
        ∧ refused z r .barrierState ∧ (z.barView r.tile r.urgent b).out = (s.barView r.tile r.urgent b).out - 1
        ∧ (z.barView r.tile r.urgent b).last = (s.barView r.tile r.urgent b).last ∧ s.sameMemory z ∧ s.sameRegisters z)
      ∧ ((x.st = .unbound ∧ x.group = none) ∨ ((x.st = .unarmed ∨ x.st = .draining) ∧ x.group = some g.id) →
        ∃ z, exec (.barrierArrivalLand r.id) s = .next z ∧ z.crown.bReqs = s.crown.bReqs.filter (·.id != r.id)
        ∧ (z.barrier die b).held = x.held ++ [(r.tile, r.weight)] ∧ (z.barrier die b).group = some g.id
        ∧ (z.barrier die b).st = (if x.st = .unbound then .unarmed else x.st) ∧ z.tiles = s.tiles ∧ z.traffic = s.traffic)
      ∧ (x.group ≠ none → x.group ≠ some g.id → ∃ z, exec (.barrierArrivalLand r.id) s = .next z
        ∧ refused z r (if foreign = true then .worldViolation else .barrierInvalid)
        ∧ (z.barView r.tile r.urgent b).out = (s.barView r.tile r.urgent b).out - 1 ∧ s.sameMemory z ∧ s.sameRegisters z))
    ∧ (s.group g.id = some g → x.st = .draining → x.group = some g.id → x.due ≤ g.cnt → x.auto = true →
      (x.held = [] → ∃ z, exec (.barrierRelease die b) s = .next z ∧ (z.barrier die b).st = .rearmed ∧ (z.barrier die b).count = 0
        ∧ (z.barrier die b).phase = x.phase + 1#16 ∧ (z.barrier die b).target = x.target
        ∧ (∀ t ∈ g.tiles, t < 480 → (z.barView t g.urgent b).done = x.phase + 1#16) ∧ s.sameMemory z ∧ s.sameRegisters z)
      ∧ (∀ (i w : Nat), x.held = [(i, w)] → i < 480 → ∃ z, exec (.barrierRelease die b) s = .next z ∧ took z .rearmed x.target w i
        ∧ (z.barrier die b).phase = x.phase + 1#16 ∧ (∀ t ∈ g.tiles, t < 480 → (z.barView t g.urgent b).done = x.phase + 1#16)
        ∧ s.sameMemory z ∧ s.sameRegisters z))
    ∧ (s.group g.id = some g → x.st = .draining → x.group = some g.id → x.due ≤ g.cnt → x.auto = false →
      ∃ z, exec (.barrierRelease die b) s = .next z ∧ (z.barrier die b).st = .unarmed ∧ (z.barrier die b).count = 0
        ∧ (z.barrier die b).phase = x.phase + 1#16 ∧ (∀ t ∈ g.tiles, t < 480 → (z.barView t g.urgent b).done = x.phase + 1#16)
        ∧ s.sameMemory z ∧ s.sameRegisters z)

/-- R316, R317, R326, R334, R336, R337, R338, R341: what happens to groups and their tiles: an alarm, a placement with every tile at its entry
bundle, an urgent group loaded over a running one, which is asked to stop F cycles later, a full switch with its save and restore, and the
gating and waking of free tiles. Of the model and not of the rules: that placed tiles start in the gcy after the Crown has loaded them (DEDUCED, log 64); an
alarm's fpc and slot, and that one rings on a tile whose program has ended (DEDUCED, logs 42 and 68); where in a slot's areas a register stands, and what
State.saved keeps beside them (DESIGN CHOICE, log 28); which streams a switch suspends and where (log 67); and what a gated tile's memories hold (DESIGN
CHOICE, log 2). -/
def Obligations.GroupsArePlacedPausedSwitchedAndGated : Prop :=
  ∀ (s : State),
    (∀ (t : Nat) (u : Bool) (g : Group), s.groupOf t u = some g → g.counts = true → (s.tctx t u).handling = false → g.cnt ≠ 0 →
      (s.tctx t u).cr.cycalarm.toNat = g.cnt →
      exec (.cycleAlarm t u) s = .next (s.onGroup g.id fun x => x.trap ⟨t, x.cnt, .cycleAlarm, 0x3FFFF, 0xFF, 0#64⟩))
    ∧ (∀ (k : Nat) (p : Place) (n : Kernel) (g : Group), s.groupReady k p false = some (n, g) → ∃ z, exec (.groupPlace k p) s = .next z
        ∧ z.crown.groups = s.crown.groups ++ [{ g with st := .placing (s.gcyc.toNat + 1) }] ∧ z.hbm = s.hbm
        ∧ (∀ t ∈ g.tiles, t < 480 → ∃ pc mb, z.tctx t false = entryCtx g.id false pc (n.field 175 168) mb ∧ (z.tile t).power = .busy
            ∧ ∀ i : Fin 16, mb[i].toNat = n.mbox.toNat / 2 ^ (32 * i.val) % 2 ^ 32)
        ∧ (∀ t, t ∉ g.tiles → z.tile t = s.tile t))
    ∧ (∀ (k : Nat) (p : Place) (n : Kernel) (g : Group), s.groupReady k p true = some (n, g) →
      (∀ h ∈ s.crown.groups, h.urgent = false → g.tiles.any h.holds = true →
        h.st = .running ∧ h.paused = false ∧ h.pauseAt = none ∧ h.saveSlot = none ∧ (s.kernel h.id).any (·.inPlace) = false) →
      ∃ z, exec (.urgentPause k p) s = .next z
        ∧ (∀ h ∈ s.crown.groups, h.urgent = false → g.tiles.any h.holds = true → { h with pauseAt := some (h.cnt + (2 * h.diameter + 8)) } ∈ z.crown.groups)
        ∧ ∃ h ∈ z.crown.groups, h.id = k ∧ h.urgent = true
          ∧ h.st = .placing (if ∃ x ∈ s.crown.groups, x.urgent = false ∧ g.tiles.any x.holds = true then 0 else s.gcyc.toNat + 1))
    ∧ (∀ (k : Nat) (v : List Nat) (y : Selection), s.crown.sels.find? (fun z => !z.retry && z.n == k) = some y →
      let r := s.headRecord k
      let may := s.crown.groups.filter fun g =>
        !g.urgent && g.st == .running && !g.paused && g.pauseAt.isNone && decide (s.classOf g < fieldOf r 153 151)
      let chosen := may.filter fun g => v.contains g.id
      let enough (l : List Nat) : Prop := ∃ p ∈ placesOf r,
        ({ s with crown.groups := s.crown.groups.filter fun g => !l.contains g.id } : State).placeable (false, k) (groupAt r 0 p) = true
      (∀ g ∈ chosen, s.saveUntold g.ctx = false ∧ (s.findSlots g).isSome = true) → y.since + 65536 ≤ s.gcyc.toNat → fieldOf r 153 151 ≠ 0 → fieldOf r 153 151 ≠ 7 → chosen.length = v.length →
      (∀ g ∈ may, g.id ∉ v → ∀ h ∈ chosen, s.switchBefore g h = false) → enough v →
      (∀ g ∈ chosen, (∀ h ∈ chosen, h.id = g.id ∨ s.switchBefore h g = true) → ¬ enough (v.filter (· != g.id))) →
      exec (.fullSwitch k v) s = .next (chosen.foldl (fun s g => if s.saveUntold g.ctx = true then s else s.askSwitch g) s))
    ∧ (∀ (g : Group) (i : Nat), s.group g.id = some g → s.findSlots g = some i → ∃ h, (s.askSwitch g).group g.id = some h
      ∧ h.saveSlot = some i ∧ h.pauseAt = some (g.cnt + (2 * g.diameter + 8)) ∧ h.st = g.st ∧ h.cnt = g.cnt ∧ (s.askSwitch g).tiles = s.tiles)
    ∧ (∀ (n : Nat) (x : Group) (slot : Nat), s.group n = some x → x.saveSlot = some slot → x.st = .switching → x.paused = false →
      (∀ y ∈ s.traffic.streams, y.group = n → s.suspendable y = true) → (∀ y ∈ s.traffic.toks, y.group ≠ n) → (∀ y ∈ s.traffic.reloads, y.group ≠ n) →
      (∀ y ∈ s.traffic.faults, y.group ≠ n) → (∀ y ∈ s.crown.bReqs, y.group ≠ n) → (∀ y ∈ s.links.reqs, y.group ≠ some n) →
      (∀ t ∈ x.tiles, (∀ w ∈ (s.tile t).cn.whorls, w.flight = []) ∧ ∀ k ∈ s.tokIn, k.1 = t → k.2.2.2.2 ≠ some n) →
      (∀ (as : List Nat) (s1 : State), State.slotWalks x.ctx true x.slots s = (.ok as, s1) →
        let w := (x.tiles.zip as).foldl (fun s (t, a) => s.saveTile x t a) s1
        ∃ z, exec (.switchSaveDone n) s = .next z
          ∧ z.group n = some { x with st := .switchedOut } ∧ z.hbm = w.hbm ∧ (∀ t ∈ x.tiles, t < 480 → (z.tctx t false).group = none)
          ∧ z.traffic.streams = s.traffic.streams.filter (·.group != n))
      ∧ (∀ (e : Nat) (rec : Bool) (s1 : State), State.slotWalks x.ctx true x.slots s = (.error (.hold e rec), s1) →
        exec (.switchSaveDone n) s = .next s1))
    ∧ (∀ (n : Nat) (x : Group) (k : Kernel) (slot : Nat), s.group n = some x → x.fits = true → s.kernel n = some k → x.saveSlot = some slot → x.st = .switchedOut →
      k.st = .running → s.placeable (true, n) x = true → (∀ t ∈ x.tiles, t < 480 ∧ s.asleep t = false) →
      s.lacksFeature (k.field 399 360) = false →
      (∀ t ∈ x.tiles, ∃ y, s.saved.find? (fun y => y.group == n && y.tile == t) = some y) →
      (∀ (as : List Nat) (s1 : State), State.slotWalks x.ctx false x.slots s = (.ok as, s1) →
        let now := s1.restoreSlots x as
        let sound : Prop := ∀ e ∈ x.tiles.zip as, s1.slotSound now x e.1 e.2 = true
        (sound → ∃ z y, exec (.restore n) s = .next z
          ∧ z.group n = some y ∧ y.st = .resuming (s.gcyc.toNat + 1) ∧ y.saveSlot = none ∧ y.cnt = z.hbmNum (as.headD 0 + 0x3FF000) 8
          ∧ (∀ e ∈ x.tiles.zip as, let c := z.tctx e.1 false
            let r (i : Nat) : Nat := z.hbmNum (e.2 + 0x1E0000 + i) 8
            c.group = some n ∧ (z.tile e.1).power = .busy
            ∧ (∀ i : Fin 64, c.regs.x[i].toNat = r (8 * i.val)) ∧ c.flow.fetch.pc = r 4800 ∧ c.flow.ord = r (4800 + 56)
            ∧ c.flow.ended = (if r (4800 + 48) = 0 then none else some (r (4800 + 48) - 1)) ∧ c.cr.rbseed.toNat = r (5120 + 8))
          ∧ z.hbm = s1.hbm ∧ ∀ i, i ∉ x.tiles → z.tile i = s.tile i)
        ∧ (¬ sound → exec (.restore n) s = .next (s1.abort n .restoreFailed)))
      ∧ (∀ (e : Walked) (s1 : State), State.slotWalks x.ctx false x.slots s = (.error e, s1) →
        exec (.restore n) s = .next (s1.abort n .restoreFailed)))
    ∧ (∀ (n : Nat) (x : Group), s.group n = some x →
      (∃ t ∈ x.tiles, (∃ h ∈ s.crown.groups, h.holds t = true ∧ h.urgent = x.urgent)
        ∨ ((∀ y ∈ s.crown.sels, y.of (true, n) = false) ∧ ∃ y ∈ s.crown.sels, y.retry = false ∧ (groupAt (s.headRecord y.n) 0 y.target).has t = true)) →
      exec (.restore n) s = .next s)
    ∧ (∀ (t n : Nat), t < 480 →
      ((s.tile t).power = .free n → n + 10000 ≤ s.gcyc.toNat →
        exec (.gatingStart t) s = .next (s.onTile t fun x => { x with power := .gating (s.gcyc.toNat + 64) }))
      ∧ ((s.tile t).power = .gating n → n ≤ s.gcyc.toNat → exec (.gatingDone t) s
        = .next (s.onTile t fun x => { Tile.reset with power := .gated, engFree := x.engFree, sent := x.sent }))
      ∧ ((s.tile t).power = .gating n → exec (.tileWake t) s = .next (s.onTile t fun x =>
          { Tile.reset with power := .waking (s.gcyc.toNat + 512), engFree := x.engFree, sent := x.sent }))
      ∧ ((s.tile t).power = .gated → exec (.tileWake t) s = .next (s.onTile t fun x => { x with power := .waking (s.gcyc.toNat + 512) }))
      ∧ ((s.tile t).power = .waking n → n ≤ s.gcyc.toNat →
        exec (.tileWakeDone t) s = .next (s.onTile t fun x => { x with power := .free s.gcyc.toNat })))

/-- R281, R283, R285 to R288, R290, R291, R312: a head that passes its checks is ready; one that fails them is reported with its cause, and once its
record is written it leaves the queue; a selected record is dispatched onto open tiles with its ticket and its place; one that is not ready for a time
keeps its selection; a kernel in retry is dispatched again; and a queue takes in what it has received in order of receipt: an append is published with
its token when there is room, and a tail write takes effect. Of the model and not of the rules: which of two waiting records keeps its tiles, and which of two
serial retries goes on, and that a record of class 7 keeps no selection (DESIGN CHOICE, log 92); that a write of the Crown waits for no page (DESIGN CHOICE, log 89); and that an append
which a full or stalled queue of a destroyed context holds up is dropped (DEDUCED, log 91). -/
def Obligations.RecordsAreConsideredDispatchedAndAppended : Prop :=
  ∀ (s : State) (q : Nat), q < 2048 →
    let x := s.queue q
    let calm : Prop := ∀ i, i < 2048 → (s.queue i).st ≠ .stalled
    (s.considers q = true → x.checked = false →
      (x.retiring = none → s.headFault (s.headRecord q) x.ctx = none → exec (.headConsider q) s = .next (s.onQueue q fun x => { x with checked := true }))
      ∧ (∀ c : Cause, x.ctx < 64 → x.retiring = none → s.headFault (s.headRecord q) x.ctx = some c → ∃ z r, exec (.headConsider q) s = .next z
        ∧ z.queue q = { x with retiring := some c } ∧ (z.ctxt x.ctx).waiting = (s.ctxt x.ctx).waiting ++ [r] ∧ r.cause = c
        ∧ r.info = BitVec.ofNat 64 (q * 2 ^ 16 + x.headSeq.toNat) ∧ r.fatal = false ∧ s.sameMemory z)
      ∧ (∀ c : Cause, x.retiring = some c → (s.ctxt x.ctx).waiting.contains (queueRecord c q x.headSeq) = true → exec (.headConsider q) s = .next s)
      ∧ (∀ c : Cause, x.retiring = some c → (s.ctxt x.ctx).waiting.contains (queueRecord c q x.headSeq) = false →
        fieldOf (s.headRecord q) 127 88 = 0 → calm → ∃ z, exec (.headConsider q) s = .next z ∧ (z.queue q).headSeq = x.headSeq + 1
          ∧ (z.queue q).retiring = none ∧ (z.queue q).checked = false ∧ (z.queue q).tailSeq = x.tailSeq ∧ z.crown.kernels = s.crown.kernels ∧ s.sameMemory z))
    ∧ (∀ (p : Place) (r : Wide), s.readyRecord (false, q) = some r → (groupAt r 0 p).fits = true → s.selected (false, q) r = true →
      s.placeable (false, q) (groupAt r 0 p) = true → calm → x.ctx < 64 →
      ∃ z k, exec (.kernelDispatch false q p) s = .next z ∧ k ∈ z.crown.kernels ∧ k.id = s.nextId ∧ k.ctx = x.ctx
        ∧ k.record = s.headRecord q ∧ k.st = .dispatching ∧ k.target = some p ∧ k.disp = s.gcyc.toNat ∧ k.origin = (q, x.headSeq.toNat)
        ∧ k.ticket = (if directRecord (s.headRecord q) = true then none else some (s.ctxt x.ctx).next.toNat)
        ∧ (z.ctxt x.ctx).next = (if directRecord (s.headRecord q) = true then (s.ctxt x.ctx).next else (s.ctxt x.ctx).next + 1)
        ∧ (z.queue q).headSeq = x.headSeq + 1 ∧ (z.queue q).live = x.live ++ [(s.nextId, x.headSeq)] ∧ z.hbm = s.hbm)
    ∧ (∀ (p : Place) (r : Wide), s.readyRecord (false, q) = some r → (groupAt r 0 p).fits = true → s.selected (false, q) r = true →
      s.placeable (false, q) (groupAt r 0 p) = false → (∀ p' ∈ placesOf r, s.placeable (false, q) (groupAt r 0 p') = false) →
      (fieldOf r 153 151 = 7 → exec (.kernelDispatch false q p) s = .next s)
      ∧ (fieldOf r 153 151 ≠ 7 → (∀ y ∈ s.crown.sels, y.of (false, q) = false) →
        exec (.kernelDispatch false q p) s = .next { s with crown.sels := s.crown.sels ++ [⟨false, q, s.gcyc.toNat, p⟩] }))
    ∧ (∀ (p : Place), s.readyRecord (false, q) = none → x.st = .enabled → x.en = true → x.count ≠ 0 → exec (.kernelDispatch false q p) s = .next s)
    ∧ (∀ (n : Nat) (p : Place) (r : Wide) (k : Kernel), s.kernel n = some k → s.readyRecord (true, n) = some r → (groupAt r 0 p).fits = true →
      s.selected (true, n) r = true → s.placeable (true, n) (groupAt r 0 p) = true → ∃ z y, exec (.kernelDispatch true n p) s = .next z
        ∧ y ∈ z.crown.kernels ∧ y.id = n ∧ y.st = .dispatching ∧ y.target = some p ∧ y.aborts = k.aborts ∧ y.record = k.record ∧ z.hbm = s.hbm)
    ∧ (∀ (a : Append) (l : List Push), x.pushes = .append a :: l →
      let rest : State := s.onQueue q fun x => { x with pushes := l }
      (x.st = .enabled ∨ x.st = .disabled → x.count < x.cap → x.tailSlot / 64 % 64 + 1 ≠ 63 → x.tailSlot % 64 = 0 →
        let w := rest.crownWrite x.tailSlot (leBytes 64 a.record.toNat)
        ∃ z, exec (.qlaunchAppend q) s = .next z ∧ z.hbm = w.hbm ∧ (z.queue q).pushes = l ∧ (z.queue q).tailSeq = x.tailSeq + 1
          ∧ (z.queue q).tailSlot = x.tailSlot + 64 ∧ (z.queue q).headSeq = x.headSeq
          ∧ z.tokIn = s.tokIn ++ (if (s.tctx a.tile a.urgent).group = some a.kernel ∧ a.k ≠ 63 then [(a.tile, a.urgent, a.k, 1, some a.kernel)] else []))
      ∧ (x.st = .unbound → exec (.qlaunchAppend q) s = .next rest)
      ∧ (x.st = .stalled → (s.ctxt x.ctx).st ≠ .destroyed → exec (.qlaunchAppend q) s = .next s)
      ∧ (x.st ≠ .unbound → x.cap ≤ x.count → (s.ctxt x.ctx).st ≠ .destroyed → exec (.qlaunchAppend q) s = .next s)
      ∧ (x.st ≠ .unbound → x.st = .stalled ∨ x.cap ≤ x.count → (s.ctxt x.ctx).st = .destroyed → exec (.qlaunchAppend q) s = .next rest))
    ∧ (∀ (a : Nat) (l : List Push), x.pushes = .tail a :: l →
      exec (.qlaunchAppend q) s = .next ((s.onQueue q fun x => { x with pushes := l }).tailWrite q a))

/-- R291, R292, R295, R297 to R302, R304 to R306, R310, R260, R262: a kernel whose tiles have all ended finishes and releases its group; its ticket passes,
with the step, its record's end mark, the sweep it crosses into and the abort of conflicting readers; its sweep goes on, and its escapes are performed; a
version settles, holds or faults as its walk says; an abort stops the group, and its discard frees the ticket for a retry; a kernel that waits begins to
write in place, and a budget ends, also that of a kernel which a lower cause of the same gcy has made aborting. Of the model and not of the rules: that a pass
goes as far as it comes and waits there (DESIGN CHOICE, log 54), which tensors it covers (DEDUCED, log 55), and which causes need no record before the
discard (DEDUCED, log 14). -/
def Obligations.KernelsFinishCommitAndAbort : Prop :=
  ∀ (s : State) (k : Nat) (n : Kernel), s.kernel k = some n → n.ctx < 64 →
    let noDone : Prop := fieldOf n.record 127 88 = 0
    (∀ g : Group, s.group k = some g → n.st = .running → g.st = .running → g.paused = false → g.window = [] → g.pend = [] →
      (∀ t ∈ g.tiles, (s.tctx t g.urgent).flow.ended.isSome = true) → s.groupBusy g = false →
      (n.ticket.isSome = true → ∃ z, exec (.kernelFinish k) s = .next z ∧ z.kernel k = some { n with st := .finished, target := none }
        ∧ z.group k = none ∧ z.hbm = s.hbm)
      ∧ (n.ticket = none → n.escapes = [] → n.sweep = none → s.appending k none = false → s.untold n.ctx k = false → noDone →
        ∃ z, exec (.kernelFinish k) s = .next z ∧ z.kernel k = none ∧ z.group k = none ∧ z.hbm = s.hbm))
    ∧ (∀ t : Nat, n.st = .finished → n.ticket = some t → s.isNext n = true → s.mayPass n.ctx = true → noDone → ∃ z, exec (.commitPass k) s = .next z
      ∧ (z.ctxt n.ctx).ct = BitVec.ofNat 16 t ∧ (z.ctxt n.ctx).step = BitVec.ofNat 48 ((s.ctxt n.ctx).step.toNat + n.advance) ∧ z.hbm = s.hbm
      ∧ (n.origin.1 < 2048 → (z.queue n.origin.1).live = (s.queue n.origin.1).live.filter (·.1 != k))
      ∧ (∀ b : Nat, crossed (s.ctxt n.ctx).step.toNat n.advance = some b → ∃ y ts, z.kernel k = some y ∧ y.st = .committing ∧ y.sweep = some ⟨ts, b, 0⟩)
      ∧ ∀ o : Kernel, s.kernel o.id = some o → o.ctx = n.ctx → o.id ≠ k → o.ticket.isSome = true → o.st = .running → (∃ p ∈ n.writes, p ∈ o.reads) →
        ∃ y, z.kernel o.id = some y ∧ y.st = .aborting ∧ y.cause = some .txConflict)
    ∧ (∀ (c m : Nat) (p : Pass) (w : State), s.crown.kernels.find? (fun x => x.ctx == c && x.sweep.isSome) = some n → n.sweep = some p →
      let went := s.runPass c (n.ticket.getD 0xFFFF) (fun h st => sweepRule h p.goal st) p
      (∀ u : Unit, went = (m, .ok u w) → exec (.sweepDone c) s = .next ((w.onKernel n.id fun y => { y with sweep := none }).tryEnd n.id))
      ∧ (went = (m, .wait w) → exec (.sweepDone c) s = .next (w.onKernel n.id fun y => { y with sweep := some { p with past := m } }))
      ∧ (∀ f : Cause, went = (m, .fault f w) → exec (.sweepDone c) s = .next (((w.onKernel n.id fun y => { y with sweep := none }).fatalEvent c
        (if f = .integrity then .sweepError else f) n.ticket).tryEnd n.id)))
    ∧ (∀ (e : Escape) (q : Nat) (r : Wide) (kd : Fin 64), s.nextEscape n = some e → e.what = some (.launch q r kd) → n.st = .running → n.ticket = none → s.untold n.ctx k = false →
      q < 2048 → (s.queue q).st ≠ .unbound → (s.queue q).ctx = n.ctx → ∃ z, exec (.escapesPerformed k) s = .next z
        ∧ (z.queue q).pushes = (s.queue q).pushes ++ [.append ⟨r, k, e.tile, fieldOf n.record 153 151 == 7, kd⟩]
        ∧ z.kernel k = some { n with escapes := n.escapes.filter (·.id != e.id) } ∧ s.sameMemory z)
    ∧ (∀ (o : Kernel) (a b : Nat), n.st = .running → n.ticket = some b → o ∈ s.crown.kernels → o.ctx = n.ctx → o.st = .committing → o.ticket = some a →
      let ct := (s.ctxt n.ctx).ct
      (ct - BitVec.ofNat 16 a).toNat < 32768 → (BitVec.ofNat 16 b - ct - 1).toNat < 256 → exec (.escapesPerformed k) s = .next s)
    ∧ (∀ (l t : Nat) (v : Version), s.roots.versions.find? (fun v => v.line == l && v.ticket == t && s.committed v) = some v →
      let newest := (s.roots.versions.filter fun v => v.line == l && s.committed v).getLast? = some v
      let what := Held.settle l
      (newest → s.isHeld what = true → exec (.versionSettle l t) s = .next s)
      ∧ (newest → s.isHeld what = false → ∀ (f : Cause) (s1 : State), s.flatWalk (s.ctxt v.ctx).poolRoot (v.slot / 2048) false (s.ctxt v.ctx).secure false = (.trap f, s1) →
        exec (.versionSettle l t) s = .next (s1.poolFault v.ctx f v.spot.v v.spot.tid v.ticket 0x1FF false))
      ∧ (newest → s.isHeld what = false → ∀ (leaf : Walked) (s1 w : State),
        s.flatWalk (s.ctxt v.ctx).poolRoot (v.slot / 2048) false (s.ctxt v.ctx).secure false = (leaf, s1) → (∀ f, leaf ≠ .trap f) →
        let went := s1.walk what v.spot.tid v.spot.list v.spot.v true v.spot.world
        (∀ p : Spot, went = (.spot p, w) → exec (.versionSettle l t) s = .next (w.putVersions l p.phys))
        ∧ (∀ (e : Nat) (rec : Bool), went = (.hold e rec, w) →
          exec (.versionSettle l t) s = .next (w.openHold v.ctx what 0x1FF v.ticket true e rec v.spot.v v.spot.tid))
        ∧ (∀ f : Cause, went = (.trap f, w) → exec (.versionSettle l t) s = .next (w.fatalEvent v.ctx f (some v.ticket))))
      ∧ (¬ newest → exec (.versionSettle l t) s = .next { s with roots.versions := s.roots.versions.filter (· != v) }))
    ∧ (∀ c : Nat, c < 64 → (s.ctxt c).liveTickets ≠ 0 → s.mayPass c = true → (∀ o ∈ s.crown.kernels, o.ctx = c → o.ticket ≠ some ((s.ctxt c).ct + 1).toNat) →
      ∃ z, exec (.abandonedTicketPass c) s = .next z ∧ (z.ctxt c).ct = (s.ctxt c).ct + 1 ∧ z.tiles = s.tiles ∧ z.hbm = s.hbm
        ∧ z.crown.kernels = s.crown.kernels)
    ∧ (∀ g : Group, s.group k = some g → n.st = .aborting → n.inPlace = false → g.st ≠ .switchedOut → ∃ z h, exec (.kernelAbort k) s = .next z
      ∧ z.group k = some h ∧ h.st = .frozen ∧ h.pend = [] ∧ (∀ x ∈ z.traffic.streams, x.group ≠ k) ∧ s.sameMemory z
      ∧ (∀ t ∈ g.tiles, t < 480 → (z.tctx t g.urgent).inflight = [] ∧ (z.tctx t g.urgent).cmdq = [] ∧ (z.tctx t g.urgent).handling = false))
    ∧ (∀ c : Cause, n.st = .aborting → n.cause = some c → s.gcyc.toNat ≤ n.abortAt → exec (.abortDiscardDone k) s = .next s)
    ∧ (∀ c : Cause, n.st = .aborting → n.cause = some c → n.abortAt < s.gcyc.toNat → n.told = true ∨ c = .txConflict ∨ c = .sapFull → s.untold n.ctx k = false →
      n.final c = false → ∃ z y, exec (.abortDiscardDone k) s = .next z ∧ z.kernel k = some y ∧ y.st = .retry ∧ y.ticket = none
        ∧ y.aborts = n.aborts + 1 ∧ y.escapes = [] ∧ y.reads = [] ∧ y.writes = [] ∧ z.group k = none ∧ z.hbm = s.hbm
        ∧ ∀ v ∈ z.roots.versions, ¬ (v.ctx = n.ctx ∧ some v.ticket = n.ticket))
    ∧ (n.st = .running → n.inPlace = false → n.wantsPlace = true → s.isNext n = true → (∀ o ∈ s.crown.kernels, o.ctx = n.ctx → o.sweep = none) →
      ∃ z y, exec (.writeInPlaceStart k) s = .next z ∧ z.kernel k = some y ∧ y.inPlace = true ∧ y.wantsPlace = false
        ∧ (∀ e ∈ y.escapes, e.held = false) ∧ s.sameMemory z)
    ∧ (s.gcyc.toNat = n.disp + fieldOf n.record 447 400 →
      (n.st = .running ∨ n.st = .dispatching → ∃ z y, exec (.budgetExpire k) s = .next z ∧ z.kernel k = some y
        ∧ y.st = .aborting ∧ y.cause = some .budget ∧ z.work = .event (.kernelAbort k) :: s.work ∧ z.tiles = s.tiles ∧ z.hbm = s.hbm)
      ∧ (∀ c : Cause, n.st = .aborting → n.cause = some c → n.abortAt = s.gcyc.toNat → c ≠ .kill → c ≠ .budget → ∃ z,
        exec (.budgetExpire k) s = .next z ∧ z.kernel k = some { n with cause := some .budget } ∧ z.tiles = s.tiles ∧ z.hbm = s.hbm))

/-- R248, R263, R268 to R274: the operations on contexts, with the Crown running and no command busy, their statuses, the fields they leave as written,
and the two that complete later: a scrub, and the pass of a STEP_WRITE with its wait and its error. That this pass goes as far as it comes and waits there is
the model's choice (DESIGN CHOICE, log 54), as is that a KILL puts its context into ready at once (DEDUCED, log 66). -/
def Obligations.ContextOperationsComplete : Prop :=
  ∀ (s : State) (c : Fin 64) (a n : BitVec 48), s.boot.stage = 2#4 →
    let x := s.ctxt c
    let r : Wide := BitVec.ofNat 512 (s.viewNum a.toNat 64)
    let word (busy : Bool) (status op c arg : Nat) : Word :=
      BitVec.ofNat 64 ((if busy then 2 ^ 63 else 0) + status * 2 ^ 60 + op * 2 ^ 56 + c * 2 ^ 48 + arg % 2 ^ 48)
    let ended (s : State) (status : Nat) : Word :=
      let w := s.boot.ctxcmd.toNat
      word false status (w / 2 ^ 56 % 16) (w / 2 ^ 48 % 64) (w % 2 ^ 48)
    let tells (s : State) (w : Word) : State := { s with boot.ctxcmd := w }
    let noLive : Prop := ∀ k ∈ s.crown.kernels, k.ctx = c.val → k.st = .retry
    (s.boot.ctxcmd.getLsbD 63 = false →
      ((∀ i, i < 64 → (s.ctxt i).st ≠ .free) → exec (.ctxCreate ⟨c, a⟩) s = .next (tells s (word false 4 0 c.val a.toNat)))
      ∧ ((∃ i, i < 64 ∧ (s.ctxt i).st = .free) → s.recordOk r = false → exec (.ctxCreate ⟨c, a⟩) s = .next (tells s (word false 2 0 c.val a.toNat)))
      ∧ ((∃ i, i < 64 ∧ (s.ctxt i).st = .free) → s.recordOk r = true → r.getLsbD 0 = true →
        exec (.ctxCreate ⟨c, a⟩) s = .next (tells s (word false 3 0 c.val a.toNat)))
      ∧ ((∃ i, i < 64 ∧ (s.ctxt i).st = .free) → s.recordOk r = true → r.getLsbD 0 = false → ∃ z i, exec (.ctxCreate ⟨c, a⟩) s = .next z
        ∧ i < 64 ∧ (s.ctxt i).st = .free ∧ z.ctxt i = Ctxt.make r ∧ (z.ctxt i).st = .building ∧ z.boot.ctxcmd = word false 0 0 i a.toNat
        ∧ (∀ j, j ≠ i → z.ctxt j = s.ctxt j) ∧ z.tiles = s.tiles ∧ z.hbm = s.hbm)
      ∧ (x.st = .building → exec (.ctxSeal ⟨c, a⟩) s = .next (tells (s.onCtxt c fun x => { x with st := .ready }) (word false 0 1 c.val a.toNat)))
      ∧ (x.st ≠ .building → exec (.ctxSeal ⟨c, a⟩) s = .next (tells s (word false 1 1 c.val a.toNat)))
      ∧ (x.st = .active → ∃ z, exec (.ctxQuiesce ⟨c, a⟩) s = .next z ∧ (z.ctxt c).st = .quiescing ∧ z.boot.ctxcmd = word false 0 2 c.val a.toNat
        ∧ (∀ q, q < 2048 → (z.queue q).st = .enabled → (s.queue q).ctx ≠ c.val) ∧ z.crown.kernels = s.crown.kernels ∧ z.tiles = s.tiles)
      ∧ (x.st ≠ .active → exec (.ctxQuiesce ⟨c, a⟩) s = .next (tells s (word false 1 2 c.val a.toNat)))
      ∧ (x.st = .ready ∨ x.st = .active ∨ x.st = .quiescing → ∃ z, exec (.ctxKill ⟨c, a⟩) s = .next z ∧ (z.ctxt c).st = .ready
        ∧ z.boot.ctxcmd = word false 0 3 c.val a.toNat ∧ (∀ k, s.kernel k.id = some k → k.ctx = c.val →
          k.st = .dispatching ∨ k.st = .running ∨ k.st = .finished ∨ k.st = .aborting → ∃ y, z.kernel k.id = some y ∧ y.st = .aborting ∧ y.cause = some .kill)
        ∧ z.tiles = s.tiles)
      ∧ (x.st = .faulted → ∃ z, exec (.ctxKill ⟨c, a⟩) s = .next z ∧ (z.ctxt c).st = .faulted ∧ z.boot.ctxcmd = word false 0 3 c.val a.toNat ∧ z.tiles = s.tiles)
      ∧ (x.st = .free ∨ x.st = .building ∨ x.st = .destroyed → exec (.ctxKill ⟨c, a⟩) s = .next (tells s (word false 1 3 c.val a.toNat)))
      ∧ (x.st ≠ .free → x.st ≠ .destroyed → ∃ z, exec (.ctxDestroy ⟨c, a⟩) s = .next z ∧ (z.ctxt c).st = .destroyed
        ∧ z.boot.ctxcmd = word true 0 4 c.val a.toNat ∧ z.tiles = s.tiles)
      ∧ (x.st = .free ∨ x.st = .destroyed → exec (.ctxDestroy ⟨c, a⟩) s = .next (tells s (word false 1 4 c.val a.toNat))
        ∧ exec (.ctxStepRead ⟨c, a⟩) s = .next (tells s (word false 1 6 c.val a.toNat)))
      ∧ (x.st = .building ∨ x.st = .ready → noLive → n ≠ x.step → exec (.ctxStepWrite c n) s = .next (tells { s with
          crown.cwork := vmod s.crown.cwork c fun w => { w with stepWrite := some (n, ⟨s.ringedTensors c.val, n.toNat, 0⟩) } } (word true 0 5 c.val n.toNat)))
      ∧ (x.st = .building ∨ x.st = .ready → noLive → n = x.step → exec (.ctxStepWrite c n) s = .next (tells s (word false 0 5 c.val n.toNat)))
      ∧ (x.st ≠ .building ∧ x.st ≠ .ready ∨ ¬ noLive → exec (.ctxStepWrite c n) s = .next (tells s (word false 1 5 c.val n.toNat)))
      ∧ (x.st ≠ .free → x.st ≠ .destroyed → exec (.ctxStepRead ⟨c, a⟩) s = .next (tells s (word false 0 6 c.val x.step.toNat))))
    ∧ (s.boot.ctxcmd.getLsbD 63 = true → exec (.ctxCreate ⟨c, a⟩) s = .next s ∧ exec (.ctxSeal ⟨c, a⟩) s = .next s ∧ exec (.ctxQuiesce ⟨c, a⟩) s = .next s
      ∧ exec (.ctxKill ⟨c, a⟩) s = .next s ∧ exec (.ctxDestroy ⟨c, a⟩) s = .next s ∧ exec (.ctxStepWrite c n) s = .next s ∧ exec (.ctxStepRead ⟨c, a⟩) s = .next s)
    ∧ (x.st = .destroyed → noLive → (∀ g ∈ s.crown.groups, g.ctx ≠ c.val) →
      let lines := (s.roots.versions.filter fun v => v.ctx == c.val && s.committed v).map (·.line)
      let w := lines.foldl State.settleLine s
      ((∃ l ∈ lines, w.isHeld (.settle l) = true) → exec (.destroyScrubDone c) s = .next w)
      ∧ ((∀ l ∈ lines, w.isHeld (.settle l) = false) → ∃ z, exec (.destroyScrubDone c) s = .next z ∧ z.ctxt c = Ctxt.reset ∧ z.boot.ctxcmd = ended s 0
        ∧ (∀ k ∈ z.crown.kernels, k.ctx ≠ c.val) ∧ (∀ v ∈ z.roots.versions, v.ctx ≠ c.val) ∧ (∀ h ∈ z.roots.holds, h.ctx ≠ c.val)
        ∧ (∀ q, q < 2048 → (z.queue q).st ≠ .unbound → (z.queue q).ctx ≠ c.val) ∧ (∀ i, (z.tile i).spad = (s.tile i).spad)))
    ∧ (∀ (v : BitVec 48) (p : Pass) (m : Nat) (w : State), (vget s.crown.cwork c ⟨none, false, none, 0, []⟩).stepWrite = some (v, p) →
      let went := s.runPass c 0xFFFF (stepWriteRule x.step.toNat v.toNat) p
      (∀ u : Unit, went = (m, .ok u w) →
        ∃ z, exec (.stepWriteDone c) s = .next z ∧ (z.ctxt c).step = v ∧ z.boot.ctxcmd = ended w 0 ∧ z.hbm = w.hbm ∧ z.tiles = w.tiles)
      ∧ (went = (m, .wait w) → exec (.stepWriteDone c) s = .next { w with
        crown.cwork := vmod w.crown.cwork c fun y => { y with stepWrite := some (v, { p with past := m }) } })
      ∧ (∀ f : Cause, went = (m, .fault f w) → ∃ z, exec (.stepWriteDone c) s = .next z ∧ (z.ctxt c).step = (w.ctxt c).step ∧ z.boot.ctxcmd = ended w 1
        ∧ z.hbm = w.hbm ∧ ((w.ctxt c).st = .building ∨ (w.ctxt c).st = .ready → (z.ctxt c).st = .faulted)))

/-- R279 to R281, R284, R288, R371 to R373, R376, R377, R396: the host's writes to queues, the segment pool, page lists and trap queues, and a record the
Crown writes to a trap queue. That a cap below the count is not taken, and that en takes what is written also where R284's table has no transition for it, is
the model's choice (log 39), as are that a write of the Crown waits for no page (log 89) and that an interrupt is lost while the PCIe link carries nothing (log 90). -/
def Obligations.HostQueueAndPageCommandsComplete : Prop :=
  ∀ (s : State) (q : Fin 2048) (c : Fin 64) (w : Word) (a : BitVec 48), s.boot.stage = 2#4 →
    let x := s.queue q
    let v := w.toNat
    let cap := v / 2 ^ 32 % 2 ^ 16
    let slot := v / 64 % 2 ^ 34 * 64
    let calm : Prop := ∀ i, i < 2048 → (s.queue i).st ≠ .stalled
    let page (status op c arg : Nat) : Word := BitVec.ofNat 64 (status * 2 ^ 60 + op * 2 ^ 56 + c * 2 ^ 48 + arg)
    (let en : Bool := w.getLsbD 63
      let ready : Prop := (s.ctxt x.ctx).st = .ready ∨ (s.ctxt x.ctx).st = .active
      let set (f : Queue → Queue) : Prop := exec (.qcfgWrite q w) s = .next (s.onQueue q fun x => { f x with
        en := en, rej := if w.getLsbD 59 = true then false else x.rej })
      (x.st = .unbound → set fun x => { x with configured := decide (cap ≠ 0), ctx := v / 2 ^ 48 % 2 ^ 6, cap := cap })
      ∧ (x.st ≠ .unbound → ∀ st : QState,
        (st = if x.st = .disabled ∧ en = true ∧ ready then .enabled else if x.st = .enabled ∧ en = false then .disabled else x.st) →
        set fun x => { x with st := st, cap := if cap = 0 ∨ cap < x.count then x.cap else cap }))
    ∧ (x.pushes ≠ [] → exec (.qtailWrite q w) s = .next (s.onQueue q fun x => { x with pushes := x.pushes ++ [.tail slot] }))
    ∧ (x.pushes = [] →
      (x.st = .unbound → x.configured = true → slot % 4096 = 0 → s.linkOf slot = 0 → exec (.qtailWrite q w) s = .next (s.onQueue q fun x => { x with
        st := .disabled, headSlot := slot, tailSlot := slot, headSeq := 0#16, tailSeq := 0#16, checked := false, retiring := none }))
      ∧ (x.st = .unbound → x.configured = false ∨ slot % 4096 ≠ 0 ∨ s.linkOf slot ≠ 0 →
        exec (.qtailWrite q w) s = .next (s.onQueue q fun x => { x with rej := true }))
      ∧ (x.st ≠ .unbound → slot < x.tailSlot ∨ slot / 4096 ≠ x.tailSlot / 4096 ∨ x.cap < x.count + (slot - x.tailSlot) / 64 →
        exec (.qtailWrite q w) s = .next (s.onQueue q fun x => { x with rej := true }))
      ∧ (x.st = .enabled ∨ x.st = .disabled → x.tailSlot % 64 = 0 → slot / 4096 = x.tailSlot / 4096 → x.tailSlot ≤ slot →
        x.count + (slot - x.tailSlot) / 64 ≤ x.cap →
        (slot / 64 % 64 ≠ 63 → ∃ z, exec (.qtailWrite q w) s = .next z ∧ (z.queue q).tailSlot = slot
          ∧ (z.queue q).tailSeq = x.tailSeq + BitVec.ofNat 16 ((slot - x.tailSlot) / 64) ∧ (z.queue q).headSeq = x.headSeq ∧ (z.queue q).st = x.st
          ∧ z.hbm = s.hbm ∧ z.tiles = s.tiles)
        ∧ (slot / 64 % 64 = 63 → s.linkOf slot = 0 → s.boot.segs = [] → x.ctx < 64 → ∃ z r, exec (.qtailWrite q w) s = .next z
          ∧ (z.queue q).st = .stalled ∧ (z.queue q).tailSlot = slot ∧ (z.ctxt x.ctx).waiting = (s.ctxt x.ctx).waiting ++ [r]
          ∧ r.cause = .queueOverflow ∧ z.hbm = s.hbm ∧ z.tiles = s.tiles))
      ∧ (x.st = .stalled → slot = x.tailSlot → x.count ≤ x.cap → ∃ z, exec (.qtailWrite q w) s = .next z ∧ (z.queue q).st = .stalled
        ∧ (z.queue q).rej = x.rej ∧ (z.queue q).tailSlot = slot ∧ (z.queue q).tailSeq = x.tailSeq ∧ s.sameMemory z))
    ∧ (let seg := v / 2 ^ 12 % 2 ^ 28 * 4096
      seg ≠ 0 → w.getLsbD 63 = false → calm →
        (s.boot.segs.length < 65536 → exec (.segpoolPush w) s = .next { s with boot.segs := s.boot.segs ++ [seg] })
        ∧ (65536 ≤ s.boot.segs.length → exec (.segpoolPush w) s = .next { s with boot.segRej := true }))
    ∧ (s.boot.pgcmd.getLsbD 63 = true → exec (.pgUpdate c a) s = .next s ∧ exec (.pgAdclear c a) s = .next s ∧ exec (.pgWake c a) s = .next s)
    ∧ (s.boot.pgcmd.getLsbD 63 = false →
      (a.toNat % 8 ≠ 0 → exec (.pgUpdate c a) s = .next { s with boot.pgcmd := page 2 0 c.val a.toNat }
        ∧ exec (.pgAdclear c a) s = .next { s with boot.pgcmd := page 2 1 c.val a.toNat })
      ∧ (let old := s.viewNum a.toNat 8
        a.toNat % 8 = 0 → entryBit old 63 = false → (∀ i, i ∈ linesOf a.toNat 8 → s.settleLine i = s) → a.toNat + 8 ≤ hbmEnd →
        ∃ z, exec (.pgUpdate c a) s = .next z ∧ z.hbm = s.hbm.write a.toNat (leBytes 8 s.boot.pgdata.toNat) ∧ z.boot.pgcmd = page 0 0 c.val a.toNat
          ∧ z.boot.pgdata = BitVec.ofNat 64 old ∧ (∀ y ∈ z.roots.walks, y.entry ≠ a.toNat ∧ y.parent ≠ some a.toNat)
          ∧ (∀ h ∈ z.roots.holds, h.entry = a.toNat → h.place = false → h.woken = true) ∧ z.tiles = s.tiles)
      ∧ (let old := s.viewNum a.toNat 8
        a.toNat % 8 = 0 → entryBit old 63 = true → entryBit old 62 = true → entryBit old 57 = true → entryBit s.boot.pgdata.toNat 63 = false →
        exec (.pgUpdate c a) s = .next { s with boot.pgcmd := page 3 0 c.val a.toNat })
      ∧ (let old := s.viewNum a.toNat 8
        let cleared (w i : Nat) : Nat := if s.boot.pgdata.getLsbD i = true ∧ entryBit w i = true then w - 2 ^ i else w
        a.toNat % 8 = 0 → (∀ i, i ∈ linesOf a.toNat 8 → s.settleLine i = s) → a.toNat + 8 ≤ hbmEnd →
        ∃ z, exec (.pgAdclear c a) s = .next z ∧ z.hbm = s.hbm.write a.toNat (leBytes 8 (cleared (cleared old 59) 58))
          ∧ z.boot.pgcmd = page 0 1 c.val a.toNat ∧ z.boot.pgdata = BitVec.ofNat 64 old ∧ z.tiles = s.tiles)
      ∧ (let hit (h : Hold) : Prop := h.ctx = c.val ∧ h.fid = some (a.toNat % 2 ^ 32) ∧ h.woken = false
        ((∃ h ∈ s.roots.holds, hit h) → ∃ z, exec (.pgWake c a) s = .next z ∧ (∀ h ∈ z.roots.holds, ¬ hit h)
          ∧ z.roots.holds.length = s.roots.holds.length ∧ z.boot.pgcmd = page 0 2 c.val a.toNat ∧ z.hbm = s.hbm)
        ∧ ((∀ h ∈ s.roots.holds, ¬ hit h) → exec (.pgWake c a) s = .next { s with boot.pgcmd := page 1 2 c.val a.toNat })))
    ∧ exec (.tqptrHeadWrite c w) s = .next (s.onCtxt c fun x => { x with tqHead := w.setWidth 16 })
    ∧ (∀ (r : TqRec) (rest : List TqRec), nextRecord (s.ctxt c).room [] (s.ctxt c).waiting = some (r, rest) →
      ((s.ctxt c).room ≠ 0 → calm → ∃ z, exec (.trapRecordWrite c) s = .next z
          ∧ z.hbm = (s.crownWrite ((s.ctxt c).trapBase + 64 * (s.ctxt c).tqTail.toNat) (r.bytes s.gcyc.toNat)).hbm
          ∧ (z.ctxt c).tqTail.toNat = ((s.ctxt c).tqTail.toNat + 1) % (s.ctxt c).trapLen % 2 ^ 16
          ∧ (z.ctxt c).waiting = rest ++ ((s.crownWrite ((s.ctxt c).trapBase + 64 * (s.ctxt c).tqTail.toNat) (r.bytes s.gcyc.toNat)).ctxt c).waiting.drop
            (s.ctxt c).waiting.length
          ∧ z.links.out = s.links.out ++ (if s.pcieUp = true then [.msix c.val] else []))
      ∧ ((s.ctxt c).room = 0 → (s.ctxt c).st = .destroyed → exec (.trapRecordWrite c) s
        = .next (s.onCtxt c fun x => { x with waiting := rest, fatal := true, ovf := true }))
      ∧ ((s.ctxt c).room = 0 → (s.ctxt c).st ≠ .destroyed → ∃ z, exec (.trapRecordWrite c) s = .next z ∧ (z.ctxt c).st = .faulted
        ∧ (z.ctxt c).ovf = true ∧ (z.ctxt c).fatal = true ∧ (z.ctxt c).waiting = rest ∧ s.sameMemory z))

/-- R1, R326, R393 to R398, R400, R401, R403: reset and boot, the security processor's commands, housekeeping writes, bring-up lists, debug registers over
the management path, management, soft errors and trips. Of the model and not of the rules: which events fire vector 65 (DESIGN CHOICE, log 40), the constants
of the device (DESIGN CHOICE, log 82), how readings of the sensors come and what a trip aborts (DESIGN CHOICE, log 72), which tile names the group of a RESUME
(DEDUCED, log 31), when SPSEQ advances (DEDUCED, log 71) and in which step a command of the security processor takes place (DEDUCED, log 88), how a word keeps
a check value that does not fit (DEDUCED, log 73), and that a reset takes back no request already sent (DEDUCED, log 74);
that an interrupt is lost while the PCIe link carries nothing (DESIGN CHOICE, log 90); and that a write of a debug register over the management path is
refused where the group's context is secure (DEDUCED, log 94). -/
def Obligations.PlatformStepsComplete : Prop :=
  ∀ (s : State),
    let sp (status op c arg : Nat) : Word := BitVec.ofNat 64 (status * 2 ^ 60 + op * 2 ^ 56 + c * 2 ^ 48 + arg % 2 ^ 48)
    let answer (s : State) (w : Word) (out : List Byte) : State :=
      { s with boot.spcmd := w, boot.spbuf := out ++ List.replicate (512 - out.length) 0#8 }
    let mgmt (status op c t : Nat) : Word := BitVec.ofNat 64 (status * 2 ^ 60 + op * 2 ^ 56 + c * 2 ^ 48 + t)
    let told : List Out := s.links.out ++ if s.pcieUp = true then [.msix 65] else []
    let hurts (z : State) (cause : Cause) : Prop := ∀ k, s.kernel k.id = some k → k.st = .running → ∃ y, z.kernel k.id = some y
      ∧ y.st = .aborting ∧ y.cause = some cause
    let limit : Nat := if Config.isModule = true then 3200 else 3000
    (s.boot.inReset = true → ∃ z, exec .resetRelease s = .next z ∧ z.boot.inReset = false ∧ z.gcyc = s.gcyc ∧ z.tiles = s.tiles
      ∧ (∀ p : Fin 33, (z.links.ports[p]).st = if (s.links.ports[p]).st = .down then .training else (s.links.ports[p]).st))
    ∧ (∀ m k v : List (BitVec 8), s.boot.inReset = false → s.boot.stage = 0#4 →
      let d := shake256 m 64
      let sound : Prop := shake256 k 32 = Config.fusedKeyHash ∧ edVerify k d v = true
      ∃ z, exec (.firmwareVerified m k v) s = .next z ∧ (sound → z = { s with boot.stage := 1#4, boot.digest := d })
        ∧ (¬ sound → z.boot.stage = 15#4 ∧ z.gcyc = s.gcyc ∧ z.crown = s.crown))
    ∧ (∃ z, exec .resetAssert s = .next z ∧ z.boot = State.reset.boot ∧ z.gcyc = 0#64 ∧ z.crown = State.reset.crown ∧ z.tiles = State.reset.tiles
      ∧ z.links.out = s.links.out)
    ∧ (∀ (k : Nat) (c : Cause) (n : Kernel), s.kernel k = some n → n.st = .running → c = .integrity ∨ c = .hbmError ∨ c = .spadError ∨ c = .planeError →
      ∃ z y, exec (.storageError (.group k) c) s = .next z ∧ z.kernel k = some y ∧ y.st = .aborting ∧ y.cause = some c ∧ z.tiles = s.tiles)
    ∧ (∀ (k : Nat) (n : Kernel), s.kernel k = some n → n.st = .committing → n.sweep.isSome = true → n.ctx < 64 → (s.ctxt n.ctx).st = .active →
      ∃ z y r, exec (.storageError (.group k) .integrity) s = .next z ∧ z.kernel k = some y ∧ y.st = .committing ∧ y.sweep = none
        ∧ (z.ctxt n.ctx).st = .faulted ∧ (z.ctxt n.ctx).waiting = (s.ctxt n.ctx).waiting ++ [r] ∧ r.cause = .sweepError ∧ r.fatal = true ∧ r.ticket = n.ticket.getD 0xFFFF)
    ∧ (∀ (t i : Nat) (flip : BitVec 512), t < 480 → ∃ z, exec (.storageError (.word (.spad t i) flip) .integrity) s = .next z
      ∧ (z.tile t).spad = (s.tile t).spad.write (64 * i) (leBytes 64 (leNat ((s.tile t).spad.read (64 * i) 64) ^^^ flip.toNat))
      ∧ i ∈ (z.tile t).spadBad ∧ (∀ j, j ≠ t → z.tile j = s.tile j) ∧ z.hbm = s.hbm ∧ z.crown = s.crown)
    ∧ (∀ (w : BitVec 16) (c : BitVec 12),
      (limit < w.toNat ∨ 190 ≤ c.toNat → exec (.throttle w c) s
        = .next { s with therm.power := w, therm.temp := c, therm.throttle := true, links.out := told })
      ∧ (¬ (limit < w.toNat ∨ 190 ≤ c.toNat) → exec (.throttleEnd w c) s
        = .next { s with therm.power := w, therm.temp := c, therm.throttle := false, links.out := told })
      ∧ (210 ≤ c.toNat → ∃ z, exec (.thermalTrip w c) s = .next z ∧ z.therm.trip = true ∧ hurts z .thermalTrip ∧ z.tiles = s.tiles ∧ z.links.out = told)
      ∧ (11 * limit ≤ 10 * w.toNat → ∃ z, exec (.powerTrip w c) s = .next z ∧ z.therm.trip = true ∧ hurts z .powerTrip ∧ z.tiles = s.tiles
        ∧ z.links.out = told))
    ∧ (s.boot.stage = 2#4 →
      let said := s.boot.digest ++ leBytes 8 0x7FF ++ leBytes 8 s.boot.rank.toNat ++ s.boot.spin.take 32
      let secret := Config.identitySecret s.boot.digest
      (∀ w : Word, let op := w.toNat / 2 ^ 56 % 16
        let c := w.toNat / 2 ^ 48 % 64
        let a := w.toNat % 2 ^ 48
        (s.boot.spcmd.getLsbD 63 = true → exec (.registerWrite (.bar0 0x200080#24) w) s = .next s)
        ∧ (s.boot.spcmd.getLsbD 63 = false → op < 4 → exec (.registerWrite (.bar0 0x200080#24) w) s
          = .next { s with boot.spcmd := BitVec.ofNat 64 (2 ^ 63 + (sp 0 op c a).toNat), boot.spin := s.boot.spbuf })
        ∧ (s.boot.spcmd.getLsbD 63 = false → 4 ≤ op → exec (.registerWrite (.bar0 0x200080#24) w) s = .next (answer s (sp 2 op c a) [])))
      ∧ (s.boot.spcmd.getLsbD 63 = false → exec .spIdkey s = .next s ∧ exec .spQuote s = .next s ∧ exec .spOwner s = .next s
        ∧ ∀ a, exec (.spSecureCreate a) s = .next s)
      ∧ (∀ (c : Fin 64) (a : BitVec 48), let runs (op : Nat) : Prop := s.boot.spcmd = BitVec.ofNat 64 (2 ^ 63 + (sp 0 op c.val a.toNat).toNat)
        let m : List Byte := shake256 (s.viewRead a.toNat 64 ++ leBytes 8 (s.boot.spseq.toNat + 1)) 64
        let r : Wide := BitVec.ofNat 512 (s.viewNum a.toNat 64)
        (runs 0 → exec .spIdkey s = .next (answer s (sp 0 0 c.val a.toNat) (edPublic secret)))
        ∧ (runs 1 → exec .spQuote s = .next (answer s (sp 0 1 c.val a.toNat) (said ++ edSign secret (shake256 said 64))))
        ∧ (runs 2 → s.boot.owner = none →
          exec .spOwner s = .next { answer s (sp 0 2 c.val a.toNat) [] with boot.owner := some (s.boot.spin.take 57) })
        ∧ (runs 2 → s.boot.owner ≠ none → exec .spOwner s = .next (answer s (sp 1 2 c.val a.toNat) []))
        ∧ (runs 3 → s.boot.owner = none → exec (.spSecureCreate a) s = .next (answer s (sp 1 3 c.val a.toNat) []))
        ∧ (runs 3 → s.boot.owner ≠ none → a.toNat % 64 ≠ 0 → exec (.spSecureCreate a) s = .next (answer s (sp 2 3 c.val a.toNat) []))
        ∧ (∀ k, runs 3 → s.boot.owner = some k → a.toNat % 64 = 0 →
          (edVerify k m (s.boot.spin.take 114) = false → exec (.spSecureCreate a) s = .next (answer s (sp 3 3 c.val a.toNat) []))
          ∧ (edVerify k m (s.boot.spin.take 114) = true → ∃ z, exec (.spSecureCreate a) s = .next z ∧ z.boot.spseq = s.boot.spseq + 1
            ∧ ((∀ i, i < 64 → (s.ctxt i).st ≠ .free) → z.boot.spcmd = sp 4 3 c.val a.toNat)
            ∧ ((∃ i, i < 64 ∧ (s.ctxt i).st = .free) → s.recordOk r = false ∨ r.getLsbD 0 = false → z.boot.spcmd = sp 2 3 c.val a.toNat ∧ z.crown = s.crown)
            ∧ ((∃ i, i < 64 ∧ (s.ctxt i).st = .free) → s.recordOk r = true → r.getLsbD 0 = true →
              ∃ i, i < 64 ∧ (s.ctxt i).st = .free ∧ z.ctxt i = Ctxt.make r ∧ z.boot.spcmd = sp 0 3 i a.toNat))))
      ∧ (∀ w : Word, (∀ i : Fin 64, s.crown.ctxs[i].st = .free) → exec (.rankWrite w) s = .next { s with boot.rank := w.setWidth 10 })
      ∧ (∀ (w : Word) (i : Fin 64), s.crown.ctxs[i].st ≠ .free → exec (.rankWrite w) s = .next s)
      ∧ (∀ e : Bool, exec (.crownctlWrite e) s = .next { s with boot.crownEn := e })
      ∧ (∀ (t : BitVec 9) (a : BitVec 16), s.boot.crownEn = false → t.toNat < 480 → exec (.startctlList t a) s
        = .next { s with boot.startList := s.boot.startList.filter (·.1 != t.toNat) ++ [(t.toNat, a.toNat * 4)] })
      ∧ (s.boot.crownEn = false → s.gcyc.toNat < s.boot.startGcy.toNat → exec .startctlGo s = .next { s with boot.startArmed := true })
      ∧ (s.boot.crownEn = false → s.boot.startGcy.toNat ≤ s.gcyc.toNat →
        exec .startctlGo s = .next { s with boot.startList := [], boot.startArmed := false })
      ∧ (∀ w : Word, exec (.registerWrite (.bar0 0x000018#24) w) s = .next { s with boot.pgdata := w })
      ∧ (∀ (w : Word) (i : Fin 64), exec (.registerWrite (.bar0 (BitVec.ofNat 24 (0x201000 + 8 * i.val))) w) s
        = .next { s with boot.spbuf := s.boot.spbuf.take (8 * i.val) ++ leBytes 8 w.toNat ++ s.boot.spbuf.drop (8 * i.val + 8) })
      ∧ (∀ (w : Word) (i : Fin 64), exec (.registerWrite (.bar0 (BitVec.ofNat 24 (0x10010 + 32 * i.val))) w) s
        = .next (s.onCtxt i.val fun x => { x with hwBase := BitVec.ofNat 64 (w.toNat / 2 ^ 12 * 2 ^ 12) }))
      ∧ (∀ (a : BitVec 24) (w : Word), a.toNat % 8 ≠ 0 → exec (.registerWrite (.bar0 a) w) s = .next s)
      ∧ (∀ w : Word, w.toNat / 2 ^ 56 % 16 = 15 → s.boot.ctxcmd.getLsbD 63 = false →
        exec (.registerWrite (.bar0 0#24) w) s = .next { s with boot.ctxcmd := sp 2 15 (w.toNat / 2 ^ 48 % 64) w.toNat })
      ∧ (∀ (t cr : Nat) (u : Bool) (w : Word) (g : Group), t < 480 → s.groupOf t u = some g →
        (g.st = .held → (s.ctxt g.ctx).secure = false → cr = 0x20 ∨ cr = 0x21 ∨ cr = 0x22 → ∃ z, exec (.registerWrite (.debug t u cr) w) s = .next z
          ∧ (z.tctx t u).cr = (s.tctx t u).cr.write cr w ∧ (z.tctx t u).regs = (s.tctx t u).regs ∧ (∀ j, j ≠ t → z.tile j = s.tile j) ∧ z.crown = s.crown)
        ∧ (g.st ≠ .held ∨ (s.ctxt g.ctx).secure = true → exec (.registerWrite (.debug t u cr) w) s = .next s))
      ∧ (∀ (c : Fin 64) (t : BitVec 9), ∃ z, exec (.mgmtHalt ⟨c, t⟩) s = .next z ∧ z.boot.mgmt = mgmt 0 0 c.val t.toNat ∧ z.tiles = s.tiles ∧ z.links.out = told
        ∧ ∀ g, s.group g.id = some g →
          (g.ctx = c.val → g.st = .running → g.paused = false → g.tiles ≠ [] → ∃ h, z.group g.id = some h
            ∧ h.st = .freezing (g.cnt + (2 * g.diameter + 8)) ∧ ∀ r ∈ h.window, r ∈ g.window ∨ (r.cause = .debugHalt ∧ r.tile ∈ g.tiles ∧ r.cyc = g.cnt))
          ∧ (g.ctx ≠ c.val → z.group g.id = some g))
      ∧ (∀ (c : Fin 64) (t : BitVec 9),
        let found := s.crown.groups.find? fun g => g.ctx == c.val && g.st == .held && !g.paused && g.home == t.toNat
        (∀ g : Group, found = some g → exec (.mgmtResume c t) s
          = .next { s.onGroup g.id (fun g => { g with st := .resuming (s.gcyc.toNat + (2 * g.diameter + 8)) }) with
            boot.mgmt := mgmt 0 1 c.val t.toNat, links.out := told })
        ∧ (found = none → exec (.mgmtResume c t) s = .next { s with boot.mgmt := mgmt 1 1 c.val t.toNat })))

/-- R379, R380, R382, R385 to R391: host accesses to HBM; remote reads, writes and atomics that R387 accepts, and those it answers with an error;
remote tokens in the order of R388, and requests that wait for their bank; responses, errors and timeouts of the package's own requests; and the states of a link.
That a read fetches the whole 64-byte words which hold its element, so that a response holds it at its offset modulo 64, is the model's choice (DESIGN CHOICE,
log 47), as are what a link that is down does to a request on its way (log 90), that a host's write whose settling copy fails lands on what stands above its
lines too (DESIGN CHOICE, log 89), and what a reader of a word gets whose check value does not fit (R400: DEDUCED,
log 73). -/
def Obligations.LinkStepsComplete : Prop :=
  ∀ (s : State),
    let say (s : State) (o : Out) : State := s.emit o
    (∀ (a : BitVec 40) (n : Nat), let m := min n (hbmEnd - a.toNat)
      (s.pcieUp = true → s.spannedBad a.toNat m = false →
        exec (.hostBar2Read a n) s = .next (say ((linesOf a.toNat m).foldl (fun s l => s.seeVersion none (256 * l) 0xFFFF 0x1FF) s) (.barData (s.viewRead a.toNat m ++ List.replicate (n - m) 0#8))))
      ∧ (s.pcieUp = true → s.spannedBad a.toNat m = true → exec (.hostBar2Read a n) s = .next (say s .errorReply))
      ∧ (s.pcieUp = false → exec (.hostBar2Read a n) s = .next s))
    ∧ (∀ (a : BitVec 40) (v : List (BitVec 8)),
      (∀ w : State, s.pcieUp = true → a.toNat + v.length ≤ hbmEnd → State.settleCopies (linesOf a.toNat v.length) s = (.done, w) →
        exec (.hostBar2Write a v) s = .next { w with hbm := w.hbm.write a.toNat v, hbmBad := freshWords a.toNat v.length w.hbmBad })
      ∧ (∀ w : State, s.pcieUp = true → a.toNat + v.length ≤ hbmEnd → State.settleCopies (linesOf a.toNat v.length) s = (.held, w) →
        exec (.hostBar2Write a v) s = .next { w with refused := true })
      ∧ (∀ (f : Cause) (w : State), s.pcieUp = true → a.toNat + v.length ≤ hbmEnd → State.settleCopies (linesOf a.toNat v.length) s = (.failed f, w) →
        let y := (linesOf a.toNat v.length).foldl State.settleLine w
        ((∃ l ∈ linesOf a.toNat v.length, y.isHeld (.settle l) = true) → exec (.hostBar2Write a v) s = .next { y with refused := true })
        ∧ ((∀ l ∈ linesOf a.toNat v.length, y.isHeld (.settle l) = false) → ∃ z, exec (.hostBar2Write a v) s = .next z ∧ z.hbm = y.hbm.write a.toNat v
          ∧ z.crown = y.crown ∧ z.tiles = y.tiles ∧ ∀ k ∈ y.roots.versions, y.committed k = true → v ≠ [] → 256 * k.line ≤ a.toNat →
            a.toNat + v.length ≤ 256 * k.line + 256 → { k with
              data := patchBytes k.data (a.toNat % 256) v
              bad := k.bad.filter fun i => !(wordSpan (a.toNat % 256) v.length).contains i } ∈ z.roots.versions))
      ∧ (hbmEnd ≤ a.toNat → ∃ z, exec (.hostBar2Write a v) s = .next z ∧ z.hbm = s.hbm ∧ z.roots = s.roots ∧ z.tiles = s.tiles)
      ∧ (s.pcieUp = false → exec (.hostBar2Write a v) s = .next s))
    ∧ (∀ (q : UalReq) (w : Bool) (v x : Word) (bs : List (BitVec 8)) (n cnt : Nat),
      let t := q.addr.toNat / 2 ^ 37 % 2 ^ 9
      let off := q.addr.toNat % 2 ^ 21
      let size : Nat := if w = true then 8 else 4
      let m := 2 ^ (8 * size)
      let old := (s.tile t).spad.num off size
      let clear (n : Nat) : Prop := ∀ i, i < (off + n + 63) / 64 - off / 64 → spadBank t (off / 64 * 64 + 64 * i) ∉ s.busy
      let good (n : Nat) : Prop := s.badLoc (.spad t off) n = false
      let wrote (i : Instr) (o bytes : List Byte) : Prop := ∃ z, exec i s = .next z ∧ (z.tile t).spad = (s.tile t).spad.write off bytes
        ∧ (z.tile t).spadBad = freshWords off bytes.length (s.tile t).spadBad ∧ (∀ i, i ≠ t → (z.tile i).spad = (s.tile i).spad) ∧ s.sameRegisters z ∧ z.hbm = s.hbm ∧ z.links.out = s.links.out ++ [.reply o]
      s.portUp q.port = true →
      (s.accepts q n = true → clear n → good n → ∃ z, exec (.ualReadRequest q n) s = .next z
        ∧ z.links.out = s.links.out ++ [.reply ((s.tile t).spad.read off n)] ∧ z.tiles = s.tiles ∧ z.hbm = s.hbm)
      ∧ (s.accepts q n = true → 0 < n → spadBank t off ∈ s.busy → exec (.ualReadRequest q n) s = .next { s with refused := true })
      ∧ (s.accepts q bs.length = true → clear bs.length → wrote (.ualWriteRequest q bs) [] bs)
      ∧ (∀ g, s.accepts q n = true → clear n → ¬ good n → s.reached q = some g → ∃ z, exec (.ualReadRequest q n) s = .next z
        ∧ z.links.out = s.links.out ++ [.errorReply] ∧ z.tiles = s.tiles ∧ z.hbm = s.hbm
        ∧ ∀ k, s.kernel g.id = some k → k.st = .running → ∃ y, z.kernel g.id = some y ∧ y.st = .aborting ∧ y.cause = some .integrity)
      ∧ (s.accepts q size = true → clear size → good size → off % size = 0 →
        wrote (.ualAtomicAdd q w v) (leBytes size old) (leBytes size (old + v.toNat))
        ∧ wrote (.ualAtomicSwap q w v) (leBytes size old) (leBytes size v.toNat)
        ∧ wrote (.ualAtomicCas q w x v) (leBytes size old) (leBytes size (if old = x.toNat % m then v.toNat else old)))
      ∧ (s.accepts q n = false → exec (.ualReadRequest q n) s = .next (say s .errorReply))
      ∧ (s.accepts q bs.length = false → exec (.ualWriteRequest q bs) s = .next (say s .errorReply))
      ∧ (∀ g, s.reached q = some g → q.addr.toNat / 2 ^ 46 % 4 = 1 → bs.length = 8 → off < 2 ^ 9 → off % 8 = 0 → ∃ z h,
        exec (.tokenWindowWrite q bs cnt) s = .next z ∧ z.links.held = s.links.held ++ [h] ∧ h.tile = t ∧ h.counter.val = off / 8
          ∧ h.amount = leNat bs % 2 ^ 32 ∧ h.count = cnt ∧ h.group = g.id ∧ z.links.out = s.links.out ++ [.reply []] ∧ z.tiles = s.tiles)
      ∧ (s.reached q = none → exec (.tokenWindowWrite q bs cnt) s = .next (say s .errorReply)))
    ∧ (∀ (q : UalReq) (w : Bool) (v x : Word) (bs : List (BitVec 8)) (n cnt : Nat), s.portUp q.port = false →
      ∀ i ∈ [Instr.ualReadRequest q n, .ualWriteRequest q bs, .ualAtomicAdd q w v, .ualAtomicSwap q w v, .ualAtomicCas q w x v, .tokenWindowWrite q bs cnt],
        exec i s = .next s)
    ∧ (∀ (h : HeldToken), s.links.held.find? (·.id == h.id) = some h →
      (s.appliedFrom h.rank h.src < h.count → exec (.remoteTokenLand h.id) s = .next s)
      ∧ (h.count ≤ s.appliedFrom h.rank h.src → (s.tctx h.tile false).group = some h.group → h.counter ≠ 63 → exec (.remoteTokenLand h.id) s
        = .next { s with
          links.held := s.links.held.filter (·.id != h.id)
          tokIn := s.tokIn ++ [(h.tile, false, h.counter, h.amount, some h.group)] }))
    ∧ (∀ (r : Request) (g : Nat) (bs : List (BitVec 8)), r.stream = none → r.group = some g →
      let gone (f : Cause) : State := { s with
        nextId := s.nextId + 1
        links.reqs := s.links.reqs.filter (·.id != r.id)
        traffic.faults := s.traffic.faults ++ [⟨s.nextId, g, r.tile, f, 0#64⟩] }
      let live : Prop := s.portUp r.port = true ∧ s.gcyc.toNat < r.sent + 2 ^ 24
      (s.request? r.id false = some r → (live → exec (.remoteErrorResponse r.id) s = .next (gone .remoteError)
          ∧ exec (.remoteReadResponse r.id bs) s = .next { s with links.reqs := s.links.reqs.filter (·.id != r.id) })
        ∧ (¬ live → exec (.remoteErrorResponse r.id) s = .next s ∧ exec (.remoteReadResponse r.id bs) s = .next s)
        ∧ (r.sent + 2 ^ 24 ≤ s.gcyc.toNat → exec (.remoteResponseTimeout r.id) s = .next (gone .remoteError))
        ∧ (s.gcyc.toNat < r.sent + 2 ^ 24 → exec (.remoteResponseTimeout r.id) s = .next s))
      ∧ (s.request? r.id true = some r → (s.pcieUp = true → exec (.hostReadCompletion r.id false bs) s = .next (gone .hostError))
        ∧ (s.pcieUp = false → exec (.hostReadCompletion r.id false bs) s = .next s)
        ∧ exec (.completionTimeout r.id) s = .next (gone .hostError)))
    ∧ (∀ (r : Request) (x : Stream) (e : Nat) (bs : List (BitVec 8)), r.stream = some x.id → s.stream x.id = some x →
      x.req.find? (·.1 == r.id) = some (r.id, e, false) → x.loose = true → x.width ≠ 4 → wEnd x.src = 2 ∨ wEnd x.src = 1 → ∀ host : Bool,
      s.request? r.id host = some r → (if host = true then s.pcieUp = true else s.portUp r.port = true ∧ s.gcyc.toNat < r.sent + 2 ^ 24) →
      ∃ z y b, exec (if host = true then .hostReadCompletion r.id true bs else .remoteReadResponse r.id bs) s = .next z
        ∧ z.links.reqs = s.links.reqs.filter (·.id != r.id) ∧ z.stream x.id = some y ∧ y.req = x.req.filter (·.1 != r.id)
        ∧ y.buf = x.buf ++ [b] ∧ b.n = e ∧ s.sameMemory z
        ∧ b.val = leNat ((bs.drop (((wOffset x.src x.width (wAffine x.src e)).1
          + if wEnd x.src = 2 then ((s.ctxt (s.streamCtx x)).hwBase.toNat : Int) else 0).toNat % 64)).take (elemBytes x.width)))
    ∧ (∀ (p : Fin 33) (w : BitVec 3) (r : BitVec 2),
      let x := s.links.ports[p]
      let now (y : Port) : State := { s with links.ports := s.links.ports.set p y }
      (s.boot.stage = 2#4 → p ≠ 32 → x.st = .down → exec (.portstatRetrain p) s = .next (now { x with st := .training }))
      ∧ (s.boot.inReset = false → p = 32 → x.st = .down → exec (.portstatRetrain p) s = .next (now { x with st := .training }))
      ∧ (x.st = .training → exec (.linkTrained p) s = .next (now { x with st := .up, width := 4#3, rate := 0#2 })
        ∧ (w.toNat ≤ 4 → w ≠ 4#3 ∨ r ≠ 0#2 → exec (.linkTrainedDegraded p w r) s = .next (now { x with st := .degraded, width := w, rate := r }))
        ∧ exec (.linkTrainingFail p) s = .next (now { x with st := .down, width := 0#3, rate := 3#2 }))
      ∧ (x.st = .up ∨ x.st = .degraded → exec (.linkError p) s = .next (now { x with st := .error, errs := min 0xFFFF (x.errs + 1) }))
      ∧ (x.st = .error → ∃ z, exec (.linkErrorDrained p) s = .next z ∧ (∀ q ∈ z.links.reqs, q.port ≠ p.val) ∧ s.sameMemory z
        ∧ z.links.ports = s.links.ports.set p { x with st := .down, width := 0#3, rate := 3#2 }))

/-- R76, R77, R79, R82, R84, R85: the words of the spec's worked examples, and words written out from its field tables, decode to the
instructions they stand for; bit 31 is the stop bit and no part of the instruction. -/
def Obligations.WordsDecodeAsTheSpecWritesThem : Prop :=
  decodeSlot 0x8C1C0040 = .ok (.limm 7 0x40#18) ∧ decodeSlot 0x8D1C0000 = .ok (.lsh18 7 0#18) ∧ decodeSlot 0x0D1C0100 = .ok (.lsh18 7 0x100#18)
    ∧ decodeSlot 0x870C0005 = .ok (.addi 3 0 5#12) ∧ decodeSlot 0xB30C7001 = .ok (.st64 3 7 1#12) ∧ decodeSlot 0x80000000 = .ok .nop
    ∧ decodeSlot 0x9E000002 = .ok .endK ∧ decodeSlot 0x600420D9 = .ok (.vadd 1 2 3 3 .bf16) ∧ decodeSlot 0x434850C6 = .ok (.mmaBf16 1 4 5 3 6)
    ∧ decodeSlot 0x985FFFF4 = .ok (.br 2 true 0xFFFF4#20) ∧ decodeSlot 0x9D3FFC01 = .ok (.loopi 0 0xFFF#12 1#10)
    ∧ decodeSlot 0xA4040001 = .ok (.waitk 1 1#12) ∧ decodeSlot 0xF4045020 = .ok (.vld 1 5 0x20#12)
    ∧ decodeSlot 0xF11C1000 = .ok (.vredAdd 7 1 0 .f32) ∧ decodeSlot 0x382142FC = .ok (.smov 4 5 2 63 0) ∧ decodeSlot 0xDE005018 = .ok (.esc 5 0x18#12)

/-- R76 to R86, R137: an instruction that meets every check of one slot has an encoding only below 2^31, and both words with that body, the
one with the stop bit and the one without, decode to it with every operand. -/
def Obligations.EveryEncodedSlotDecodesToItself : Prop :=
  ∀ (i : Instr) (w : Nat), i.wellFormed = true → encode i = some w →
    w < 2 ^ 31 ∧ decodeSlot w = .ok i ∧ decodeSlot (w + 2 ^ 31) = .ok i

/-- R79, R82 to R86: a word that decodes has one meaning: its instruction meets every check of one slot, and its encoding is the word's own
body; so a reserved field that is not zero, or an unassigned member, decodes to nothing. -/
def Obligations.DecodedWordsAreWellFormedAndEncodeBack : Prop :=
  ∀ (w : Nat) (i : Instr), w < 2 ^ 32 → decodeSlot w = .ok i → i.wellFormed = true ∧ encode i = some (w % 2 ^ 31)

/-- R55, R56, R86, R326: a step runs the slot that the bytes at the fetch address decode to: the first slot of a bundle that passes R86 after
the span and the debug traps of its bundle, each later slot in its turn, and then the way on to the next slot or past the bundle. A bundle
that R86 refuses traps and the sequence moves past it. A step of the package is the meaning of that step, and one whose request for a bank was
turned away joins the line of requests that wait; with no work left the next clock edge comes. -/
def Obligations.AStepRunsTheDecodedSlot : Prop :=
  ∀ (s : State) (t : Nat) (u : Bool) (rest : List Work),
    let m := (s.tile t).imem
    let pc := (s.tctx t u).fetchNow.pc
    let first : State := { s with work := rest, cur := ⟨t, u, 0, pc, pc + 4 * bundleSpan m pc, none, none⟩ }
    let opened : State := first.onMe fun c => c.openSpan (first.now t u)
    let run (i : Instr) (k : Nat) (z : State) : Host.Outcome State Fault Refusal :=
      match exec i z with
      | .next y => .next (y.afterSlot t u k)
      | .fault f => .fault f
      | .refused r => .refused r
    (∀ i is, s.work = .issue t u 0 :: rest → s.issues t u = true → s.bundle t u = .ok (i :: is) →
      decodeSlot (slotAt m pc) = .ok i ∧ step s = run i 0 (opened.debugTraps pc).count)
    ∧ (∀ k i, s.work = .issue t u k :: rest → 0 < k → (s.kernelOf t u).any (·.st == KState.aborting) = false →
      decodeSlot (slotAt m (s.cur.pc + 4 * k)) = .ok i → step s = run i k { s with work := rest, cur := { s.cur with slot := k } }.count)
    ∧ (∀ c j, s.work = .issue t u 0 :: rest → s.issues t u = true → s.bundle t u = .error (c, j) →
      step s = .next (opened.raise t u c 0#64 pc j).advance)
    ∧ (s.work = .issue t u 0 :: rest → s.issues t u = false → step s = .next { s with work := rest })
    ∧ (∀ i z, s.work = .event i :: rest → exec i { s with work := rest } = .next z →
      (z.refused = false → step s = .next z) ∧ (z.refused = true → step s = .next { z with refused := false, asks := z.asks ++ [i] }))
    ∧ (s.work = [] → step s = .next s.tick)

/-- R53, R54, R393: at a tile clock edge, once the Crown runs, gcyc advances by one and with it the counter of every group that counts, no other
counter; before that gcyc stands, and when the firmware has been verified it starts at 0. No register, memory or engine changes at the edge itself. -/
def Obligations.ClockEdgeAdvancesTheCounters : Prop :=
  ∀ (s : State), s.work = [] →
    (s.boot.stage = 2#4 → s.boot.startArmed = false → ∃ t, step s = .next t ∧ t.gcyc = s.gcyc + 1
      ∧ (∀ n g, s.group n = some g → ∃ h, t.group n = some h ∧ h.cnt = (if g.counts = true then g.cnt + 1 else g.cnt) ∧ h.st = g.st)
      ∧ t.tiles = s.tiles ∧ t.hbm = s.hbm ∧ t.shared = s.shared)
    ∧ (s.boot.stage = 1#4 → ∃ t, step s = .next t ∧ t.gcyc = 0#64 ∧ t.boot.stage = 2#4 ∧ t.tiles = s.tiles ∧ t.crown = s.crown ∧ t.hbm = s.hbm)
    ∧ (s.boot.stage ≠ 1#4 → s.boot.stage ≠ 2#4 → ∃ t, step s = .next t ∧ t.gcyc = s.gcyc ∧ t.boot = s.boot ∧ t.tiles = s.tiles ∧ t.crown = s.crown ∧ t.hbm = s.hbm)

/-- R317 with R120, R326, R346: what a hardware context holds at its entry bundle. R53, R268, R270, R277, R280, R344, R372, R376, R379, R391, R395,
R396: what the package holds after reset, with no version, no group and no kernel, every word with its check value, and its memories in canonical form;
what its BAR0 registers show (TQSTAT, whose free field has no reset value, and SPBUF apart); and that a host read of BAR0 that is no aligned
doubleword returns no data. What memories and registers hold before anything has written or entered them is the model's choice (log 1, log 2)
and is not stated here. -/
def Obligations.EntryAndResetValues : Prop :=
  (∀ (id pc stack : Nat) (u : Bool) (mb : Vector (BitVec 32) 16), let c := entryCtx id u pc stack mb
    (∀ i : Fin 64, c.regs.getX i = if i = 62 then BitVec.ofNat 64 (2 ^ 60 + if u = true then 0x200000 else 0x1E0000) else 0#64)
      ∧ (∀ i : Fin 8, c.regs.getP i = decide (i = 0) ∧ c.regs.getVm i = if i = 0 then 0xFFFF#16 else 0#16)
      ∧ (∀ i : Fin 32, c.regs.v[i] = 0#512 ∧ c.regs.w[i] = 0#512) ∧ (∀ i : Fin 4, c.regs.lc[i] = 0#32) ∧ (∀ i : Fin 64, c.regs.k[i] = 0#32)
      ∧ c.regs.mb = mb ∧ c.flow.fetch = ⟨pc, none, []⟩ ∧ c.cmdq = [] ∧ c.rings = [] ∧ c.snap = []
      ∧ c.cr.fpstat = 0#6 ∧ c.cr.rbseed = 0#64 ∧ c.cr.rbidx = 0#64 ∧ c.cr.tvec = 0#64 ∧ c.cr.tcause = 0#64 ∧ c.cr.tpc = 0#64 ∧ c.cr.tcyc = 0#64
      ∧ c.cr.tinfo = 0#64 ∧ c.cr.tscratch = 0#64 ∧ c.cr.cycalarm = 0#64 ∧ c.cr.dbgctl = 0#5 ∧ c.cr.bkpt = 0#64 ∧ c.cr.watch = 0#64)
  ∧ (let s := State.reset
    s.gcyc = 0#64 ∧ s.boot.stage = 0#4 ∧ s.boot.spcmd = 0#64 ∧ s.boot.spseq = 0#64 ∧ s.crown.groups = [] ∧ s.crown.kernels = []
      ∧ s.roots.versions = [] ∧ (∀ i : Fin 64, s.crown.ctxs[i].st = .free) ∧ (∀ i : Fin 2048, s.crown.queues[i].st = .unbound)
      ∧ (∀ i : Fin 256, s.crown.barriers[i].st = .unbound) ∧ (∀ i : Fin 64, s.regions[i] = none) ∧ s.hbmBad = [] ∧ s.sharedBad = []
      ∧ (∀ i : Fin 480, s.tiles[i].spadBad = []) ∧ s.memoriesCanonical)
  ∧ (∀ a : Nat, a < 2 ^ 24 → a % 8 = 0 → (∀ c : Fin 64, a ≠ 0x010008 + 32 * c.val) → a < 0x201000 ∨ 0x201200 ≤ a →
      State.reset.readBar0 a 8 = some (if a = 0x200000 then 0x7FF#64 else 0#64))
  ∧ (∀ (s : State) (a n : Nat), a % 8 ≠ 0 ∨ n ≠ 8 → s.readBar0 a n = none)

/-- R3, R7, log 2: from a state whose memories are in their canonical form every step that answers a next state, whatever it runs, leaves
every memory of the package in its canonical form. -/
def Obligations.EveryStepKeepsMemoriesCanonical : Prop :=
  ∀ (s t : State), s.memoriesCanonical → step s = .next t → t.memoriesCanonical

/-- R74, R99, R319: whatever an instruction or a step of the package meets, a trap, an abort, an error or a value the spec leaves open, it answers a next
state: none is refused and none stops the machine; and so every state has a step. -/
def Obligations.EveryInstructionAnswersANextState : Prop :=
  (∀ (i : Instr) (s : State), ∃ t, exec i s = .next t) ∧ (∀ s : State, ∃ t, step s = .next t)

/-- R56: a slot changes nothing but what is scheduled when it issues: no memory, no register of R78 but the loop counters, no control register,
no data of an engine, no clock, no context, queue, barrier, version or link. -/
def Obligations.SlotsChangeNoArchitectureAtIssue : Prop :=
  ∀ (i : Instr) (s t : State), encode i ≠ none → exec i s = .next t → s.sameArchitecture t

end Statements
end

