-- ==== Sys2Proof/Laws/Word.lean ====
section
/-! SUPPORT. Lemmas of the words of Word.lean: elements of vectors, bytes of numbers. -/
namespace Sys2Proof

theorem vget_lt {α : Type} {n : Nat} (v : Vector α n) (i : Nat) (d : α) (h : i < n) : vget v i d = v[i] := by
  simp [vget, h]

theorem vget_ge {α : Type} {n : Nat} (v : Vector α n) (i : Nat) (d : α) (h : ¬ i < n) : vget v i d = d := by
  simp [vget, h]

/-- Mapping one element leaves the others; beyond the end nothing changes. -/
theorem vget_vmod {α : Type} {n : Nat} (v : Vector α n) (i j : Nat) (f : α → α) (d : α) :
    vget (vmod v i f) j d = if i = j ∧ j < n then f (vget v j d) else vget v j d := by
  by_cases hi : i < n
  · by_cases hj : j < n <;> by_cases e : i = j <;> simp [vget, vmod, hi, hj, e]
  · by_cases e : i = j
    · subst e; simp [vget, hi]
    · simp [vget, vmod, hi, e]

theorem vget_vmod_same {α : Type} {n : Nat} (v : Vector α n) (i : Nat) (f : α → α) (d : α) (h : i < n) :
    vget (vmod v i f) i d = f (vget v i d) := by simp [vget_vmod, h]

theorem vget_vmod_other {α : Type} {n : Nat} (v : Vector α n) (i j : Nat) (f : α → α) (d : α) (h : i ≠ j) :
    vget (vmod v i f) j d = vget v j d := by simp [vget_vmod, h]

/-- A function that keeps a property of elements keeps it of a mapped vector. -/
theorem vget_vmod_keeps {α β : Type} {n : Nat} (p : α → β) (v : Vector α n) (i j : Nat) (f : α → α) (d : α) (h : ∀ x, p (f x) = p x) :
    p (vget (vmod v i f) j d) = p (vget v j d) := by
  rw [vget_vmod]; split <;> simp [h]

@[simp] theorem leBytes_length (n x : Nat) : (leBytes n x).length = n := by
  induction n generalizing x with
  | zero => rfl
  | succ n ih => simp [leBytes, ih]

/-- Reading back the bytes of a number gives the number, modulo what the bytes hold (R3). -/
theorem leNat_leBytes (n x : Nat) : leNat (leBytes n x) = x % 256 ^ n := by
  induction n generalizing x with
  | zero => simp [leBytes, leNat, Nat.mod_one]
  | succ n ih =>
    simp only [leBytes, leNat, ih, BitVec.toNat_ofNat]
    rw [Nat.pow_succ (n := 256), Nat.mul_comm (256 ^ n) 256, Nat.mod_mul]

end Sys2Proof
end

