-- ==== Sys2Proof/Laws/State.lean ====
section
/-! SUPPORT. One lemma per field per update of State, and what the accessors read after an update. -/
namespace Sys2Proof.Machine

/-! ### onTile -/

@[simp] theorem State.onTile_gcyc (s : State) (t : Nat) (f : Tile → Tile) : (s.onTile t f).gcyc = s.gcyc := rfl
@[simp] theorem State.onTile_work (s : State) (t : Nat) (f : Tile → Tile) : (s.onTile t f).work = s.work := rfl
@[simp] theorem State.onTile_offers (s : State) (t : Nat) (f : Tile → Tile) : (s.onTile t f).offers = s.offers := rfl
@[simp] theorem State.onTile_cur (s : State) (t : Nat) (f : Tile → Tile) : (s.onTile t f).cur = s.cur := rfl
@[simp] theorem State.onTile_free (s : State) (t : Nat) (f : Tile → Tile) : (s.onTile t f).free = s.free := rfl
@[simp] theorem State.onTile_nextId (s : State) (t : Nat) (f : Tile → Tile) : (s.onTile t f).nextId = s.nextId := rfl
@[simp] theorem State.onTile_hbmBad (s : State) (t : Nat) (f : Tile → Tile) : (s.onTile t f).hbmBad = s.hbmBad := rfl
@[simp] theorem State.onTile_sharedBad (s : State) (t : Nat) (f : Tile → Tile) : (s.onTile t f).sharedBad = s.sharedBad := rfl
@[simp] theorem State.onTile_asks (s : State) (t : Nat) (f : Tile → Tile) : (s.onTile t f).asks = s.asks := rfl
@[simp] theorem State.onTile_refused (s : State) (t : Nat) (f : Tile → Tile) : (s.onTile t f).refused = s.refused := rfl
@[simp] theorem State.onTile_busy (s : State) (t : Nat) (f : Tile → Tile) : (s.onTile t f).busy = s.busy := rfl
@[simp] theorem State.onTile_tokIn (s : State) (t : Nat) (f : Tile → Tile) : (s.onTile t f).tokIn = s.tokIn := rfl
@[simp] theorem State.onTile_hbm (s : State) (t : Nat) (f : Tile → Tile) : (s.onTile t f).hbm = s.hbm := rfl
@[simp] theorem State.onTile_shared (s : State) (t : Nat) (f : Tile → Tile) : (s.onTile t f).shared = s.shared := rfl
@[simp] theorem State.onTile_regions (s : State) (t : Nat) (f : Tile → Tile) : (s.onTile t f).regions = s.regions := rfl
@[simp] theorem State.onTile_crown (s : State) (t : Nat) (f : Tile → Tile) : (s.onTile t f).crown = s.crown := rfl
@[simp] theorem State.onTile_traffic (s : State) (t : Nat) (f : Tile → Tile) : (s.onTile t f).traffic = s.traffic := rfl
@[simp] theorem State.onTile_roots (s : State) (t : Nat) (f : Tile → Tile) : (s.onTile t f).roots = s.roots := rfl
@[simp] theorem State.onTile_links (s : State) (t : Nat) (f : Tile → Tile) : (s.onTile t f).links = s.links := rfl
@[simp] theorem State.onTile_boot (s : State) (t : Nat) (f : Tile → Tile) : (s.onTile t f).boot = s.boot := rfl
@[simp] theorem State.onTile_therm (s : State) (t : Nat) (f : Tile → Tile) : (s.onTile t f).therm = s.therm := rfl
@[simp] theorem State.onTile_saved (s : State) (t : Nat) (f : Tile → Tile) : (s.onTile t f).saved = s.saved := rfl

/-! ### onCtx -/

@[simp] theorem State.onCtx_gcyc (s : State) (t : Nat) (u : Bool) (f : TileCtx → TileCtx) : (s.onCtx t u f).gcyc = s.gcyc := rfl
@[simp] theorem State.onCtx_work (s : State) (t : Nat) (u : Bool) (f : TileCtx → TileCtx) : (s.onCtx t u f).work = s.work := rfl
@[simp] theorem State.onCtx_offers (s : State) (t : Nat) (u : Bool) (f : TileCtx → TileCtx) : (s.onCtx t u f).offers = s.offers := rfl
@[simp] theorem State.onCtx_cur (s : State) (t : Nat) (u : Bool) (f : TileCtx → TileCtx) : (s.onCtx t u f).cur = s.cur := rfl
@[simp] theorem State.onCtx_free (s : State) (t : Nat) (u : Bool) (f : TileCtx → TileCtx) : (s.onCtx t u f).free = s.free := rfl
@[simp] theorem State.onCtx_nextId (s : State) (t : Nat) (u : Bool) (f : TileCtx → TileCtx) : (s.onCtx t u f).nextId = s.nextId := rfl
@[simp] theorem State.onCtx_hbmBad (s : State) (t : Nat) (u : Bool) (f : TileCtx → TileCtx) : (s.onCtx t u f).hbmBad = s.hbmBad := rfl
@[simp] theorem State.onCtx_sharedBad (s : State) (t : Nat) (u : Bool) (f : TileCtx → TileCtx) : (s.onCtx t u f).sharedBad = s.sharedBad := rfl
@[simp] theorem State.onCtx_asks (s : State) (t : Nat) (u : Bool) (f : TileCtx → TileCtx) : (s.onCtx t u f).asks = s.asks := rfl
@[simp] theorem State.onCtx_refused (s : State) (t : Nat) (u : Bool) (f : TileCtx → TileCtx) : (s.onCtx t u f).refused = s.refused := rfl
@[simp] theorem State.onCtx_busy (s : State) (t : Nat) (u : Bool) (f : TileCtx → TileCtx) : (s.onCtx t u f).busy = s.busy := rfl
@[simp] theorem State.onCtx_tokIn (s : State) (t : Nat) (u : Bool) (f : TileCtx → TileCtx) : (s.onCtx t u f).tokIn = s.tokIn := rfl
@[simp] theorem State.onCtx_hbm (s : State) (t : Nat) (u : Bool) (f : TileCtx → TileCtx) : (s.onCtx t u f).hbm = s.hbm := rfl
@[simp] theorem State.onCtx_shared (s : State) (t : Nat) (u : Bool) (f : TileCtx → TileCtx) : (s.onCtx t u f).shared = s.shared := rfl
@[simp] theorem State.onCtx_regions (s : State) (t : Nat) (u : Bool) (f : TileCtx → TileCtx) : (s.onCtx t u f).regions = s.regions := rfl
@[simp] theorem State.onCtx_crown (s : State) (t : Nat) (u : Bool) (f : TileCtx → TileCtx) : (s.onCtx t u f).crown = s.crown := rfl
@[simp] theorem State.onCtx_traffic (s : State) (t : Nat) (u : Bool) (f : TileCtx → TileCtx) : (s.onCtx t u f).traffic = s.traffic := rfl
@[simp] theorem State.onCtx_roots (s : State) (t : Nat) (u : Bool) (f : TileCtx → TileCtx) : (s.onCtx t u f).roots = s.roots := rfl
@[simp] theorem State.onCtx_links (s : State) (t : Nat) (u : Bool) (f : TileCtx → TileCtx) : (s.onCtx t u f).links = s.links := rfl
@[simp] theorem State.onCtx_boot (s : State) (t : Nat) (u : Bool) (f : TileCtx → TileCtx) : (s.onCtx t u f).boot = s.boot := rfl
@[simp] theorem State.onCtx_therm (s : State) (t : Nat) (u : Bool) (f : TileCtx → TileCtx) : (s.onCtx t u f).therm = s.therm := rfl
@[simp] theorem State.onCtx_saved (s : State) (t : Nat) (u : Bool) (f : TileCtx → TileCtx) : (s.onCtx t u f).saved = s.saved := rfl

/-! ### onMe -/

@[simp] theorem State.onMe_gcyc (s : State) (f : TileCtx → TileCtx) : (s.onMe f).gcyc = s.gcyc := rfl
@[simp] theorem State.onMe_work (s : State) (f : TileCtx → TileCtx) : (s.onMe f).work = s.work := rfl
@[simp] theorem State.onMe_offers (s : State) (f : TileCtx → TileCtx) : (s.onMe f).offers = s.offers := rfl
@[simp] theorem State.onMe_cur (s : State) (f : TileCtx → TileCtx) : (s.onMe f).cur = s.cur := rfl
@[simp] theorem State.onMe_free (s : State) (f : TileCtx → TileCtx) : (s.onMe f).free = s.free := rfl
@[simp] theorem State.onMe_nextId (s : State) (f : TileCtx → TileCtx) : (s.onMe f).nextId = s.nextId := rfl
@[simp] theorem State.onMe_hbmBad (s : State) (f : TileCtx → TileCtx) : (s.onMe f).hbmBad = s.hbmBad := rfl
@[simp] theorem State.onMe_sharedBad (s : State) (f : TileCtx → TileCtx) : (s.onMe f).sharedBad = s.sharedBad := rfl
@[simp] theorem State.onMe_asks (s : State) (f : TileCtx → TileCtx) : (s.onMe f).asks = s.asks := rfl
@[simp] theorem State.onMe_refused (s : State) (f : TileCtx → TileCtx) : (s.onMe f).refused = s.refused := rfl
@[simp] theorem State.onMe_busy (s : State) (f : TileCtx → TileCtx) : (s.onMe f).busy = s.busy := rfl
@[simp] theorem State.onMe_tokIn (s : State) (f : TileCtx → TileCtx) : (s.onMe f).tokIn = s.tokIn := rfl
@[simp] theorem State.onMe_hbm (s : State) (f : TileCtx → TileCtx) : (s.onMe f).hbm = s.hbm := rfl
@[simp] theorem State.onMe_shared (s : State) (f : TileCtx → TileCtx) : (s.onMe f).shared = s.shared := rfl
@[simp] theorem State.onMe_regions (s : State) (f : TileCtx → TileCtx) : (s.onMe f).regions = s.regions := rfl
@[simp] theorem State.onMe_crown (s : State) (f : TileCtx → TileCtx) : (s.onMe f).crown = s.crown := rfl
@[simp] theorem State.onMe_traffic (s : State) (f : TileCtx → TileCtx) : (s.onMe f).traffic = s.traffic := rfl
@[simp] theorem State.onMe_roots (s : State) (f : TileCtx → TileCtx) : (s.onMe f).roots = s.roots := rfl
@[simp] theorem State.onMe_links (s : State) (f : TileCtx → TileCtx) : (s.onMe f).links = s.links := rfl
@[simp] theorem State.onMe_boot (s : State) (f : TileCtx → TileCtx) : (s.onMe f).boot = s.boot := rfl
@[simp] theorem State.onMe_therm (s : State) (f : TileCtx → TileCtx) : (s.onMe f).therm = s.therm := rfl
@[simp] theorem State.onMe_saved (s : State) (f : TileCtx → TileCtx) : (s.onMe f).saved = s.saved := rfl

/-! ### onGroup -/

@[simp] theorem State.onGroup_gcyc (s : State) (g : Nat) (f : Group → Group) : (s.onGroup g f).gcyc = s.gcyc := rfl
@[simp] theorem State.onGroup_work (s : State) (g : Nat) (f : Group → Group) : (s.onGroup g f).work = s.work := rfl
@[simp] theorem State.onGroup_offers (s : State) (g : Nat) (f : Group → Group) : (s.onGroup g f).offers = s.offers := rfl
@[simp] theorem State.onGroup_cur (s : State) (g : Nat) (f : Group → Group) : (s.onGroup g f).cur = s.cur := rfl
@[simp] theorem State.onGroup_free (s : State) (g : Nat) (f : Group → Group) : (s.onGroup g f).free = s.free := rfl
@[simp] theorem State.onGroup_nextId (s : State) (g : Nat) (f : Group → Group) : (s.onGroup g f).nextId = s.nextId := rfl
@[simp] theorem State.onGroup_hbmBad (s : State) (g : Nat) (f : Group → Group) : (s.onGroup g f).hbmBad = s.hbmBad := rfl
@[simp] theorem State.onGroup_sharedBad (s : State) (g : Nat) (f : Group → Group) : (s.onGroup g f).sharedBad = s.sharedBad := rfl
@[simp] theorem State.onGroup_asks (s : State) (g : Nat) (f : Group → Group) : (s.onGroup g f).asks = s.asks := rfl
@[simp] theorem State.onGroup_refused (s : State) (g : Nat) (f : Group → Group) : (s.onGroup g f).refused = s.refused := rfl
@[simp] theorem State.onGroup_busy (s : State) (g : Nat) (f : Group → Group) : (s.onGroup g f).busy = s.busy := rfl
@[simp] theorem State.onGroup_tiles (s : State) (g : Nat) (f : Group → Group) : (s.onGroup g f).tiles = s.tiles := rfl
@[simp] theorem State.onGroup_tokIn (s : State) (g : Nat) (f : Group → Group) : (s.onGroup g f).tokIn = s.tokIn := rfl
@[simp] theorem State.onGroup_hbm (s : State) (g : Nat) (f : Group → Group) : (s.onGroup g f).hbm = s.hbm := rfl
@[simp] theorem State.onGroup_shared (s : State) (g : Nat) (f : Group → Group) : (s.onGroup g f).shared = s.shared := rfl
@[simp] theorem State.onGroup_regions (s : State) (g : Nat) (f : Group → Group) : (s.onGroup g f).regions = s.regions := rfl
@[simp] theorem State.onGroup_traffic (s : State) (g : Nat) (f : Group → Group) : (s.onGroup g f).traffic = s.traffic := rfl
@[simp] theorem State.onGroup_roots (s : State) (g : Nat) (f : Group → Group) : (s.onGroup g f).roots = s.roots := rfl
@[simp] theorem State.onGroup_links (s : State) (g : Nat) (f : Group → Group) : (s.onGroup g f).links = s.links := rfl
@[simp] theorem State.onGroup_boot (s : State) (g : Nat) (f : Group → Group) : (s.onGroup g f).boot = s.boot := rfl
@[simp] theorem State.onGroup_therm (s : State) (g : Nat) (f : Group → Group) : (s.onGroup g f).therm = s.therm := rfl
@[simp] theorem State.onGroup_saved (s : State) (g : Nat) (f : Group → Group) : (s.onGroup g f).saved = s.saved := rfl
@[simp] theorem State.onGroup_ctxs (s : State) (g : Nat) (f : Group → Group) : (s.onGroup g f).crown.ctxs = s.crown.ctxs := rfl
@[simp] theorem State.onGroup_cwork (s : State) (g : Nat) (f : Group → Group) : (s.onGroup g f).crown.cwork = s.crown.cwork := rfl
@[simp] theorem State.onGroup_queues (s : State) (g : Nat) (f : Group → Group) : (s.onGroup g f).crown.queues = s.crown.queues := rfl
@[simp] theorem State.onGroup_barriers (s : State) (g : Nat) (f : Group → Group) : (s.onGroup g f).crown.barriers = s.crown.barriers := rfl
@[simp] theorem State.onGroup_bReqs (s : State) (g : Nat) (f : Group → Group) : (s.onGroup g f).crown.bReqs = s.crown.bReqs := rfl
@[simp] theorem State.onGroup_bound (s : State) (g : Nat) (f : Group → Group) : (s.onGroup g f).crown.bound = s.crown.bound := rfl
@[simp] theorem State.onGroup_kernels (s : State) (g : Nat) (f : Group → Group) : (s.onGroup g f).crown.kernels = s.crown.kernels := rfl
@[simp] theorem State.onGroup_sels (s : State) (g : Nat) (f : Group → Group) : (s.onGroup g f).crown.sels = s.crown.sels := rfl

/-! ### onKernel -/

@[simp] theorem State.onKernel_gcyc (s : State) (k : Nat) (f : Kernel → Kernel) : (s.onKernel k f).gcyc = s.gcyc := rfl
@[simp] theorem State.onKernel_work (s : State) (k : Nat) (f : Kernel → Kernel) : (s.onKernel k f).work = s.work := rfl
@[simp] theorem State.onKernel_offers (s : State) (k : Nat) (f : Kernel → Kernel) : (s.onKernel k f).offers = s.offers := rfl
@[simp] theorem State.onKernel_cur (s : State) (k : Nat) (f : Kernel → Kernel) : (s.onKernel k f).cur = s.cur := rfl
@[simp] theorem State.onKernel_free (s : State) (k : Nat) (f : Kernel → Kernel) : (s.onKernel k f).free = s.free := rfl
@[simp] theorem State.onKernel_nextId (s : State) (k : Nat) (f : Kernel → Kernel) : (s.onKernel k f).nextId = s.nextId := rfl
@[simp] theorem State.onKernel_hbmBad (s : State) (k : Nat) (f : Kernel → Kernel) : (s.onKernel k f).hbmBad = s.hbmBad := rfl
@[simp] theorem State.onKernel_sharedBad (s : State) (k : Nat) (f : Kernel → Kernel) : (s.onKernel k f).sharedBad = s.sharedBad := rfl
@[simp] theorem State.onKernel_asks (s : State) (k : Nat) (f : Kernel → Kernel) : (s.onKernel k f).asks = s.asks := rfl
@[simp] theorem State.onKernel_refused (s : State) (k : Nat) (f : Kernel → Kernel) : (s.onKernel k f).refused = s.refused := rfl
@[simp] theorem State.onKernel_busy (s : State) (k : Nat) (f : Kernel → Kernel) : (s.onKernel k f).busy = s.busy := rfl
@[simp] theorem State.onKernel_tiles (s : State) (k : Nat) (f : Kernel → Kernel) : (s.onKernel k f).tiles = s.tiles := rfl
@[simp] theorem State.onKernel_tokIn (s : State) (k : Nat) (f : Kernel → Kernel) : (s.onKernel k f).tokIn = s.tokIn := rfl
@[simp] theorem State.onKernel_hbm (s : State) (k : Nat) (f : Kernel → Kernel) : (s.onKernel k f).hbm = s.hbm := rfl
@[simp] theorem State.onKernel_shared (s : State) (k : Nat) (f : Kernel → Kernel) : (s.onKernel k f).shared = s.shared := rfl
@[simp] theorem State.onKernel_regions (s : State) (k : Nat) (f : Kernel → Kernel) : (s.onKernel k f).regions = s.regions := rfl
@[simp] theorem State.onKernel_traffic (s : State) (k : Nat) (f : Kernel → Kernel) : (s.onKernel k f).traffic = s.traffic := rfl
@[simp] theorem State.onKernel_roots (s : State) (k : Nat) (f : Kernel → Kernel) : (s.onKernel k f).roots = s.roots := rfl
@[simp] theorem State.onKernel_links (s : State) (k : Nat) (f : Kernel → Kernel) : (s.onKernel k f).links = s.links := rfl
@[simp] theorem State.onKernel_boot (s : State) (k : Nat) (f : Kernel → Kernel) : (s.onKernel k f).boot = s.boot := rfl
@[simp] theorem State.onKernel_therm (s : State) (k : Nat) (f : Kernel → Kernel) : (s.onKernel k f).therm = s.therm := rfl
@[simp] theorem State.onKernel_saved (s : State) (k : Nat) (f : Kernel → Kernel) : (s.onKernel k f).saved = s.saved := rfl
@[simp] theorem State.onKernel_ctxs (s : State) (k : Nat) (f : Kernel → Kernel) : (s.onKernel k f).crown.ctxs = s.crown.ctxs := rfl
@[simp] theorem State.onKernel_cwork (s : State) (k : Nat) (f : Kernel → Kernel) : (s.onKernel k f).crown.cwork = s.crown.cwork := rfl
@[simp] theorem State.onKernel_queues (s : State) (k : Nat) (f : Kernel → Kernel) : (s.onKernel k f).crown.queues = s.crown.queues := rfl
@[simp] theorem State.onKernel_barriers (s : State) (k : Nat) (f : Kernel → Kernel) : (s.onKernel k f).crown.barriers = s.crown.barriers := rfl
@[simp] theorem State.onKernel_bReqs (s : State) (k : Nat) (f : Kernel → Kernel) : (s.onKernel k f).crown.bReqs = s.crown.bReqs := rfl
@[simp] theorem State.onKernel_bound (s : State) (k : Nat) (f : Kernel → Kernel) : (s.onKernel k f).crown.bound = s.crown.bound := rfl
@[simp] theorem State.onKernel_groups (s : State) (k : Nat) (f : Kernel → Kernel) : (s.onKernel k f).crown.groups = s.crown.groups := rfl
@[simp] theorem State.onKernel_sels (s : State) (k : Nat) (f : Kernel → Kernel) : (s.onKernel k f).crown.sels = s.crown.sels := rfl

/-! ### onCtxt -/

@[simp] theorem State.onCtxt_gcyc (s : State) (c : Nat) (f : Ctxt → Ctxt) : (s.onCtxt c f).gcyc = s.gcyc := rfl
@[simp] theorem State.onCtxt_work (s : State) (c : Nat) (f : Ctxt → Ctxt) : (s.onCtxt c f).work = s.work := rfl
@[simp] theorem State.onCtxt_offers (s : State) (c : Nat) (f : Ctxt → Ctxt) : (s.onCtxt c f).offers = s.offers := rfl
@[simp] theorem State.onCtxt_cur (s : State) (c : Nat) (f : Ctxt → Ctxt) : (s.onCtxt c f).cur = s.cur := rfl
@[simp] theorem State.onCtxt_free (s : State) (c : Nat) (f : Ctxt → Ctxt) : (s.onCtxt c f).free = s.free := rfl
@[simp] theorem State.onCtxt_nextId (s : State) (c : Nat) (f : Ctxt → Ctxt) : (s.onCtxt c f).nextId = s.nextId := rfl
@[simp] theorem State.onCtxt_hbmBad (s : State) (c : Nat) (f : Ctxt → Ctxt) : (s.onCtxt c f).hbmBad = s.hbmBad := rfl
@[simp] theorem State.onCtxt_sharedBad (s : State) (c : Nat) (f : Ctxt → Ctxt) : (s.onCtxt c f).sharedBad = s.sharedBad := rfl
@[simp] theorem State.onCtxt_asks (s : State) (c : Nat) (f : Ctxt → Ctxt) : (s.onCtxt c f).asks = s.asks := rfl
@[simp] theorem State.onCtxt_refused (s : State) (c : Nat) (f : Ctxt → Ctxt) : (s.onCtxt c f).refused = s.refused := rfl
@[simp] theorem State.onCtxt_busy (s : State) (c : Nat) (f : Ctxt → Ctxt) : (s.onCtxt c f).busy = s.busy := rfl
@[simp] theorem State.onCtxt_tiles (s : State) (c : Nat) (f : Ctxt → Ctxt) : (s.onCtxt c f).tiles = s.tiles := rfl
@[simp] theorem State.onCtxt_tokIn (s : State) (c : Nat) (f : Ctxt → Ctxt) : (s.onCtxt c f).tokIn = s.tokIn := rfl
@[simp] theorem State.onCtxt_hbm (s : State) (c : Nat) (f : Ctxt → Ctxt) : (s.onCtxt c f).hbm = s.hbm := rfl
@[simp] theorem State.onCtxt_shared (s : State) (c : Nat) (f : Ctxt → Ctxt) : (s.onCtxt c f).shared = s.shared := rfl
@[simp] theorem State.onCtxt_regions (s : State) (c : Nat) (f : Ctxt → Ctxt) : (s.onCtxt c f).regions = s.regions := rfl
@[simp] theorem State.onCtxt_traffic (s : State) (c : Nat) (f : Ctxt → Ctxt) : (s.onCtxt c f).traffic = s.traffic := rfl
@[simp] theorem State.onCtxt_roots (s : State) (c : Nat) (f : Ctxt → Ctxt) : (s.onCtxt c f).roots = s.roots := rfl
@[simp] theorem State.onCtxt_links (s : State) (c : Nat) (f : Ctxt → Ctxt) : (s.onCtxt c f).links = s.links := rfl
@[simp] theorem State.onCtxt_boot (s : State) (c : Nat) (f : Ctxt → Ctxt) : (s.onCtxt c f).boot = s.boot := rfl
@[simp] theorem State.onCtxt_therm (s : State) (c : Nat) (f : Ctxt → Ctxt) : (s.onCtxt c f).therm = s.therm := rfl
@[simp] theorem State.onCtxt_saved (s : State) (c : Nat) (f : Ctxt → Ctxt) : (s.onCtxt c f).saved = s.saved := rfl
@[simp] theorem State.onCtxt_cwork (s : State) (c : Nat) (f : Ctxt → Ctxt) : (s.onCtxt c f).crown.cwork = s.crown.cwork := rfl
@[simp] theorem State.onCtxt_queues (s : State) (c : Nat) (f : Ctxt → Ctxt) : (s.onCtxt c f).crown.queues = s.crown.queues := rfl
@[simp] theorem State.onCtxt_barriers (s : State) (c : Nat) (f : Ctxt → Ctxt) : (s.onCtxt c f).crown.barriers = s.crown.barriers := rfl
@[simp] theorem State.onCtxt_bReqs (s : State) (c : Nat) (f : Ctxt → Ctxt) : (s.onCtxt c f).crown.bReqs = s.crown.bReqs := rfl
@[simp] theorem State.onCtxt_bound (s : State) (c : Nat) (f : Ctxt → Ctxt) : (s.onCtxt c f).crown.bound = s.crown.bound := rfl
@[simp] theorem State.onCtxt_groups (s : State) (c : Nat) (f : Ctxt → Ctxt) : (s.onCtxt c f).crown.groups = s.crown.groups := rfl
@[simp] theorem State.onCtxt_kernels (s : State) (c : Nat) (f : Ctxt → Ctxt) : (s.onCtxt c f).crown.kernels = s.crown.kernels := rfl
@[simp] theorem State.onCtxt_sels (s : State) (c : Nat) (f : Ctxt → Ctxt) : (s.onCtxt c f).crown.sels = s.crown.sels := rfl

/-! ### onQueue -/

@[simp] theorem State.onQueue_gcyc (s : State) (q : Nat) (f : Queue → Queue) : (s.onQueue q f).gcyc = s.gcyc := rfl
@[simp] theorem State.onQueue_work (s : State) (q : Nat) (f : Queue → Queue) : (s.onQueue q f).work = s.work := rfl
@[simp] theorem State.onQueue_offers (s : State) (q : Nat) (f : Queue → Queue) : (s.onQueue q f).offers = s.offers := rfl
@[simp] theorem State.onQueue_cur (s : State) (q : Nat) (f : Queue → Queue) : (s.onQueue q f).cur = s.cur := rfl
@[simp] theorem State.onQueue_free (s : State) (q : Nat) (f : Queue → Queue) : (s.onQueue q f).free = s.free := rfl
@[simp] theorem State.onQueue_nextId (s : State) (q : Nat) (f : Queue → Queue) : (s.onQueue q f).nextId = s.nextId := rfl
@[simp] theorem State.onQueue_hbmBad (s : State) (q : Nat) (f : Queue → Queue) : (s.onQueue q f).hbmBad = s.hbmBad := rfl
@[simp] theorem State.onQueue_sharedBad (s : State) (q : Nat) (f : Queue → Queue) : (s.onQueue q f).sharedBad = s.sharedBad := rfl
@[simp] theorem State.onQueue_asks (s : State) (q : Nat) (f : Queue → Queue) : (s.onQueue q f).asks = s.asks := rfl
@[simp] theorem State.onQueue_refused (s : State) (q : Nat) (f : Queue → Queue) : (s.onQueue q f).refused = s.refused := rfl
@[simp] theorem State.onQueue_busy (s : State) (q : Nat) (f : Queue → Queue) : (s.onQueue q f).busy = s.busy := rfl
@[simp] theorem State.onQueue_tiles (s : State) (q : Nat) (f : Queue → Queue) : (s.onQueue q f).tiles = s.tiles := rfl
@[simp] theorem State.onQueue_tokIn (s : State) (q : Nat) (f : Queue → Queue) : (s.onQueue q f).tokIn = s.tokIn := rfl
@[simp] theorem State.onQueue_hbm (s : State) (q : Nat) (f : Queue → Queue) : (s.onQueue q f).hbm = s.hbm := rfl
@[simp] theorem State.onQueue_shared (s : State) (q : Nat) (f : Queue → Queue) : (s.onQueue q f).shared = s.shared := rfl
@[simp] theorem State.onQueue_regions (s : State) (q : Nat) (f : Queue → Queue) : (s.onQueue q f).regions = s.regions := rfl
@[simp] theorem State.onQueue_traffic (s : State) (q : Nat) (f : Queue → Queue) : (s.onQueue q f).traffic = s.traffic := rfl
@[simp] theorem State.onQueue_roots (s : State) (q : Nat) (f : Queue → Queue) : (s.onQueue q f).roots = s.roots := rfl
@[simp] theorem State.onQueue_links (s : State) (q : Nat) (f : Queue → Queue) : (s.onQueue q f).links = s.links := rfl
@[simp] theorem State.onQueue_boot (s : State) (q : Nat) (f : Queue → Queue) : (s.onQueue q f).boot = s.boot := rfl
@[simp] theorem State.onQueue_therm (s : State) (q : Nat) (f : Queue → Queue) : (s.onQueue q f).therm = s.therm := rfl
@[simp] theorem State.onQueue_saved (s : State) (q : Nat) (f : Queue → Queue) : (s.onQueue q f).saved = s.saved := rfl
@[simp] theorem State.onQueue_ctxs (s : State) (q : Nat) (f : Queue → Queue) : (s.onQueue q f).crown.ctxs = s.crown.ctxs := rfl
@[simp] theorem State.onQueue_cwork (s : State) (q : Nat) (f : Queue → Queue) : (s.onQueue q f).crown.cwork = s.crown.cwork := rfl
@[simp] theorem State.onQueue_barriers (s : State) (q : Nat) (f : Queue → Queue) : (s.onQueue q f).crown.barriers = s.crown.barriers := rfl
@[simp] theorem State.onQueue_bReqs (s : State) (q : Nat) (f : Queue → Queue) : (s.onQueue q f).crown.bReqs = s.crown.bReqs := rfl
@[simp] theorem State.onQueue_bound (s : State) (q : Nat) (f : Queue → Queue) : (s.onQueue q f).crown.bound = s.crown.bound := rfl
@[simp] theorem State.onQueue_groups (s : State) (q : Nat) (f : Queue → Queue) : (s.onQueue q f).crown.groups = s.crown.groups := rfl
@[simp] theorem State.onQueue_kernels (s : State) (q : Nat) (f : Queue → Queue) : (s.onQueue q f).crown.kernels = s.crown.kernels := rfl
@[simp] theorem State.onQueue_sels (s : State) (q : Nat) (f : Queue → Queue) : (s.onQueue q f).crown.sels = s.crown.sels := rfl

/-! ### onStream -/

@[simp] theorem State.onStream_gcyc (s : State) (n : Nat) (f : Stream → Stream) : (s.onStream n f).gcyc = s.gcyc := rfl
@[simp] theorem State.onStream_work (s : State) (n : Nat) (f : Stream → Stream) : (s.onStream n f).work = s.work := rfl
@[simp] theorem State.onStream_offers (s : State) (n : Nat) (f : Stream → Stream) : (s.onStream n f).offers = s.offers := rfl
@[simp] theorem State.onStream_cur (s : State) (n : Nat) (f : Stream → Stream) : (s.onStream n f).cur = s.cur := rfl
@[simp] theorem State.onStream_free (s : State) (n : Nat) (f : Stream → Stream) : (s.onStream n f).free = s.free := rfl
@[simp] theorem State.onStream_nextId (s : State) (n : Nat) (f : Stream → Stream) : (s.onStream n f).nextId = s.nextId := rfl
@[simp] theorem State.onStream_hbmBad (s : State) (n : Nat) (f : Stream → Stream) : (s.onStream n f).hbmBad = s.hbmBad := rfl
@[simp] theorem State.onStream_sharedBad (s : State) (n : Nat) (f : Stream → Stream) : (s.onStream n f).sharedBad = s.sharedBad := rfl
@[simp] theorem State.onStream_asks (s : State) (n : Nat) (f : Stream → Stream) : (s.onStream n f).asks = s.asks := rfl
@[simp] theorem State.onStream_refused (s : State) (n : Nat) (f : Stream → Stream) : (s.onStream n f).refused = s.refused := rfl
@[simp] theorem State.onStream_busy (s : State) (n : Nat) (f : Stream → Stream) : (s.onStream n f).busy = s.busy := rfl
@[simp] theorem State.onStream_tiles (s : State) (n : Nat) (f : Stream → Stream) : (s.onStream n f).tiles = s.tiles := rfl
@[simp] theorem State.onStream_tokIn (s : State) (n : Nat) (f : Stream → Stream) : (s.onStream n f).tokIn = s.tokIn := rfl
@[simp] theorem State.onStream_hbm (s : State) (n : Nat) (f : Stream → Stream) : (s.onStream n f).hbm = s.hbm := rfl
@[simp] theorem State.onStream_shared (s : State) (n : Nat) (f : Stream → Stream) : (s.onStream n f).shared = s.shared := rfl
@[simp] theorem State.onStream_regions (s : State) (n : Nat) (f : Stream → Stream) : (s.onStream n f).regions = s.regions := rfl
@[simp] theorem State.onStream_crown (s : State) (n : Nat) (f : Stream → Stream) : (s.onStream n f).crown = s.crown := rfl
@[simp] theorem State.onStream_roots (s : State) (n : Nat) (f : Stream → Stream) : (s.onStream n f).roots = s.roots := rfl
@[simp] theorem State.onStream_links (s : State) (n : Nat) (f : Stream → Stream) : (s.onStream n f).links = s.links := rfl
@[simp] theorem State.onStream_boot (s : State) (n : Nat) (f : Stream → Stream) : (s.onStream n f).boot = s.boot := rfl
@[simp] theorem State.onStream_therm (s : State) (n : Nat) (f : Stream → Stream) : (s.onStream n f).therm = s.therm := rfl
@[simp] theorem State.onStream_saved (s : State) (n : Nat) (f : Stream → Stream) : (s.onStream n f).saved = s.saved := rfl

/-! ### push -/

@[simp] theorem State.push_gcyc (s : State) (l : List Work) : (s.push l).gcyc = s.gcyc := rfl
@[simp] theorem State.push_offers (s : State) (l : List Work) : (s.push l).offers = s.offers := rfl
@[simp] theorem State.push_cur (s : State) (l : List Work) : (s.push l).cur = s.cur := rfl
@[simp] theorem State.push_free (s : State) (l : List Work) : (s.push l).free = s.free := rfl
@[simp] theorem State.push_nextId (s : State) (l : List Work) : (s.push l).nextId = s.nextId := rfl
@[simp] theorem State.push_hbmBad (s : State) (l : List Work) : (s.push l).hbmBad = s.hbmBad := rfl
@[simp] theorem State.push_sharedBad (s : State) (l : List Work) : (s.push l).sharedBad = s.sharedBad := rfl
@[simp] theorem State.push_asks (s : State) (l : List Work) : (s.push l).asks = s.asks := rfl
@[simp] theorem State.push_refused (s : State) (l : List Work) : (s.push l).refused = s.refused := rfl
@[simp] theorem State.push_busy (s : State) (l : List Work) : (s.push l).busy = s.busy := rfl
@[simp] theorem State.push_tiles (s : State) (l : List Work) : (s.push l).tiles = s.tiles := rfl
@[simp] theorem State.push_tokIn (s : State) (l : List Work) : (s.push l).tokIn = s.tokIn := rfl
@[simp] theorem State.push_hbm (s : State) (l : List Work) : (s.push l).hbm = s.hbm := rfl
@[simp] theorem State.push_shared (s : State) (l : List Work) : (s.push l).shared = s.shared := rfl
@[simp] theorem State.push_regions (s : State) (l : List Work) : (s.push l).regions = s.regions := rfl
@[simp] theorem State.push_crown (s : State) (l : List Work) : (s.push l).crown = s.crown := rfl
@[simp] theorem State.push_traffic (s : State) (l : List Work) : (s.push l).traffic = s.traffic := rfl
@[simp] theorem State.push_roots (s : State) (l : List Work) : (s.push l).roots = s.roots := rfl
@[simp] theorem State.push_links (s : State) (l : List Work) : (s.push l).links = s.links := rfl
@[simp] theorem State.push_boot (s : State) (l : List Work) : (s.push l).boot = s.boot := rfl
@[simp] theorem State.push_therm (s : State) (l : List Work) : (s.push l).therm = s.therm := rfl
@[simp] theorem State.push_saved (s : State) (l : List Work) : (s.push l).saved = s.saved := rfl

/-! ### fresh -/

@[simp] theorem State.fresh_gcyc (s : State) : (s.fresh.2).gcyc = s.gcyc := rfl
@[simp] theorem State.fresh_work (s : State) : (s.fresh.2).work = s.work := rfl
@[simp] theorem State.fresh_offers (s : State) : (s.fresh.2).offers = s.offers := rfl
@[simp] theorem State.fresh_cur (s : State) : (s.fresh.2).cur = s.cur := rfl
@[simp] theorem State.fresh_free (s : State) : (s.fresh.2).free = s.free := rfl
@[simp] theorem State.fresh_hbmBad (s : State) : (s.fresh.2).hbmBad = s.hbmBad := rfl
@[simp] theorem State.fresh_sharedBad (s : State) : (s.fresh.2).sharedBad = s.sharedBad := rfl
@[simp] theorem State.fresh_asks (s : State) : (s.fresh.2).asks = s.asks := rfl
@[simp] theorem State.fresh_refused (s : State) : (s.fresh.2).refused = s.refused := rfl
@[simp] theorem State.fresh_busy (s : State) : (s.fresh.2).busy = s.busy := rfl
@[simp] theorem State.fresh_tiles (s : State) : (s.fresh.2).tiles = s.tiles := rfl
@[simp] theorem State.fresh_tokIn (s : State) : (s.fresh.2).tokIn = s.tokIn := rfl
@[simp] theorem State.fresh_hbm (s : State) : (s.fresh.2).hbm = s.hbm := rfl
@[simp] theorem State.fresh_shared (s : State) : (s.fresh.2).shared = s.shared := rfl
@[simp] theorem State.fresh_regions (s : State) : (s.fresh.2).regions = s.regions := rfl
@[simp] theorem State.fresh_crown (s : State) : (s.fresh.2).crown = s.crown := rfl
@[simp] theorem State.fresh_traffic (s : State) : (s.fresh.2).traffic = s.traffic := rfl
@[simp] theorem State.fresh_roots (s : State) : (s.fresh.2).roots = s.roots := rfl
@[simp] theorem State.fresh_links (s : State) : (s.fresh.2).links = s.links := rfl
@[simp] theorem State.fresh_boot (s : State) : (s.fresh.2).boot = s.boot := rfl
@[simp] theorem State.fresh_therm (s : State) : (s.fresh.2).therm = s.therm := rfl
@[simp] theorem State.fresh_saved (s : State) : (s.fresh.2).saved = s.saved := rfl

/-! ### freeNat -/

@[simp] theorem State.freeNat_gcyc (s : State) : (s.freeNat.2).gcyc = s.gcyc := rfl
@[simp] theorem State.freeNat_work (s : State) : (s.freeNat.2).work = s.work := rfl
@[simp] theorem State.freeNat_offers (s : State) : (s.freeNat.2).offers = s.offers := rfl
@[simp] theorem State.freeNat_cur (s : State) : (s.freeNat.2).cur = s.cur := rfl
@[simp] theorem State.freeNat_nextId (s : State) : (s.freeNat.2).nextId = s.nextId := rfl
@[simp] theorem State.freeNat_hbmBad (s : State) : (s.freeNat.2).hbmBad = s.hbmBad := rfl
@[simp] theorem State.freeNat_sharedBad (s : State) : (s.freeNat.2).sharedBad = s.sharedBad := rfl
@[simp] theorem State.freeNat_asks (s : State) : (s.freeNat.2).asks = s.asks := rfl
@[simp] theorem State.freeNat_refused (s : State) : (s.freeNat.2).refused = s.refused := rfl
@[simp] theorem State.freeNat_busy (s : State) : (s.freeNat.2).busy = s.busy := rfl
@[simp] theorem State.freeNat_tiles (s : State) : (s.freeNat.2).tiles = s.tiles := rfl
@[simp] theorem State.freeNat_tokIn (s : State) : (s.freeNat.2).tokIn = s.tokIn := rfl
@[simp] theorem State.freeNat_hbm (s : State) : (s.freeNat.2).hbm = s.hbm := rfl
@[simp] theorem State.freeNat_shared (s : State) : (s.freeNat.2).shared = s.shared := rfl
@[simp] theorem State.freeNat_regions (s : State) : (s.freeNat.2).regions = s.regions := rfl
@[simp] theorem State.freeNat_crown (s : State) : (s.freeNat.2).crown = s.crown := rfl
@[simp] theorem State.freeNat_traffic (s : State) : (s.freeNat.2).traffic = s.traffic := rfl
@[simp] theorem State.freeNat_roots (s : State) : (s.freeNat.2).roots = s.roots := rfl
@[simp] theorem State.freeNat_links (s : State) : (s.freeNat.2).links = s.links := rfl
@[simp] theorem State.freeNat_boot (s : State) : (s.freeNat.2).boot = s.boot := rfl
@[simp] theorem State.freeNat_therm (s : State) : (s.freeNat.2).therm = s.therm := rfl
@[simp] theorem State.freeNat_saved (s : State) : (s.freeNat.2).saved = s.saved := rfl

/-! ### What the accessors read after an update -/

theorem State.tile_onTile (s : State) (t i : Nat) (f : Tile → Tile) :
    (s.onTile t f).tile i = if t = i ∧ i < 480 then f (s.tile i) else s.tile i := vget_vmod ..

@[simp] theorem State.tile_onTile_same (s : State) (t : Nat) (f : Tile → Tile) (h : t < 480) : (s.onTile t f).tile t = f (s.tile t) := by
  simp [State.tile_onTile, h]

theorem State.tile_onTile_other (s : State) (t i : Nat) (f : Tile → Tile) (h : t ≠ i) : (s.onTile t f).tile i = s.tile i := by
  simp [State.tile_onTile, h]

@[simp] theorem Tile.ctx_onCtx_same (x : Tile) (u : Bool) (f : TileCtx → TileCtx) : (x.onCtx u f).ctx u = f (x.ctx u) := by
  cases u <;> rfl

theorem Tile.ctx_onCtx_other (x : Tile) (u v : Bool) (f : TileCtx → TileCtx) (h : u ≠ v) : (x.onCtx u f).ctx v = x.ctx v := by
  cases u <;> cases v <;> first | rfl | exact absurd rfl h

@[simp] theorem Tile.onCtx_spad (x : Tile) (u : Bool) (f : TileCtx → TileCtx) : (x.onCtx u f).spad = x.spad := by cases u <;> rfl
@[simp] theorem Tile.onCtx_spadBad (x : Tile) (u : Bool) (f : TileCtx → TileCtx) : (x.onCtx u f).spadBad = x.spadBad := by cases u <;> rfl

@[simp] theorem Tile.onCtx_imem (x : Tile) (u : Bool) (f : TileCtx → TileCtx) : (x.onCtx u f).imem = x.imem := by cases u <;> rfl

@[simp] theorem Tile.onCtx_mx (x : Tile) (u : Bool) (f : TileCtx → TileCtx) : (x.onCtx u f).mx = x.mx := by cases u <;> rfl

@[simp] theorem Tile.onCtx_cn (x : Tile) (u : Bool) (f : TileCtx → TileCtx) : (x.onCtx u f).cn = x.cn := by cases u <;> rfl

@[simp] theorem Tile.onCtx_power (x : Tile) (u : Bool) (f : TileCtx → TileCtx) : (x.onCtx u f).power = x.power := by cases u <;> rfl

theorem State.tctx_onCtx (s : State) (t i : Nat) (u v : Bool) (f : TileCtx → TileCtx) :
    (s.onCtx t u f).tctx i v = if t = i ∧ i < 480 ∧ u = v then f (s.tctx i v) else s.tctx i v := by
  simp only [State.tctx, State.onCtx, State.tile_onTile]
  by_cases h : t = i ∧ i < 480
  · rw [if_pos h]
    by_cases e : u = v
    · subst e; simp [h]
    · rw [Tile.ctx_onCtx_other _ _ _ _ e, if_neg (by simp [e])]
  · rw [if_neg h, if_neg (fun g => h ⟨g.1, g.2.1⟩)]

@[simp] theorem State.tctx_onCtx_same (s : State) (t : Nat) (u : Bool) (f : TileCtx → TileCtx) (h : t < 480) :
    (s.onCtx t u f).tctx t u = f (s.tctx t u) := by simp [State.tctx_onCtx, h]

theorem State.tctx_onCtx_other (s : State) (t i : Nat) (u v : Bool) (f : TileCtx → TileCtx) (h : ¬ (t = i ∧ u = v)) :
    (s.onCtx t u f).tctx i v = s.tctx i v := by
  rw [State.tctx_onCtx, if_neg (fun g => h ⟨g.1, g.2.2⟩)]

@[simp] theorem State.me_onMe (s : State) (f : TileCtx → TileCtx) (h : s.cur.tile < 480) : (s.onMe f).me = f s.me := by
  simp [State.me, State.onMe, h]

/-- A tile's memories do not depend on its hardware contexts. -/
@[simp] theorem State.onCtx_spad (s : State) (t i : Nat) (u : Bool) (f : TileCtx → TileCtx) : ((s.onCtx t u f).tile i).spad = (s.tile i).spad := by
  rw [State.onCtx, State.tile_onTile]; split <;> simp

@[simp] theorem State.onCtx_spadBad (s : State) (t i : Nat) (u : Bool) (f : TileCtx → TileCtx) :
    ((s.onCtx t u f).tile i).spadBad = (s.tile i).spadBad := by
  rw [State.onCtx, State.tile_onTile]; split <;> simp

@[simp] theorem State.onCtx_imem (s : State) (t i : Nat) (u : Bool) (f : TileCtx → TileCtx) : ((s.onCtx t u f).tile i).imem = (s.tile i).imem := by
  rw [State.onCtx, State.tile_onTile]; split <;> simp

@[simp] theorem State.onCtx_mx (s : State) (t i : Nat) (u : Bool) (f : TileCtx → TileCtx) : ((s.onCtx t u f).tile i).mx = (s.tile i).mx := by
  rw [State.onCtx, State.tile_onTile]; split <;> simp

@[simp] theorem State.onCtx_cn (s : State) (t i : Nat) (u : Bool) (f : TileCtx → TileCtx) : ((s.onCtx t u f).tile i).cn = (s.tile i).cn := by
  rw [State.onCtx, State.tile_onTile]; split <;> simp

/-- What reads only a context's group sees no update that keeps it. -/
theorem State.groupOf_onCtx (s : State) (t i : Nat) (u v : Bool) (f : TileCtx → TileCtx) (h : ∀ c, (f c).group = c.group) :
    (s.onCtx t u f).groupOf i v = s.groupOf i v := by
  have e : ((s.onCtx t u f).tctx i v).group = (s.tctx i v).group := by rw [State.tctx_onCtx]; split <;> simp [h]
  simp only [State.groupOf, e]
  rfl

theorem State.ctxt_onCtxt (s : State) (c i : Nat) (f : Ctxt → Ctxt) :
    (s.onCtxt c f).ctxt i = if c = i ∧ i < 64 then f (s.ctxt i) else s.ctxt i := vget_vmod ..

theorem State.queue_onQueue (s : State) (q i : Nat) (f : Queue → Queue) :
    (s.onQueue q f).queue i = if q = i ∧ i < 2048 then f (s.queue i) else s.queue i := vget_vmod ..

/-! ### The end of a meaning -/

/-- Every meaning ends in done: a next state, and no meaning stops. -/
@[simp] theorem State.done_eq_next (s t : State) : s.done = .next t ↔ s = t := ⟨fun h => Host.Outcome.next.inj h, fun h => h ▸ rfl⟩

@[simp] theorem State.done_ne_fault (s : State) (r : Fault) : s.done ≠ .fault r := by rintro ⟨⟩

@[simp] theorem State.done_ne_refused (s : State) (r : Refusal) : s.done ≠ .refused r := by rintro ⟨⟩

end Sys2Proof.Machine
end

