-- ==== Sys2Proof/Laws/Schedule.lean ====
section
/-! SUPPORT. What the operations of a slot do at issue: what they schedule. -/
namespace Sys2Proof.Machine

/-! ### What is scheduled -/

/-- With room, an effect is scheduled and nothing else happens (R58, R321). -/
theorem State.sched_eq (s : State) (l : Nat) (fl : Flags) (k : EKind) (h : s.me.full = false) : s.sched l fl k = s.withEffect l fl k := by
  simp [State.sched, State.withEffect, h]

/-- With 64 effects in flight a slot raises INFLIGHT_LIMIT and schedules nothing (R321). -/
theorem State.sched_full (s : State) (l : Nat) (fl : Flags) (k : EKind) (h : s.me.full = true) : s.sched l fl k = s.trap .inflightLimit 0#64 := by
  simp [State.sched, h]

theorem State.act_eq (s : State) (l : Nat) (k : ActKind) : s.act l k = s.withAct l k := rfl

theorem State.result_eq (s : State) (l : Nat) (d : Dst) (v : Wide) (h : s.me.full = false) : s.result l 0#6 d v = s.withResult l d v := by
  unfold State.result State.withResult
  cases d.void
  · simp [State.sched_eq, h]
  · simp

theorem State.resultX_eq (s : State) (l : Nat) (d : Fin 64) (v : Word) (h : s.me.full = false) : s.resultX l d v = s.withX l d v :=
  State.result_eq _ _ _ _ h

theorem State.resultP_eq (s : State) (l : Nat) (d : Fin 8) (v : Bool) (h : s.me.full = false) : s.resultP l d v = s.withP l d v :=
  State.result_eq _ _ _ _ h

/-- A scalar result of a fit slot completes. -/
theorem State.resultX_done (s : State) (l : Nat) (d : Fin 64) (v : Word) (h : s.fit) : (s.resultX l d v).done = .next (s.withX l d v) := by
  rw [State.resultX_eq _ _ _ _ h]; rfl

theorem State.resultP_done (s : State) (l : Nat) (d : Fin 8) (v : Bool) (h : s.fit) : (s.resultP l d v).done = .next (s.withP l d v) := by
  rw [State.resultP_eq _ _ _ _ h]; rfl

theorem State.result_done (s : State) (l : Nat) (d : Dst) (v : Wide) (h : s.fit) : (s.result l 0#6 d v).done = .next (s.withResult l d v) := by
  rw [State.result_eq _ _ _ _ h]; rfl

theorem State.sched_done (s : State) (l : Nat) (fl : Flags) (k : EKind) (h : s.fit) : (s.sched l fl k).done = .next (s.withEffect l fl k) := by
  rw [State.sched_eq _ _ _ _ h]; rfl

/-- Outside handler mode an engine or control instruction goes on (R324). -/
theorem State.notInHandler_eq (s : State) (k : Out') (h : s.me.handling = false) : s.notInHandler k = k := by
  simp [State.notInHandler, h]

/-- In handler mode it raises HANDLER_OP (R324). -/
theorem State.notInHandler_handler (s : State) (k : Out') (h : s.me.handling = true) : s.notInHandler k = (s.trap .handlerOp 0#64).done := by
  simp [State.notInHandler, h]

/-- A trap of a running group outside handler mode opens its freeze window (R319, R320). -/
theorem State.raise_running (s : State) (t : Nat) (u : Bool) (c : Cause) (i : Word) (pc k : Nat) (g : Group)
    (hg : s.groupOf t u = some g) (hh : (s.tctx t u).handling = false) :
    s.raise t u c i pc k = s.onGroup g.id fun g => g.trap ⟨t, g.cnt, c, pc, k, i⟩ := by
  simp [State.raise, hg, hh]

end Sys2Proof.Machine
end

