-- ==== Sys2Proof/Laws/Group.lean ====
section
/-! SUPPORT. The tiles of a group (R314, R315), and updates of all of them at once. -/
namespace Sys2Proof.Machine

/-- The tiles of a group, row by row. -/
theorem Group.tiles_eq (g : Group) : g.tiles =
    (List.range (if g.whole then 10 * g.rows else g.rows)).flatMap fun r => (List.range (if g.whole then 12 else g.cols)).map fun c =>
      if g.whole then (g.place.die + r / 10) * 120 + r % 10 * 12 + c else g.place.die * 120 + (g.place.row + r) * 12 + g.place.col + c := by
  simp [Group.tiles, Group.members, List.map_flatMap, Function.comp_def]

theorem nodup_rows (rows cols : Nat) (f : Nat → Nat → Nat)
    (hf : ∀ r c r' c', c < cols → c' < cols → f r c = f r' c' → r = r' ∧ c = c') :
    ((List.range rows).flatMap fun r => (List.range cols).map (f r)).Nodup := by
  rw [List.Nodup, List.pairwise_flatMap]
  constructor
  · intro r _
    rw [List.pairwise_map]
    refine List.Pairwise.imp_of_mem ?_ (List.nodup_range (n := cols))
    intro c c' hc hc' hne e
    exact hne (hf r c r c' (List.mem_range.1 hc) (List.mem_range.1 hc') e).2
  · refine List.Pairwise.imp ?_ (List.nodup_range (n := rows))
    intro r r' hne x hx y hy e
    obtain ⟨c, hc, rfl⟩ := List.mem_map.1 hx
    obtain ⟨c', hc', rfl⟩ := List.mem_map.1 hy
    exact hne (hf r c r' c' (List.mem_range.1 hc) (List.mem_range.1 hc') e).1

/-- A placement that R314 permits names no tile twice. -/
theorem Group.tiles_nodup (g : Group) (h : g.fits = true) : g.tiles.Nodup := by
  rw [Group.tiles_eq]
  cases hw : g.whole
  · simp only [Group.fits, hw, Bool.false_eq_true, if_false, Bool.and_eq_true, decide_eq_true_eq] at h ⊢
    exact nodup_rows g.rows g.cols _ fun r c r' c' h1 h2 e => by omega
  · simp only [if_true]
    exact nodup_rows (10 * g.rows) 12 _ fun r c r' c' h1 h2 e => by omega

/-- A placement that R314 permits lies on the package's tiles. -/
theorem Group.tiles_lt (g : Group) (h : g.fits = true) : ∀ t ∈ g.tiles, t < 480 := by
  intro t ht
  rw [Group.tiles_eq] at ht
  obtain ⟨r, hr, ht⟩ := List.mem_flatMap.1 ht
  obtain ⟨c, hc, rfl⟩ := List.mem_map.1 ht
  have hr := List.mem_range.1 hr
  have hc := List.mem_range.1 hc
  cases hw : g.whole
  · simp only [Group.fits, hw, Bool.false_eq_true, if_false, Bool.and_eq_true, decide_eq_true_eq] at h hr hc ⊢
    omega
  · simp only [Group.fits, hw, if_true, Bool.and_eq_true, Bool.or_eq_true, beq_iff_eq, decide_eq_true_eq] at h hr hc ⊢
    omega

/-- An update of the hardware contexts of a list of tiles changes each of them once, and no other. -/
theorem State.tctx_onCtxs (l : List Nat) (hl : l.Nodup) (ht : ∀ t ∈ l, t < 480) (u : Bool) (f : TileCtx → TileCtx) (s : State) (i : Nat) (v : Bool) :
    (l.foldl (fun s t => s.onCtx t u f) s).tctx i v = if i ∈ l ∧ u = v then f (s.tctx i v) else s.tctx i v := by
  induction l generalizing s with
  | nil => simp
  | cons t l ih =>
    obtain ⟨hn, hl⟩ := List.nodup_cons.1 hl
    rw [List.foldl_cons, ih hl (fun t h => ht t (List.mem_cons_of_mem _ h)), State.tctx_onCtx]
    have h480 := ht t (List.mem_cons_self ..)
    by_cases hi : i = t
    · subst hi
      simp [hn, h480]
    · have hi' : ¬ t = i := fun e => hi e.symm
      simp [hi, hi']

/-- An update of every tile of a permitted group. -/
theorem State.tctx_onMembers (s : State) (g : Group) (h : g.fits = true) (f : TileCtx → TileCtx) (i : Nat) (v : Bool) :
    (s.onMembers g f).tctx i v = if i ∈ g.tiles ∧ g.urgent = v then f (s.tctx i v) else s.tctx i v :=
  State.tctx_onCtxs _ (g.tiles_nodup h) (g.tiles_lt h) ..

/-- What a fold of context updates leaves of the state: everything but the tiles. -/
theorem State.onCtxs_tiles (l : List Nat) (u : Bool) (f : TileCtx → TileCtx) (s : State) :
    l.foldl (fun s t => s.onCtx t u f) s = { s with tiles := (l.foldl (fun s t => s.onCtx t u f) s).tiles } := by
  induction l generalizing s with
  | nil => rfl
  | cons t l ih =>
    rw [List.foldl_cons, ih]
    rfl

@[simp] theorem State.onMembers_crown (s : State) (g : Group) (f : TileCtx → TileCtx) : (s.onMembers g f).crown = s.crown := by
  unfold State.onMembers; rw [State.onCtxs_tiles]

@[simp] theorem State.onMembers_gcyc (s : State) (g : Group) (f : TileCtx → TileCtx) : (s.onMembers g f).gcyc = s.gcyc := by
  unfold State.onMembers; rw [State.onCtxs_tiles]

/-! ### Groups by their id -/

/-- A group by its id after an update of the group of an id. -/
theorem State.group_onGroup (s : State) (n m : Nat) (f : Group → Group) (hf : ∀ g, (f g).id = g.id) :
    (s.onGroup n f).group m = (s.group m).map fun g => if g.id == n then f g else g := by
  simp only [State.group, State.onGroup]
  induction s.crown.groups with
  | nil => rfl
  | cons a l ih =>
    simp only [List.map_cons, List.find?_cons]
    have e : (if (a.id == n) = true then f a else a).id = a.id := by split <;> simp [hf]
    rw [e]
    cases h : a.id == m
    · exact ih
    · rfl

/-- A group found by an id has it. -/
theorem State.group_id (s : State) (n : Nat) (g : Group) (h : s.group n = some g) : g.id = n := by
  have := List.find?_some h
  simpa using this

/-- The group itself after its update. -/
theorem State.group_onGroup_same (s : State) (n : Nat) (f : Group → Group) (hf : ∀ g, (f g).id = g.id) (g : Group) (h : s.group n = some g) :
    (s.onGroup n f).group n = some (f g) := by
  rw [State.group_onGroup _ _ _ _ hf, h]
  simp [State.group_id s n g h]

/-- Starting urgent groups leaves a group that is not being placed. -/
theorem State.group_startUrgent (s : State) (n : Nat) (g : Group) (h : s.group n = some g) (hs : g.st ≠ .placing 0) :
    s.startUrgent.group n = some g := by
  simp only [State.group, State.startUrgent] at h ⊢
  generalize s.crown.groups.all = q
  revert h
  induction s.crown.groups with
  | nil => intro h; exact h
  | cons a l ih =>
    intro h
    simp only [List.map_cons, List.find?_cons] at h ⊢
    cases ha : a.id == n
    · rw [ha] at h
      have e : ∀ (b : Bool) (x : GState), ((if b = true then { a with st := x } else a).id == n) = false := by
        intro b x; split <;> exact ha
      simp only [e]
      exact ih h
    · rw [ha] at h
      cases h
      have e : (g.st == GState.placing 0) = false := by simpa using hs
      simp [e, ha]

end Sys2Proof.Machine
end

