-- ==== Sys2Proof/Laws/Issue.lean ====
section
/-! SUPPORT. What no operation of an issuing slot changes: memories, registers, engines' data, and the rest of the package
(State.sameArchitecture). Every lemma says that an operation keeps it. -/
namespace Sys2Proof.Machine

theorem State.sameArchitecture_refl (s : State) : s.sameArchitecture s :=
  ⟨⟨rfl, rfl, rfl, rfl, fun _ => ⟨rfl, rfl, rfl⟩⟩, fun _ _ => ⟨rfl, rfl, rfl, rfl, rfl, rfl, rfl, rfl⟩,
    fun _ => ⟨rfl, rfl, rfl, rfl, rfl, rfl, rfl, rfl, rfl, rfl⟩, rfl, rfl, rfl, rfl, rfl, rfl, rfl, rfl, rfl, rfl, rfl⟩

namespace State.sameArchitecture

/-- An update of a hardware context that keeps its registers. -/
theorem onCtx {s t : State} (h : s.sameArchitecture t) (i : Nat) (u : Bool) (f : TileCtx → TileCtx)
    (hr : ∀ c, (f c).regs.x = c.regs.x ∧ (f c).regs.p = c.regs.p ∧ (f c).regs.v = c.regs.v ∧ (f c).regs.vm = c.regs.vm
      ∧ (f c).regs.k = c.regs.k ∧ (f c).regs.w = c.regs.w ∧ (f c).regs.mb = c.regs.mb ∧ (f c).cr = c.cr) :
    s.sameArchitecture (t.onCtx i u f) := by
  obtain ⟨⟨h1, h2, b1, b2, h3⟩, h4, h5, h6⟩ := h
  refine ⟨⟨h1, h2, b1, b2, fun j => ?_⟩, fun j v => ?_, fun j => ?_, h6⟩
  · simpa using h3 j
  · simp only [State.tctx_onCtx]
    split
    · have a := hr (t.tctx j v)
      have b := h4 j v
      simp only at b
      simp [a, b]
    · exact h4 j v
  · simpa using h5 j

theorem onMe {s t : State} (h : s.sameArchitecture t) (f : TileCtx → TileCtx)
    (hr : ∀ c, (f c).regs.x = c.regs.x ∧ (f c).regs.p = c.regs.p ∧ (f c).regs.v = c.regs.v ∧ (f c).regs.vm = c.regs.vm
      ∧ (f c).regs.k = c.regs.k ∧ (f c).regs.w = c.regs.w ∧ (f c).regs.mb = c.regs.mb ∧ (f c).cr = c.cr) :
    s.sameArchitecture (t.onMe f) := h.onCtx _ _ f hr

/-- An update of a tile that keeps its memories, its hardware contexts and its engines' data. -/
theorem onTile {s t : State} (h : s.sameArchitecture t) (i : Nat) (f : Tile → Tile)
    (hm : ∀ x, (f x).spad = x.spad ∧ (f x).spadBad = x.spadBad ∧ (f x).imem = x.imem ∧ (f x).main = x.main ∧ (f x).urg = x.urg)
    (hx : ∀ x, (f x).mx.acc = x.mx.acc ∧ (f x).mx.bp = x.mx.bp ∧ (f x).mx.tag = x.mx.tag ∧ (f x).mx.amr = x.mx.amr ∧ (f x).mx.amc = x.mx.amc)
    (hc : ∀ x, (f x).cn.recs = x.cn.recs ∧ (f x).cn.mask = x.cn.mask ∧ (f x).cn.tabs = x.cn.tabs ∧ (f x).cn.inp = x.cn.inp
      ∧ (f x).cn.outp = x.cn.outp) :
    s.sameArchitecture (t.onTile i f) := by
  obtain ⟨⟨h1, h2, b1, b2, h3⟩, h4, h5, h6⟩ := h
  refine ⟨⟨h1, h2, b1, b2, fun j => ?_⟩, fun j v => ?_, fun j => ?_, h6⟩
  · rw [State.tile_onTile]
    split
    · simpa [hm] using h3 j
    · exact h3 j
  · have e : (t.onTile i f).tctx j v = t.tctx j v := by
      simp only [State.tctx, State.tile_onTile]
      split
      · simp [Tile.ctx, hm]
      · rfl
    rw [e]
    exact h4 j v
  · rw [State.tile_onTile]
    split
    · simpa [hx, hc] using h5 j
    · exact h5 j

theorem onGroup {s t : State} (h : s.sameArchitecture t) (g : Nat) (f : Group → Group) : s.sameArchitecture (t.onGroup g f) := h

theorem onKernel {s t : State} (h : s.sameArchitecture t) (k : Nat) (f : Kernel → Kernel) : s.sameArchitecture (t.onKernel k f) := h

theorem fresh {s t : State} (h : s.sameArchitecture t) : s.sameArchitecture t.fresh.2 := h

theorem freeNat {s t : State} (h : s.sameArchitecture t) : s.sameArchitecture t.freeNat.2 := h

theorem abort {s t : State} (h : s.sameArchitecture t) (k : Nat) (c : Cause) : s.sameArchitecture (t.abort k c) := by
  unfold State.abort
  split
  · exact h
  · split
    · split <;> exact h
    · exact h
    · exact h
    · exact h

theorem raise {s t : State} (h : s.sameArchitecture t) (i : Nat) (u : Bool) (c : Cause) (w : Word) (pc k : Nat) :
    s.sameArchitecture (t.raise i u c w pc k) := by
  unfold State.raise
  split
  · exact h
  · split
    · exact abort (onGroup h _ _) _ _
    · exact h

theorem trap {s t : State} (h : s.sameArchitecture t) (c : Cause) (w : Word) : s.sameArchitecture (t.trap c w) := h.raise ..

theorem sched {s t : State} (h : s.sameArchitecture t) (l : Nat) (fl : Flags) (k : EKind) : s.sameArchitecture (t.sched l fl k) := by
  unfold State.sched
  split
  · exact h.trap ..
  · exact h.onMe _ fun _ => ⟨rfl, rfl, rfl, rfl, rfl, rfl, rfl, rfl⟩

theorem result {s t : State} (h : s.sameArchitecture t) (l : Nat) (fl : Flags) (d : Dst) (v m : Wide) :
    s.sameArchitecture (t.result l fl d v m) := by
  unfold State.result
  split
  · exact h
  · exact h.sched ..

theorem resultX {s t : State} (h : s.sameArchitecture t) (l : Nat) (d : Fin 64) (v : Word) : s.sameArchitecture (t.resultX l d v) := h.result ..

theorem resultP {s t : State} (h : s.sameArchitecture t) (l : Nat) (d : Fin 8) (v : Bool) : s.sameArchitecture (t.resultP l d v) := h.result ..

theorem act {s t : State} (h : s.sameArchitecture t) (l : Nat) (k : ActKind) : s.sameArchitecture (t.act l k) :=
  h.onMe _ fun _ => ⟨rfl, rfl, rfl, rfl, rfl, rfl, rfl, rfl⟩

theorem hold {s t : State} (h : s.sameArchitecture t) (w : Wait) (a : Bool) : s.sameArchitecture (t.hold w a) :=
  h.onMe _ fun _ => ⟨rfl, rfl, rfl, rfl, rfl, rfl, rfl, rfl⟩

/-- A meaning that ends in done keeps it when its state does. -/
theorem of_done {s t u : State} (e : t.done = .next u) (h : s.sameArchitecture t) : s.sameArchitecture u := by
  obtain rfl := (State.done_eq_next t u).1 e
  exact h

/-- A meaning that is guarded by handler mode keeps it when it does outside. -/
theorem of_notInHandler {s u : State} {k : Out'} (e : s.notInHandler k = .next u) (h : k = .next u → s.sameArchitecture u) :
    s.sameArchitecture u := by
  unfold State.notInHandler at e
  split at e
  · exact of_done e (s.sameArchitecture_refl.trap ..)
  · exact h e

end State.sameArchitecture

end Sys2Proof.Machine
end

