-- ==== Sys2Proof/Laws/Memory.lean ====
section
/-! SUPPORT. Byte memories: every operation keeps the canonical form, and a read gives what was last written. -/
namespace Sys2Proof.Machine

/-- The canonical form as an order and a condition on entries. -/
theorem Mem.wfFrom_iff (m : Mem) (lo : Option Nat) :
    Mem.wfFrom lo m = true ↔ (∀ c ∈ m, (∀ l, lo = some l → l < c.1) ∧ c.2 ≠ 0#8) ∧ m.Pairwise (fun x y => x.1 < y.1) := by
  induction m generalizing lo with
  | nil => simp [Mem.wfFrom]
  | cons c r ih =>
    obtain ⟨a, b⟩ := c
    have e : Mem.wfFrom lo ((a, b) :: r) = true ↔ ((match lo with | some l => decide (l < a) | none => true) = true ∧ (b != 0#8) = true)
        ∧ Mem.wfFrom (some a) r = true := by
      rw [Mem.wfFrom.eq_def, Bool.and_eq_true, Bool.and_eq_true]
      first | done | exact Iff.rfl
    rw [e, ih]
    constructor
    · rintro ⟨⟨h, hb⟩, hr, hp⟩
      refine ⟨?_, List.pairwise_cons.2 ⟨fun c hc => (hr c hc).1 a rfl, hp⟩⟩
      intro c hc
      rcases List.mem_cons.1 hc with rfl | hc
      · refine ⟨?_, by simpa using hb⟩
        rintro l rfl
        simpa using h
      · refine ⟨?_, (hr c hc).2⟩
        rintro l rfl
        exact Nat.lt_trans (by simpa using h) ((hr c hc).1 a rfl)
    · rintro ⟨h, hp⟩
      obtain ⟨ha, hp⟩ := List.pairwise_cons.1 hp
      have h0 := h (a, b) (List.mem_cons_self ..)
      refine ⟨⟨?_, by simpa using h0.2⟩, ?_, hp⟩
      · cases lo with
        | none => rfl
        | some l => simpa using h0.1 l rfl
      · intro c hc
        refine ⟨?_, (h c (List.mem_cons_of_mem _ hc)).2⟩
        rintro l ⟨⟩
        exact ha c hc

theorem Mem.wf_iff (m : Mem) : m.wf = true ↔ (∀ c ∈ m, c.2 ≠ 0#8) ∧ m.Pairwise (fun x y => x.1 < y.1) := by
  simp [Mem.wf, Mem.wfFrom_iff]

theorem Mem.mem_upFrom (m : Mem) (h : m.wf = true) (lo : Nat) (c : Host.Cell) : c ∈ m.upFrom lo ↔ c ∈ m ∧ lo ≤ c.1 := by
  have hp := ((Mem.wf_iff m).1 h).2
  clear h
  unfold Mem.upFrom
  induction m with
  | nil => simp
  | cons d r ih =>
    obtain ⟨hd, hp⟩ := List.pairwise_cons.1 hp
    rw [List.dropWhile_cons]
    split
    · rename_i hlt
      rw [List.mem_cons]
      refine Iff.trans (ih hp) ?_
      constructor
      · rintro ⟨hc, hlo⟩; exact ⟨.inr hc, hlo⟩
      · rintro ⟨rfl | hc, hlo⟩
        · simp at hlt; omega
        · exact ⟨hc, hlo⟩
    · rename_i hlt
      rw [List.mem_cons]
      constructor
      · rintro (rfl | hc)
        · exact ⟨.inl rfl, by simpa using hlt⟩
        · refine ⟨.inr hc, ?_⟩
          have := hd c hc; simp at hlt; omega
      · exact (·.1)

theorem Mem.mem_below (m : Mem) (h : m.wf = true) (hi : Nat) (c : Host.Cell) : c ∈ m.below hi ↔ c ∈ m ∧ c.1 < hi := by
  have hp := ((Mem.wf_iff m).1 h).2
  clear h
  unfold Mem.below
  induction m with
  | nil => simp
  | cons d r ih =>
    obtain ⟨hd, hp⟩ := List.pairwise_cons.1 hp
    rw [List.takeWhile_cons]
    split
    · rename_i hlt
      have ih := ih hp
      rw [List.mem_cons, List.mem_cons]
      constructor
      · rintro (rfl | hc)
        · exact ⟨.inl rfl, by simpa using hlt⟩
        · exact ⟨.inr (ih.1 hc).1, (ih.1 hc).2⟩
      · rintro ⟨rfl | hc, hlo⟩
        · exact .inl rfl
        · exact .inr (ih.2 ⟨hc, hlo⟩)
    · rename_i hlt
      simp only [List.not_mem_nil, List.mem_cons, false_iff, not_and]
      rintro (rfl | hc)
      · simpa using hlt
      · have := hd c hc; simp at hlt; omega

theorem Mem.mem_cells (a : Nat) (bs : List Byte) (x : Nat) (b : Byte) :
    (x, b) ∈ Mem.cells a bs ↔ a ≤ x ∧ bs[x - a]? = some b ∧ b ≠ 0#8 := by
  induction bs generalizing a with
  | nil => simp [Mem.cells]
  | cons d r ih =>
    have hx : ∀ y : Byte, a + 1 ≤ x ∧ r[x - (a + 1)]? = some y ↔ a < x ∧ (d :: r)[x - a]? = some y := by
      intro y
      constructor
      · rintro ⟨h, e⟩
        refine ⟨h, ?_⟩
        rw [show x - a = (x - (a + 1)) + 1 by omega]; simpa using e
      · rintro ⟨h, e⟩
        refine ⟨h, ?_⟩
        rw [show x - a = (x - (a + 1)) + 1 by omega] at e; simpa using e
    rw [Mem.cells]
    split
    · rename_i h0
      rw [ih, ← and_assoc, hx]
      simp only [beq_iff_eq] at h0
      constructor
      · rintro ⟨⟨h, e⟩, hb⟩; exact ⟨by omega, e, hb⟩
      · rintro ⟨h, e, hb⟩
        refine ⟨⟨?_, e⟩, hb⟩
        rcases Nat.lt_or_eq_of_le h with h | rfl
        · exact h
        · simp at e; exact absurd (e ▸ h0) hb
    · rename_i h0
      simp only [beq_iff_eq] at h0
      rw [List.mem_cons, ih, ← and_assoc, hx]
      constructor
      · rintro (⟨⟨⟩⟩ | ⟨⟨h, e⟩, hb⟩)
        · exact ⟨Nat.le_refl _, by simp, h0⟩
        · exact ⟨by omega, e, hb⟩
      · rintro ⟨h, e, hb⟩
        rcases Nat.lt_or_eq_of_le h with h | rfl
        · exact .inr ⟨⟨h, e⟩, hb⟩
        · simp at e; exact .inl (by rw [e])

theorem Mem.cells_pairwise (a : Nat) (bs : List Byte) : (Mem.cells a bs).Pairwise (fun x y => x.1 < y.1) := by
  induction bs generalizing a with
  | nil => simp [Mem.cells]
  | cons d r ih =>
    rw [Mem.cells]
    split
    · exact ih _
    · refine List.pairwise_cons.2 ⟨?_, ih _⟩
      rintro ⟨x, b⟩ hc
      have := ((Mem.mem_cells (a + 1) r x b).1 hc).1
      exact this

theorem Mem.mem_write (m : Mem) (h : m.wf = true) (a : Nat) (bs : List Byte) (x : Nat) (b : Byte) :
    (x, b) ∈ m.write a bs ↔ (x, b) ∈ m ∧ (x < a ∨ a + bs.length ≤ x) ∨ a ≤ x ∧ bs[x - a]? = some b ∧ b ≠ 0#8 := by
  simp only [Mem.write, List.mem_append, Mem.mem_below m h, Mem.mem_upFrom m h, Mem.mem_cells]
  constructor
  · rintro ((⟨h1, h2⟩ | h1) | ⟨h1, h2⟩)
    · exact .inl ⟨h1, .inl h2⟩
    · exact .inr h1
    · exact .inl ⟨h1, .inr h2⟩
  · rintro (⟨h1, h2 | h2⟩ | h1)
    · exact .inl (.inl ⟨h1, h2⟩)
    · exact .inr ⟨h1, h2⟩
    · exact .inl (.inr h1)

/-- A write keeps the canonical form. -/
theorem Mem.write_wf (m : Mem) (a : Nat) (bs : List Byte) (h : m.wf = true) : (m.write a bs).wf = true := by
  obtain ⟨hz, hp⟩ := (Mem.wf_iff m).1 h
  rw [Mem.wf_iff]
  constructor
  · rintro ⟨x, b⟩ hc
    rcases (Mem.mem_write m h a bs x b).1 hc with ⟨hc, _⟩ | ⟨_, _, hb⟩
    · exact hz _ hc
    · exact hb
  · rw [Mem.write, List.append_assoc, List.pairwise_append, List.pairwise_append]
    refine ⟨hp.sublist (List.takeWhile_sublist _), ⟨Mem.cells_pairwise a bs, hp.sublist (List.dropWhile_sublist _), ?_⟩, ?_⟩
    · rintro ⟨x, b⟩ hc d hd
      have h1 := (Mem.mem_cells a bs x b).1 hc
      have h2 := ((Mem.mem_upFrom m h _ d).1 hd).2
      have h3 := (List.getElem?_eq_some_iff.1 h1.2.1).1
      show x < d.1
      omega
    · rintro c hc ⟨x, b⟩ hd
      have h1 := ((Mem.mem_below m h _ c).1 hc).2
      rcases List.mem_append.1 hd with hd | hd
      · have := ((Mem.mem_cells a bs x b).1 hd).1
        show c.1 < x
        omega
      · have := ((Mem.mem_upFrom m h _ _).1 hd).2
        show c.1 < x
        simp only at this
        omega

/-- A write of a number keeps the canonical form. -/
theorem Mem.putNum_wf (m : Mem) (a n v : Nat) (h : m.wf = true) : (m.putNum a n v).wf = true := Mem.write_wf m a _ h

/-- Zeroing a range keeps the canonical form. -/
theorem Mem.zero_wf (m : Mem) (lo hi : Nat) (h : m.wf = true) : (m.zero lo hi).wf = true := by
  obtain ⟨hz, hp⟩ := (Mem.wf_iff m).1 h
  rw [Mem.wf_iff]
  exact ⟨fun c hc => hz c (List.mem_filter.1 hc).1, hp.sublist (List.filter_sublist ..)⟩

/-- The byte at an address, by the entries. -/
theorem Mem.get_eq (m : Mem) (h : m.wf = true) (x : Nat) (b : Byte) (hb : b ≠ 0#8) : m.get x = b ↔ (x, b) ∈ m := by
  have hw := (Mem.wf_iff m).1 h
  clear h
  obtain ⟨hz, hp⟩ := hw
  induction m with
  | nil => simp [Mem.get, Ne.symm hb]
  | cons c r ih =>
    obtain ⟨a, d⟩ := c
    obtain ⟨hd, hp'⟩ := List.pairwise_cons.1 hp
    have ih := ih (fun c hc => hz c (List.mem_cons_of_mem _ hc)) hp'
    rw [Mem.get, List.mem_cons]
    split
    · refine Iff.trans ih ?_
      constructor
      · exact .inr
      · rintro (⟨⟨⟩⟩ | hc)
        · omega
        · exact hc
    · rename_i hlt
      have hno : (x, b) ∉ r := fun hc => by have := hd _ hc; simp only at this; omega
      split
      · rename_i he
        simp only [beq_iff_eq] at he
        subst he
        simp [hno, eq_comm]
      · rename_i he
        simp only [beq_iff_eq] at he
        simp [hno, Ne.symm he, Ne.symm hb]

/-- Two memories in canonical form that read alike are equal data. -/
theorem Mem.ext_get (m n : Mem) (hm : m.wf = true) (hn : n.wf = true) (h : ∀ x, m.get x = n.get x) : m = n := by
  have hmem : ∀ c, c ∈ m ↔ c ∈ n := by
    rintro ⟨x, b⟩
    by_cases hb : b = 0#8
    · constructor
      · intro hc; exact absurd hb (((Mem.wf_iff m).1 hm).1 _ hc)
      · intro hc; exact absurd hb (((Mem.wf_iff n).1 hn).1 _ hc)
    · rw [← Mem.get_eq m hm x b hb, ← Mem.get_eq n hn x b hb, h]
  have pm := ((Mem.wf_iff m).1 hm).2
  have pn := ((Mem.wf_iff n).1 hn).2
  clear h hm hn
  induction m generalizing n with
  | nil =>
    cases n with
    | nil => rfl
    | cons c r => exact absurd ((hmem c).2 (List.mem_cons_self ..)) (by simp)
  | cons c r ih =>
    cases n with
    | nil => exact absurd ((hmem c).1 (List.mem_cons_self ..)) (by simp)
    | cons d q =>
      obtain ⟨hc, pm'⟩ := List.pairwise_cons.1 pm
      obtain ⟨hd, pn'⟩ := List.pairwise_cons.1 pn
      have hcd : c = d := by
        rcases List.mem_cons.1 ((hmem c).1 (List.mem_cons_self ..)) with h | h
        · exact h
        · rcases List.mem_cons.1 ((hmem d).2 (List.mem_cons_self ..)) with e | e
          · exact e.symm
          · have h1 := hd c h; have h2 := hc d e; omega
      subst hcd
      refine congrArg (c :: ·) (ih (n := q) ?_ pm' pn')
      intro x
      constructor
      · intro hx
        rcases List.mem_cons.1 ((hmem x).1 (List.mem_cons_of_mem _ hx)) with h | h
        · subst h; have := hc _ hx; omega
        · exact h
      · intro hx
        rcases List.mem_cons.1 ((hmem x).2 (List.mem_cons_of_mem _ hx)) with h | h
        · subst h; have := hd _ hx; omega
        · exact h

/-- Read after write: the bytes written, and every other byte as before. -/
theorem Mem.get_write (m : Mem) (h : m.wf = true) (a : Nat) (bs : List Byte) (x : Nat) :
    (m.write a bs).get x = if a ≤ x ∧ x < a + bs.length then bs.getD (x - a) 0#8 else m.get x := by
  have hw := Mem.write_wf m a bs h
  have key : ∀ (u v : Byte), (∀ b, b ≠ 0#8 → (u = b ↔ v = b)) → u = v := by
    intro u v hk
    by_cases hu : u = 0#8
    · by_cases hv : v = 0#8
      · rw [hu, hv]
      · exact (hk v hv).2 rfl
    · exact ((hk u hu).1 rfl).symm
  apply key
  intro b hb
  rw [Mem.get_eq _ hw x b hb, Mem.mem_write m h, ← Mem.get_eq m h x b hb]
  split
  · rename_i hx
    have hl : x - a < bs.length := by omega
    simp only [List.getElem?_eq_getElem hl, List.getD_eq_getElem?_getD, Option.getD_some, Option.some.injEq]
    constructor
    · rintro (⟨_, h | h⟩ | ⟨_, h, _⟩)
      · omega
      · omega
      · exact h
    · intro e; exact .inr ⟨hx.1, e, hb⟩
  · rename_i hx
    constructor
    · rintro (⟨h, _⟩ | ⟨h1, h2, _⟩)
      · exact h
      · have := (List.getElem?_eq_some_iff.1 h2).1; omega
    · intro e; exact .inl ⟨e, by omega⟩

theorem Mem.get_upFrom (m : Mem) (h : m.wf = true) (lo x : Nat) (hx : lo ≤ x) : (m.upFrom lo).get x = m.get x := by
  have hw : (m.upFrom lo).wf = true := by
    obtain ⟨hz, hp⟩ := (Mem.wf_iff m).1 h
    exact (Mem.wf_iff _).2 ⟨fun c hc => hz c ((List.dropWhile_sublist _).subset hc), hp.sublist (List.dropWhile_sublist _)⟩
  by_cases h0 : m.get x = 0#8
  · by_cases h1 : (m.upFrom lo).get x = 0#8
    · rw [h0, h1]
    · have := (Mem.get_eq _ hw x _ h1).1 rfl
      rw [Mem.mem_upFrom m h] at this
      exact ((Mem.get_eq m h x _ h1).2 this.1).symm
  · have := (Mem.get_eq m h x _ h0).1 rfl
    exact (Mem.get_eq _ hw x _ h0).2 ((Mem.mem_upFrom m h lo _).2 ⟨this, hx⟩)

theorem Mem.upFrom_wf (m : Mem) (h : m.wf = true) (lo : Nat) : (m.upFrom lo).wf = true := by
  obtain ⟨hz, hp⟩ := (Mem.wf_iff m).1 h
  exact (Mem.wf_iff _).2 ⟨fun c hc => hz c ((List.dropWhile_sublist _).subset hc), hp.sublist (List.dropWhile_sublist _)⟩

@[simp] theorem Mem.read_length (m : Mem) (a n : Nat) : (m.read a n).length = n := by
  induction n generalizing m a with
  | zero => simp [Mem.read]
  | succ n ih => simp [Mem.read, ih]

/-- A read of several bytes reads each of them. -/
theorem Mem.read_eq (m : Mem) (h : m.wf = true) (a n : Nat) : m.read a n = (List.range' a n).map m.get := by
  induction n generalizing m a with
  | zero => simp [Mem.read]
  | succ n ih =>
    simp only [Mem.read, List.range'_succ, List.map_cons]
    rw [ih _ (Mem.upFrom_wf m h a), Mem.get_upFrom m h a a (Nat.le_refl _)]
    congr 1
    apply List.map_congr_left
    intro x hx
    exact Mem.get_upFrom m h a x (by have := List.mem_range'_1.1 hx; omega)

/-- Reading the bytes just written gives them. -/
theorem Mem.read_write (m : Mem) (h : m.wf = true) (a : Nat) (bs : List Byte) : (m.write a bs).read a bs.length = bs := by
  rw [Mem.read_eq _ (Mem.write_wf m a bs h)]
  apply List.ext_getElem
  · simp
  · intro i h1 h2
    simp only [List.getElem_map, List.getElem_range', Nat.one_mul]
    rw [Mem.get_write m h]
    simp [h2]

end Sys2Proof.Machine
end

