-- ==== Sys2Proof/Tests/Slice0.lean ====
section
/-! SUPPORT. The author's tests: ill-formed terms are refused, words written out from the spec's encodings decode, and concrete states and
operands meet the hypotheses of every statement, clause by clause, with what the spec says follows in a few of them. -/
namespace Sys2Proof.Tests
open Sys2Proof.Machine

/-! The witnesses are checked one after the other: many of them at once need more memory than one of them does. -/
set_option Elab.async false

/-! ### Ill-formed terms (R84, R85, R86, R137) -/

theorem test_wf_types : (Instr.vfma 0 0 0 0 .s32).wellFormed = false ∧ (Instr.vabs 0 0 0 .z32).wellFormed = false
    ∧ (Instr.vneg 0 0 0 .z32).wellFormed = false ∧ (Instr.vshl 0 0 0 0 .f32).wellFormed = false ∧ (Instr.vshr 0 0 0 0 .bf16).wellFormed = false
    ∧ (Instr.vsra 0 0 0 0 .z32).wellFormed = false ∧ (Instr.vshuf 0 0 0 .lo .bf16).wellFormed = false
    ∧ (Instr.vredAdd 0 0 0 .s8).wellFormed = false ∧ (Instr.vscanAdd 0 0 0 .bf16).wellFormed = false ∧ (Instr.vamax 0 0 0 .s32).wellFormed = false := by
  decide

theorem test_wf_fields : (Instr.vext 0 0 16 .f32).wellFormed = false ∧ (Instr.vext 0 0 32 .s16).wellFormed = false
    ∧ (Instr.vcvt 0 0 .f32 .f32 .rne false 0).wellFormed = false ∧ (Instr.loop 0 0 0#16).wellFormed = false
    ∧ (Instr.loopi 0 0#12 0#10).wellFormed = false ∧ (Instr.cld 0 0#4 0).wellFormed = false ∧ (Instr.cld 0 1#4 32).wellFormed = false
    ∧ (Instr.cst 0 2#4 16).wellFormed = false ∧ (Instr.cwhorl 0 0#4 0 0).wellFormed = false ∧ (Instr.cadj 0 1 0#4).wellFormed = false
    ∧ (Instr.cdrain 0#4 0).wellFormed = false ∧ (Instr.zacc 2 true 0 0).wellFormed = false := by decide

theorem test_wf_good : (Instr.vfma 0 0 0 0 .bf16).wellFormed = true ∧ (Instr.vext 0 0 63 .s8).wellFormed = true
    ∧ (Instr.zacc 2 false 0 0).wellFormed = true ∧ (Instr.cld 0 1#4 16).wellFormed = true := by decide

/-! ### Words (R76, R77, R79, R82, R84, R85) -/

/-- A group of the words of the spec's worked examples. -/
theorem test_decode_control : decodeSlot 0x985FFFF4 = .ok (.br 2 true 0xFFFF4#20) ∧ decodeSlot 0x9D3FFC01 = .ok (.loopi 0 0xFFF#12 1#10)
    ∧ decodeSlot 0x9E000002 = .ok .endK ∧ decodeSlot 0x9E000003 = .ok .eret ∧ decodeSlot 0x9F000007 = .ok (.trap 7#8) := ⟨rfl, rfl, rfl, rfl, rfl⟩

theorem test_decode_scalar : decodeSlot 0x870C0005 = .ok (.addi 3 0 5#12) ∧ decodeSlot 0x8C1C0040 = .ok (.limm 7 0x40#18)
    ∧ decodeSlot 0x0D1C0100 = .ok (.lsh18 7 0x100#18) ∧ decodeSlot 0x80000000 = .ok .nop := ⟨rfl, rfl, rfl, rfl⟩

theorem test_decode_memory : decodeSlot 0xB30C7001 = .ok (.st64 3 7 1#12) ∧ decodeSlot 0x321C51C0 = .ok (.st32 7 5 0x1C0#12)
    ∧ decodeSlot 0xF4045020 = .ok (.vld 1 5 0x20#12) := ⟨rfl, rfl, rfl⟩

theorem test_decode_waits : decodeSlot 0xA4040001 = .ok (.waitk 1 1#12) ∧ decodeSlot 0xA4140001 = .ok (.waitk 5 1#12) := ⟨rfl, rfl⟩

theorem test_decode_vectors : decodeSlot 0x600420D9 = .ok (.vadd 1 2 3 3 .bf16) ∧ decodeSlot 0xF11C1000 = .ok (.vredAdd 7 1 0 .f32) := ⟨rfl, rfl⟩

theorem test_decode_engines : decodeSlot 0x382142FC = .ok (.smov 4 5 2 63 0) ∧ decodeSlot 0x434850C6 = .ok (.mmaBf16 1 4 5 3 6)
    ∧ decodeSlot 0xDE005018 = .ok (.esc 5 0x18#12) := ⟨rfl, rfl, rfl⟩

theorem test_decode_others : decodeSlot 0xD3014000 = .ok (.cld 0 1#4 20) ∧ decodeSlot 0x210C0010 = .ok (.rdc 3 0x10#12)
    ∧ decodeSlot 0x2F0420C1 = .ok (.aadd 1 2 3 true) ∧ decodeSlot 0x5C142000 = .ok (.barm 5 2) ∧ decodeSlot 0x5D002000 = .ok (.stepadv 2)
    ∧ decodeSlot 0x5A300005 = .ok (.cdrain 3#4 5) ∧ decodeSlot 0x47443105 = .ok (.mmbMxfp8e4 1 2 3 4 5) := ⟨rfl, rfl, rfl, rfl, rfl, rfl, rfl⟩

/-- A reserved bit that is not zero, an unassigned OP and an unassigned member decode to nothing (R83, R86). -/
theorem test_decode_refuses : (decodeSlot 0x80000001).toOption = none ∧ (decodeSlot 0x9E000042).toOption = none
    ∧ (decodeSlot 0xFF000000).toOption = none := by decide

/-! ### Small states -/

/-- Tile 0 in bring-up, at the slot at address 0 of a bundle that ends at 4. -/
def base : State := { State.reset.withFetchWord 31 0 with cur := ⟨0, false, 0, 0, 4, none, none⟩ }

/-- With the issuing context changed. -/
def core (f : TileCtx → TileCtx) : State := base.onMe f

/-- With x[i] set. -/
def withReg (l : List (Fin 64 × Word)) : State := core fun c => { c with regs := l.foldl (fun r (i, v) => r.put (.x i) (v.setWidth 512) allBits) c.regs }

/-- With walk records. -/
def withRec (l : List (Fin 32 × Wide)) : State := core fun c => { c with regs := l.foldl (fun r (i, v) => r.put (.wrec i) v allBits) c.regs }

/-- A record from its fields, each with its lowest bit. -/
def record (l : List (Nat × Nat)) : Wide := BitVec.ofNat 512 (l.foldl (fun a (lo, v) => a + v * 2 ^ lo) 0)

/-- In handler mode. -/
def inHandler (c : TileCtx) : TileCtx := { c with flow := { c.flow with handler := some ⟨0, none, []⟩ } }

/-- The bring-up group as another state leaves it. -/
def grouped (s : State) (f : Group → Group) : State := s.onGroup 1 f

/-- The state an outcome leads to. -/
def after (s : State) (o : Host.Outcome State Fault Refusal) : State :=
  match o with
  | .next t => t
  | _ => s

/-- A state in which every hypothesis about the issuing context holds: room in flight, no handler. -/
theorem witness_fit : base.fit ∧ base.fitCore :=
  have room : base.me.full = false := by decide +kernel
  ⟨room, room, by decide +kernel⟩

/-- The tokens that land in this cycle. -/
def lands (s : State) (l : List (Nat × Bool × Fin 64 × Nat × Option Nat)) : Bool := decide (s.tokIn = l)

/-! ### Witnesses: the core -/

theorem witness_pointer_edits :
    (let s := withReg [(1, 2 ^ 41 - 1)]; s.me.full = false ∧ (s.x 1).toNat < 2 ^ 41 ∧ ((0 : Nat) : Int) + (s.x 1).toInt < 2 ^ 41)
    ∧ (let s := withReg [(1, 2 ^ 41)]; s.me.full = false ∧ 2 ^ 41 ≤ (s.x 1).toNat ∧ 2 ^ 41 ≤ ((0 : Nat) : Int) + (s.x 1).toInt)
    ∧ (let s := withReg [(1, -1)]; (s.x 0).toNat = 0 ∧ ((0 : Nat) : Int) + (s.x 1).toInt < 0) := by decide +kernel

theorem test_division_corners : (after base (exec (.divS 3 0 0) base)).me.inflight.map (·.kind) = [.reg (.x 3) (BitVec.setWidth 512 (BitVec.allOnes 64)) allBits]
    ∧ (after base (exec (.divS 3 0 0) base)).me.inflight.map (·.due) = [18] := by decide +kernel

theorem witness_clocks : (∃ g, base.groupOf base.cur.tile base.cur.urgent = some g ∧ g.cnt = base.me.flow.spanStart + (0#12).toNat
    ∧ g.cnt ≠ base.me.flow.spanStart + (1#12).toNat) := ⟨_, rfl, by decide +kernel, by decide +kernel⟩

theorem witness_control_registers : (0x003#12 ∉ [0x000#12, 0x001#12, 0x002#12, 0x008#12, 0x009#12, 0x00A#12, 0x010#12, 0x011#12, 0x012#12, 0x013#12,
      0x014#12, 0x015#12, 0x018#12, 0x020#12, 0x021#12, 0x022#12]) ∧ base.readback = false
    ∧ ({ base with crown.ctxs := vmod base.crown.ctxs 0 fun x => { x with readback := true } } : State).readback = true := by decide +kernel

/-- A wrc of TVEC that lands in this cycle, and a tile at its place in its group. -/
theorem witness_creg_writes :
    (let a : Act := ⟨0, 0, 0, 0, .wrc 0x010 0xFFFF_FFFF_FFFF_FFFF#64⟩
     let s := core fun c => { c with acts := [a] }
     (s.tctx 0 false).acts = [] ++ [a] ++ [] ∧ a.due = s.now 0 false ∧ ((s.landWrc 0 false).tctx 0 false).cr.tvec = 0x3FFFC#64)
    ∧ (base.groupOf 0 false).any (fun g => g.fits && !g.whole && g.rows == 1 && g.cols == 1 && g.place == ⟨0, 0, 0⟩) = true
    ∧ base.readCreg 0 false 0x009 = BitVec.ofNat 64 (2 ^ 16 + 2 ^ 24)
    ∧ (let s := grouped base fun g => { g with whole := true, rows := 1, cols := 0 }
       (s.groupOf 0 false).any (fun g => g.fits && g.whole) = true ∧ s.readCreg 0 false 0x009 = BitVec.ofNat 64 (10 * 2 ^ 16 + 12 * 2 ^ 24 + 2 ^ 32)) := by
  decide +kernel

/-- The words of the entries of R333 at stop cycle 3. -/
theorem test_snapshot_words :
    let e (k : EKind) : Effect := ⟨9, 0, 0, 0, 0#6, false, k⟩
    ((e (.reg (.x 5) 7#512 allBits)).snapWords 3 0).take 2 = [2 ^ 63 + 6 * 2 ^ 48 + 5, 7]
      ∧ ((e (.store (.spad 0 64) 64#64 [1#8, 2#8])).snapWords 3 0).take 3 = [2 ^ 63 + 5 * 2 ^ 60 + 6 * 2 ^ 48 + 2, 64, 0x201]
      ∧ ((e (.atomic (.spad 0 64) 64#64 .cas false 9 3#64 (BitVec.allOnes 64) none)).snapWords 3 0).drop 2 = [3, 2 ^ 32 - 1, 0, 6] := by
  decide +kernel

theorem witness_snapshots :
    (2 ^ 10 ≤ ((withReg [(1, 1024)]).x 1).toNat) ∧ (((withReg [(1, 1023)]).x 1).toNat < 2 ^ 10 ∧ (withReg [(1, 1023)]).me.handling = false)
    ∧ (let s := (withReg [(1, 64)]).onMe fun c => { inHandler c with snap := [⟨9, 0, 0, 0, 0#6, false, .reg (.x 9) 5#512 allBits⟩] }
       s.me.handling = true ∧ s.me.full = false ∧ (s.x 1).toNat < 2 ^ 10 ∧ (s.me.snap[(s.x 1).toNat % 64]?).isSome = true
        ∧ s.me.snap.length ≤ 65 % 64) := by decide +kernel

theorem witness_branches : base.cur.pc < 2 ^ 18 ∧ (base.p 0 != false) = true ∧ (base.p 0 != true) = false ∧ (base.p 1 != false) = false
    ∧ ((withReg [(1, 2)]).x 1).toNat % 4 ≠ 0 ∧ 2 ^ 18 ≤ ((withReg [(1, 2 ^ 18)]).x 1).toNat
    ∧ ¬ (((withReg [(1, 2 ^ 18 - 4)]).x 1).toNat % 4 ≠ 0 ∨ 2 ^ 18 ≤ ((withReg [(1, 2 ^ 18 - 4)]).x 1).toNat) := by decide +kernel

/-- A fetch with no loop, and the cases of a pending branch. -/
theorem witness_delay_bundles : (stepLoops 0 4 [] (Vector.replicate 4 0#32)).2.2 = none
    ∧ (nextFetch [] ⟨0, false, 0, 0, 4, some (some 64), none⟩ ⟨0, none, []⟩ (Vector.replicate 4 0#32)).1 = ⟨4, some ⟨some 64, 2⟩, []⟩
    ∧ (nextFetch [] ⟨0, false, 0, 8, 12, none, none⟩ ⟨8, some ⟨some 64, 1⟩, []⟩ (Vector.replicate 4 0#32)).1 = ⟨64, none, []⟩
    ∧ (nextFetch [] ⟨0, false, 0, 8, 12, none, none⟩ ⟨8, some ⟨some 64, 1⟩, [⟨1, 4, 60⟩, ⟨2, 4, 64⟩]⟩ (Vector.replicate 4 9#32)).1
        = ⟨64, none, [⟨2, 4, 64⟩]⟩ := by decide +kernel

/-- Bundles of one slot from 0 on. -/
def nops : Mem := Mem.write [] 0 ((List.replicate 8 (leBytes 4 (2 ^ 31))).flatten)

theorem witness_loop_entries :
    (nextFetch nops ⟨0, false, 0, 0, 4, none, some (⟨1, 4, 12⟩, false)⟩ ⟨0, none, []⟩ (Vector.replicate 4 2#32)).1 = ⟨4, none, [⟨1, 4, 12⟩]⟩
    ∧ 4 + 4 * bundleSpan nops 4 = 8 ∧ 8 + 4 * bundleSpan nops 8 = 12 ∧ 12 + 4 * bundleSpan nops 12 = 16
    ∧ (nextFetch nops ⟨0, false, 0, 0, 4, none, some (⟨1, 4, 12⟩, true)⟩ ⟨0, none, []⟩ (Vector.replicate 4 0#32)).1 = ⟨16, none, []⟩ := by
  decide +kernel

theorem witness_loops : (stepLoops 0 8 [⟨1, 0, 7⟩] (Vector.replicate 4 1#32)).1 = []
    ∧ (stepLoops 7 8 [⟨1, 0, 7⟩] (Vector.replicate 4 2#32)).2.2 = some 0 ∧ (stepLoops 0 7 [⟨1, 0, 7⟩] (Vector.replicate 4 2#32)).2.2 = none
    ∧ base.me.flow.fetch.loops.length < 4
    ∧ (let s := core fun c => { c with flow := { c.flow with fetch := ⟨0, none, [⟨2, 0, 7⟩]⟩ } }
       s.me.full = false ∧ s.me.handling = false ∧ ∃ l ∈ s.me.flow.fetch.loops, l.lc = 2) := by decide +kernel

/-- The context holding in a wait. -/
def waiting (w : Wait) (f : Regs → Regs) : State := core fun c => { c with flow := { c.flow with wait := some w }, regs := f c.regs }

theorem witness_waits :
    (let s := waiting (.waitk 5 2) fun r => { r with k := r.k.set 5 2#32 }
     (s.groupOf 0 false).any (·.counts) = true ∧ (s.tctx 0 false).flow.wait = some (.waitk 5 2) ∧ 2 ≤ (s.tctx 0 false).regs.k[5].toNat
       ∧ ((after s (exec (.waitkRelease 0 false) s)).tctx 0 false).regs.k[5] = 0#32)
    ∧ (let s := waiting (.waitk 5 2) fun r => { r with k := r.k.set 5 1#32 }; ¬ 2 ≤ (s.tctx 0 false).regs.k[5].toNat)
    ∧ (let s := waiting (.waitk 63 2) id; (s.tctx 0 false).flow.wait = some (.waitk 63 2))
    ∧ (let s := waiting (.fence [1, 1]) fun r => { r with k := r.k.set 1 2#32 }
       (s.tctx 0 false).flow.wait = some (.fence [1, 1]) ∧ ∀ k ∈ [(1 : Fin 64), 1], [(1 : Fin 64), 1].count k ≤ (s.tctx 0 false).regs.k[k].toNat)
    ∧ (let s := waiting (.fence [1, 1]) fun r => { r with k := r.k.set 1 1#32 }
       ∃ k ∈ [(1 : Fin 64), 1], (s.tctx 0 false).regs.k[k].toNat < [(1 : Fin 64), 1].count k)
    ∧ (let s := waiting (.barw 3 0#16) id; (s.tctx 0 false).flow.wait = some (.barw 3 0#16))
    ∧ (let s := grouped (waiting (.syncg 0) id) fun g => { g with sync := some 0 }
       (s.group 1).any (fun g => g.fits && g.sync == some g.cnt && g.counts) = true ∧ (s.tctx 0 false).flow.wait = some (.syncg 0)
         ∧ ((after s (exec (.syncgRelease 1) s)).tctx 0 false).flow.wait = none)
    ∧ (let s := grouped (waiting (.syncg 0) id) fun g => { g with cnt := 3 }
       (s.group 1).any (fun g => g.fits && g.counts && g.sync.isNone && s.syncAt g == some 11) = true)
    ∧ (base.group 1).any (fun g => g.fits && base.syncAt g == none) = true := by
  decide +kernel

theorem witness_end_and_eret : base.cur.tile < 480 ∧ base.me.handling = false ∧ (core inHandler).me.handling = true := by
  decide +kernel

/-- A trap of tile 0. -/
def aTrap (c : Cause) : TrapRec := ⟨0, 5, c, 0, 0, 0#64⟩

theorem witness_traps :
    (base.group 1).any (·.st == .running) = true
    ∧ ((base.group 1).map fun g => (g.trap (aTrap .softTrap)).st) = some (.freezing 13)
    ∧ (let s := core fun c => { c with cr := { c.cr with tvec := 64#64 } }
       ((s.group 1).bind fun g => s.disposal { g with window := [aTrap .softTrap] }) = some .handle)
    ∧ (let s := core fun c => { c with cr := { c.cr with dbgctl := 16#5 } }
       ((s.group 1).bind fun g => s.disposal { g with window := [aTrap .halt] }) = some .hold)
    ∧ ((base.group 1).bind fun g => base.disposal { g with window := [aTrap .wawCollide] }) = some (.abort (aTrap .wawCollide)) := by decide +kernel

/-- An effect of x5 due in cycle `n`. -/
def effect (n : Nat) : Effect := ⟨n, 0, 0, 0, 0#6, false, .reg (.x 5) 7#512 allBits⟩

theorem witness_stops :
    (let s := grouped (core fun c => { c with inflight := [effect 9] }) fun g => { g with st := .freezing 8, cnt := 8 }
     (s.group 1).any (fun g => g.fits && !g.paused && g.saveSlot.isNone && g.pauseAt.isNone && decide (8 ≤ g.cnt)) = true
       ∧ ((after s (exec (.freezeStop 1) s)).tctx 0 false).snap = [effect 9])
    ∧ (let s := grouped base fun g => { g with pauseAt := some 8, cnt := 8 }
       (s.group 1).any (fun g => g.fits && !g.paused && g.saveSlot.isNone && g.st == .running && g.pauseAt == some 8 && decide (8 ≤ g.cnt)) = true) := by
  decide +kernel

/-- A freeze whose window is handled, and one that is recorded under a kernel. -/
theorem witness_dispositions :
    (let s := grouped (core fun c => { c with inflight := [effect 9], cr := { c.cr with tvec := 64#64 } }) fun g =>
       { g with st := .freezing 8, cnt := 8, window := [aTrap .softTrap] }
     (s.group 1).any (fun g => g.st == .freezing 8 && g.fits && !g.paused && g.saveSlot.isNone && g.pauseAt.isNone && s.disposal g == some .handle) = true
       ∧ (let z := after s (exec (.freezeStop 1) s)
          (z.group 1).any (·.st == .handling) = true ∧ (z.tctx 0 false).handling = true ∧ (z.tctx 0 false).snap = [effect 9]))
    ∧ (let n : Kernel := ⟨1, 3, (5, 9), 0#512, 0#512, .running, none, 0, 0, false, false, false, none, none, [], 0, 0, [], [], 0, none, none, false⟩
       let s := { grouped base (fun g => { g with ctx := 3, st := .freezing 8, cnt := 8, window := [aTrap .wawCollide] }) with crown.kernels := [n] }
       (s.group 1).any (fun g => s.disposal g != some .handle && g.recorded == [] && decide (g.ctx < 64)) = true ∧ s.kernel 1 = some n
         ∧ (let z := after s (exec (.freezeStop 1) s)
            (z.group 1).any (·.st == .frozen) = true ∧ (z.ctxt 3).waiting.map (fun r => (r.cause, r.owner)) = [(.wawCollide, 1)])) := by decide +kernel

theorem witness_starts :
    (let s := grouped (core fun c => { c with snap := [effect 9] }) fun g => { g with st := .resuming 0 }
     (s.group 1).any (fun g => g.fits && !g.paused && g.pend.isEmpty && g.window.isEmpty && decide (0 ≤ s.gcyc.toNat)) = true
       ∧ ((after s (exec (.groupResume 1) s)).tctx 0 false).inflight = [effect 9])
    ∧ (let s := grouped base fun g => { g with paused := true }
       (s.group 1).any (fun g => g.paused && g.st == .running && !s.coveredBy g 1) = true)
    ∧ (let s := grouped { base with gcyc := 4#64 } fun g => { g with st := .placing 4 }
       (s.group 1).any (fun g => g.st == .placing s.gcyc.toNat) = true ∧ s.gcyc ≠ 0#64) := by decide +kernel

theorem witness_entry : (aTrap .softTrap).fpc < 2 ^ 18 ∧ (aTrap .softTrap).slot < 2 ^ 8 := by decide

/-- One result in flight, due now and due later; and two of one register. -/
theorem witness_results :
    (let s := core fun c => { c with inflight := [effect 0] }
     (s.tctx 0 false).inflight = [] ++ [effect 0] ++ [] ∧ (effect 0).due = s.now 0 false ∧ (s.landRegs 0 false).x 5 = 7#64)
    ∧ (let s := core fun c => { c with inflight := [effect 1] }; (effect 1).due ≠ s.now 0 false)
    ∧ (let b : Effect := { effect 0 with ord := 1 }
       let s := core fun c => { c with inflight := [effect 0, b] }
       (s.tctx 0 false).inflight = [effect 0, b] ++ [] ∧ (effect 0).due = s.now 0 false ∧ (effect 0).ord ≠ b.ord
         ∧ (Dst.x 5).same (.x 5) = true ∧ (Dst.x 5).void = false ∧ (s.groupOf 0 false).isSome = true ∧ (s.tctx 0 false).handling = false
         ∧ (s.groupOf 0 false).any (·.st == .running) = true ∧ (s.landRegs 0 false).x 5 = 0#64) := by decide +kernel

/-- Loads, stores and atomics that pass, and that fail. -/
theorem witness_targets :
    (let s := withReg [(1, BitVec.ofNat 64 (2 ^ 60 + 0x1DFFF8))]
     (s.target [1, 2, 3, 4, 5] .load false (s.x 1) 0 8).toOption = some (.spad 0 0x1DFFF8, BitVec.ofNat 64 (2 ^ 60 + 0x1DFFF8))
       ∧ (s.target [1, 2, 3, 4, 5] .store false (s.x 1) 0 8).toOption.isSome = true ∧ (s.target [1, 2, 3] .atomic false (s.x 1) 0 8).toOption.isSome = true
       ∧ (s.target [1, 2, 3, 4, 5] .load false (s.x 1) 8 8).toOption.isNone = true ∧ (s.target [1, 2, 3, 4, 5] .store false (s.x 1) 8 8).toOption.isNone = true
       ∧ (s.target [1, 2, 3] .atomic false (s.x 1) 8 8).toOption.isNone = true)
    ∧ (let s := withReg [(1, BitVec.ofNat 64 (2 ^ 60 + 0x40))]
       (s.target [1, 2, 3, 5] .load false (s.x 1) 64 64).toOption = some (.spad 0 0x80, BitVec.ofNat 64 (2 ^ 60 + 0x80))
         ∧ (s.target [1, 2, 3, 5] .store false (s.x 1) 64 64).toOption.isSome = true ∧ s.me.handling = false) := by decide +kernel

theorem witness_gathers :
    (let s := withReg [(1, 2 ^ 60 + 0x1DFFFC)]
     ptrSpace (s.x 1) = 1 ∧ (s.target [1] .load false (s.x 1) 0 4).toOption.isSome = true ∧ (s.target [1] .store false (s.x 1) 0 4).toOption.isSome = true
       ∧ (∀ i, i < 16 → lane (s.v 2) i = 0) ∧ (s.vm 0).getLsbD 15 = true)
    ∧ (let s := withReg [(1, 2 ^ 60 + 0x1E0000)]; (s.target [1] .load false (s.x 1) 0 4).toOption = none) := by decide +kernel

/-- The bounds of the own scratchpad, clause by clause. -/
theorem witness_own_scratchpad :
    let t (sp : Bool) (off : Nat) (disp : Int) (n : Nat) : Option (Loc × Word) := (base.target [1, 2, 3, 4, 5] .load sp (BitVec.ofNat 64 (2 ^ 60 + off)) disp n).toOption
    base.me.handling = false ∧ (BitVec.ofNat 64 (2 ^ 60 + 5)).toNat / 2 ^ 60 = 1
      ∧ t false 0 (-1) 1 = none ∧ t false (2 ^ 41 - 1) 1 1 = none ∧ t false (2 ^ 21) 0 8 = none ∧ t false 4 0 8 = none
      ∧ t false (0x1E0000 - 8) 8 8 = none ∧ (t false (0x1E0000 - 8) 0 8).isSome = true ∧ (t false 0 0 64).isSome = true
      ∧ t true (base.me.floor - 8) 0 8 = none ∧ base.me.floor - 8 < base.me.floor := by decide +kernel

theorem witness_other_spaces :
    let t (p : Nat) (acc : Access) (n : Nat) (s : State) : Option Loc := (s.target [1, 2, 3, 4, 5] acc false (BitVec.ofNat 64 p) 0 n).toOption.map (·.1)
    t 0 .load 8 base = none ∧ t (6 * 2 ^ 60) .load 8 base = none ∧ t (15 * 2 ^ 60) .load 8 base = none
      ∧ t (2 * 2 ^ 60) .load 8 (core inHandler) = none ∧ t (2 * 2 ^ 60 + 480 * 2 ^ 41) .load 8 base = none ∧ t (2 * 2 ^ 60 + 2 ^ 50) .load 8 base = none
      ∧ t (3 * 2 ^ 60 + 2 ^ 28) .load 8 base = none ∧ t (3 * 2 ^ 60) .load 8 base = none ∧ base.me.flow.aligned = false
      ∧ t (4 * 2 ^ 60) .atomic 4 base = none ∧ t (5 * 2 ^ 60) .atomic 8 base = none ∧ t (5 * 2 ^ 60 + 0x3FFFF8) .load 8 base = none ∧ base.readback = false
      ∧ t (4 * 2 ^ 60) .load 4 base = some (.mailbox 0) := by decide +kernel

/-- A store, a load and an atomic in the cycle they perform. -/
theorem witness_bank_effects :
    (let e : Effect := ⟨2, 0, 0, 0, 0#6, false, .store (.spad 3 64) 0#64 [1#8, 2#8]⟩
     let z := base.performWrite 0 false 2 e
     (z.tile 3).spad.get 65 = 2#8 ∧ (z.tile 3).spad.get 66 = 0#8 ∧ (z.tile 2).spad.get 65 = 0#8 ∧ e.due = 2 ∧ (base.tile 3).spad.wf = true
       ∧ ((base.performWrite 0 false 1 e).tile 3).spad = [])
    ∧ (let e : Effect := ⟨2, 0, 0, 0, 0#6, false, .store (.shared 3 64) 0#64 [1#8]⟩
       (vget (base.performWrite 0 false 2 e).shared 3 []).get 64 = 1#8 ∧ (vget base.shared 3 []).wf = true)
    ∧ (let e : Effect := ⟨5, 0, 0, 0, 0#6, false, .load (.spad 0 0) 0#64 4 true (.x 9) none⟩
       e.due = 2 + 3 ∧ e.due ≠ 3 + 3 ∧ e.noReg = false)
    ∧ (let e : Effect := ⟨5, 0, 0, 0, 0#6, false, .atomic (.spad 0 0) 0#64 .add true 9 3#64 0#64 (some (BitVec.allOnes 64))⟩
       (base.performWrite 0 false 4 e).tiles[0].spad = [(0, 2#8)] ∧ e.due = 4 + 1 ∧ (base.tile 0).spad.wf = true
         ∧ (BitVec.allOnes 64).toNat < 2 ^ 64) := by decide +kernel

/-- A store of eight bytes and a load of two of them, which it feeds; a load of bytes beside them; and two loads. -/
theorem witness_collisions :
    let x : Touch := ⟨spadSpan 0 64 8, .store, 0, false, .core 1, 1, 0, 0⟩
    let y : Touch := ⟨spadSpan 0 66 2, .load, 0, false, .core 2, 2, 4, 0⟩
    let w : Touch := ⟨spadSpan 0 72 2, .load, 0, false, .core 3, 3, 8, 0⟩
    x.clash x = true ∧ x.clash y = false ∧ y.clash x = false ∧ y.clash w = false ∧ x.clash w = true ∧ w.clash x = true
      ∧ ({ x with at_ := spadSpan 0 128 8 } : Touch).clash x = false ∧ clashing [] [x, y, w] = [x, w] ∧ x.at_.bank / 256 = 0 ∧ x.ord < w.ord
      ∧ (let s := core fun c => { c with inflight := [{ effect 0 with ord := 3 }, { effect 0 with ord := 4 }] }
         let z := [x, w].foldl State.cancelParty (s.raiseClashes [x, w])
         (s.groupOf 0 false).any (fun g => g.st == .running && g.id == 1) = true ∧ (s.tctx 0 false).handling = false
           ∧ (z.tctx 0 false).inflight.map (·.ord) = [4] ∧ (z.group 1).any (fun g => g.window.map (·.cause) == [.bankCollide]) = true) := by decide +kernel

/-! ### Witnesses: vectors -/

theorem witness_lanes : (∀ x y z : Nat, ((fun _ _ _ => (0, 0#6) : Nat → Nat → Nat → Nat × Flags) x y z).1 < 2 ^ laneWidth .bf16)
    ∧ laneFmt .s32 = none ∧ laneFmt .z32 = none ∧ laneFmt .s8 = none ∧ (BitVec.intMin (laneWidth .s8)).toInt < 0 :=
  ⟨fun _ _ _ => by show (0 : Nat) < _; decide, by decide⟩

theorem witness_compares : laneFmt .s16 = none ∧ laneFmt .f32 = some fp32 ∧ (fp32.val 0x7FC00000).isNan = true ∧ (fp32.val 0x7F800001).isSnan = true
    ∧ (fp32.val 0x3F800000).isNan = false := by decide +kernel

theorem witness_reductions : participants .f32 0#16 5#512 = [] ∧ (Rm.sr = .sr) ∧ (Rm.rne ≠ .sr) ∧ LaneT.f32 ≠ .bf16 ∧ LaneT.f32 ≠ .z32 := by decide +kernel

/-- vamax of a NaN, and of numbers alone. -/
theorem witness_amax :
    participants .f32 1#16 0x7FC00001#512 = [0x7FC00001] ∧ (fp32.val 0x7FC00001).isNan = true ∧ (fp32.val 0xC0000000).isNan = false
      ∧ (let s := core fun c => { c with regs := { c.regs with v := c.regs.v.set 2 0x7FC00001#512 } }
         (after s (exec (.vamax 3 2 0 .f32) s)).me.inflight.map (·.kind) = [.reg (.x 3) 0x7FC00000#512 allBits]) := by decide +kernel

theorem witness_rounding : (0 : Int) ≤ 0 ∧ (0 : Int) < 1 ∧ 1 % 2 ^ ((1 : Int) - 0).toNat ≠ 0 ∧ (roundUnits .rne 0 3 0 1).1 = 2 ∧ (roundUnits .rz 0 3 0 1).1 = 1
    ∧ (roundUnits .sr (2 ^ 31) 3 0 1).1 = 2 ∧ (roundUnits .sr (2 ^ 31 - 1) 3 0 1).1 = 1
    ∧ (bf16.val 0x7FC0).isNan = true ∧ (bf16.val 0x3F80).isNan = false := by decide +kernel

/-! ### Witnesses: engines' commands at issue -/

/-- A kernel of context 3, in the group of tile 0. -/
def aKernel : Kernel := ⟨1, 3, (5, 9), 0#512, 0#512, .running, none, 0, 0, false, false, false, none, none, [], 0, 0, [], [], 0, none, none, false⟩

/-- With a kernel for the group of tile 0. -/
def withKernel (f : Kernel → Kernel) : State := { base with crown.kernels := [f aKernel] }

/-- A record of a scratchpad endpoint: `n` elements of 32 bits from an offset. -/
def spadRec (off n : Nat) : Wide := record [(448, 2 ^ 60 + off), (72, 1), (256, n), (288, 1), (320, 1), (352, 1), (128, 1)]

/-- A record of a ring of `cap` words at an offset. -/
def ringRec (off cap : Nat) : Wide := record [(448, 2 ^ 60 + off), (72, 1), (76, 4), (80, cap)]

theorem witness_step_views :
    (let s := withKernel id; s.kernelOf 0 false = some aKernel ∧ aKernel.stepdep = false)
    ∧ (let k : Kernel := { aKernel with record := record [(150, 1)], stepView := 7 }
       let s := withKernel fun _ => k
       s.kernelOf 0 false = some k ∧ k.stepdep = true ∧ (after s (exec (.stepr 3) s)).me.inflight.map (·.kind) = [.reg (.x 3) 7#512 allBits]) := by decide +kernel

theorem witness_stream_commands :
    (let s := withRec [(1, spadRec 0x100 4), (2, spadRec 0x200 4)]
     (s.latch 1 2).2.latchFault .smov (s.latch 1 2).1 = none ∧ s.me.cmdq.length < 64 ∧ s.cur.tile < 480)
    ∧ (let s := withRec [(1, spadRec 0x100 4), (2, spadRec 0x200 5)]
       (s.latch 1 2).2.latchFault .smov (s.latch 1 2).1 = some (.segmentMismatch, 0#64))
    ∧ (let s := (withRec [(1, spadRec 0x100 4), (2, spadRec 0x200 4)]).onMe fun c => { c with cmdq := List.replicate 64 ⟨0, .tdsync 0 1, []⟩ }
       ¬ s.me.cmdq.length < 64)
    ∧ (let s := withRec [(1, spadRec 0x100 4), (2, ringRec 0x1000 8)]
       (s.latch 1 2).2.latchFault .sring (s.latch 1 2).1 = none ∧ s.me.rings.length < 8
         ∧ ({ s.me with rings := [⟨BitVec.ofNat 64 (2 ^ 60 + 0x1000), 9, 0, 0⟩] } : TileCtx).rings.find? (·.base == wBase (s.w 2))
           = some ⟨BitVec.ofNat 64 (2 ^ 60 + 0x1000), 9, 0, 0⟩ ∧ wAux (s.w 2) = 8) := by decide +kernel

theorem witness_tokens :
    (let s := withReg [(1, BitVec.ofNat 64 (2 * 2 ^ 60 + 480 * 2 ^ 41))]; (s.x 1).toNat / 2 ^ 60 = 2 ∧ 480 ≤ (s.x 1).toNat / 2 ^ 41 % 2 ^ 9)
    ∧ (let s := withReg [(1, BitVec.ofNat 64 (2 * 2 ^ 60 + 1 * 2 ^ 41))]
       (s.x 1).toNat / 2 ^ 50 % 2 ^ 10 = s.rank ∧ (s.groupOf 0 false).any (fun g => !g.has 1) = true)
    ∧ (let s := withReg [(1, BitVec.ofNat 64 (2 * 2 ^ 60))]
       (s.x 1).toNat / 2 ^ 41 % 2 ^ 9 = 0 ∧ (s.groupOf 0 false).any (·.has 0) = true ∧ s.me.cmdq.length < 64)
    ∧ (let s := { withReg [(1, BitVec.ofNat 64 (2 * 2 ^ 60 + 2 ^ 50))] with crown.kernels := [{ aKernel with ticket := some 4 }] }
       (s.x 1).toNat / 2 ^ 50 % 2 ^ 10 ≠ s.rank ∧ (s.kernelOf 0 false).any (·.ticket.isSome) = true)
    ∧ (let s := withReg [(1, BitVec.ofNat 64 (2 * 2 ^ 60 + 2 ^ 50))]
       (s.kernelOf 0 false).any (·.ticket.isSome) = false
         ∧ (after s (exec (.tok 5 1 1#12) s)).me.cmdq.map (·.kind) = [.tok 0 (some 1) 5 1])
    ∧ (let s := withReg [(1, BitVec.ofNat 64 (2 ^ 60))]; (s.x 1).toNat / 2 ^ 60 = 1) := by decide +kernel

/-- Matrix records: operands of one beat at offsets. -/
theorem witness_matrix_commands :
    (let a := record [(448, 2 ^ 60 + 0x1000), (336, 0)]
     mxFault true [] = none ∧ mxFault false [mxOperand a] = some (.walkInvalid, 0#64))
    ∧ (let r : MxRole := ⟨BitVec.ofNat 512 (2 ^ 508), true, 64, some (0, 64)⟩
       let far : MxRole := { r with range := some (0, 0x1E0001) }
       let odd : MxRole := { r with w := BitVec.ofNat 512 (2 ^ 508 + 4 * 2 ^ 448) }
       let bad : MxRole := { r with w := 0#512 }
       mxFault true [r] = none ∧ ptrSpace (wBase r.w) = 1 ∧ ptrOff (wBase r.w) % r.align = 0 ∧ mxFault true [r, far] = some (.permission, wBase far.w)
         ∧ mxFault true [far, odd] = some (.misaligned, wBase odd.w) ∧ mxFault true [odd, bad] = some (.spaceInvalid, 0#64)
         ∧ mxFault true [bad, { r with ok := false }] = some (.walkInvalid, 0#64)) := by decide +kernel

/-- A MAP unit 0 that copies in port 0 to out port 0. -/
def mapRec : Wide := record [(31, 1), (0, 1), (64, 8)]

/-- With the Canopy of tile 0 changed. -/
def withCn (f : Canopy → Canopy) : State := base.onCn 0 f

/-- A whorl of row 0 in context 0, armed. -/
def aWhorl : Whorl := ⟨9, 0, 1#4, [(0, 0)], 0, 0, 0, 0, [(0, ⟨[], Lanes.none, 0, 0#32, 0#32, Past.none⟩)], [], [], false, 0, 0⟩

/-- That whorl with its unit enabled. -/
def armedCn (n : Canopy) : Canopy := { n with recs := vmod n.recs 0 (·.set 0 mapRec), whorls := [aWhorl] }

theorem witness_configuration :
    (let s := withReg [(1, BitVec.ofNat 64 (2 ^ 60 + 0x1E0000 - 512))]
     let cn := (s.tile 0).cn
     (s.wordTarget 1 0).toOption = some (0x1E0000 - 512) ∧ cn.armedIn 0 1#4 = false ∧ cn.port false = none ∧ (rowsOf 1#4).length = 1
       ∧ (adjoint (cn.enabled 0 1#4)).isSome = true ∧ (∀ w ∈ cn.whorls, rEn (cn.recOf 20 w.ctx) = false))
    ∧ kindOf 20 = .table ∧ kindOf 0 ≠ .table
    ∧ (let s := withReg [(1, BitVec.ofNat 64 (2 ^ 60))]; (s.wordTarget 1 0).toOption = some 0)
    ∧ (let s := withCn armedCn; (s.tile 0).cn.armedIn 0 1#4 = true ∧ (adjoint ((s.tile 0).cn.enabled 0 1#4)).isSome = true)
    ∧ (adjoint [(31, record [(31, 1)])]).isNone = true
    ∧ ((withCn fun n => n.setPort false (some ⟨0, 0, 0, 0, .cld, 0, 1#4, 0, [], none⟩)).tile 0).cn.port false ≠ none
    ∧ (let s := withCn fun n => { n with recs := vmod n.recs 20 (·.set 0 (record [(31, 1)])), whorls := [{ aWhorl with rows := 4#4 }] }
       ∃ w ∈ (s.tile 0).cn.whorls, w.rows.getLsbD (20 / 8) = true ∧ rEn ((s.tile 0).cn.recOf 20 w.ctx) = true) := by decide +kernel

theorem witness_parameters :
    (let s := withReg [(1, 1), (2, 0x800), (3, 2)]
     (s.x 1).getLsbD 11 = false ∧ (s.x 2).getLsbD 11 = true ∧ (s.tile 0).cn.whorls = [] ∧ (0 : Nat) < (kindOf 0).params ∧ (kindOf 0).params ≤ 2
       ∧ recordSound 0 (setField ((s.tile 0).cn.recOf 0 0) 159 128 1) = true)
    ∧ (let s := withCn fun n => { n with whorls := [{ aWhorl with rows := 3#4 }] }
       ∃ w ∈ (s.tile 0).cn.whorls, w.rows.getLsbD 0 = true ∧ 1 < (rowsOf w.rows).length ∧ ∃ q ∈ rowsOf w.rows, vget (s.tile 0).cn.mask q 0#12 ≠ 2#12)
    ∧ (let s := withCn fun n => { n with recs := vmod n.recs 22 (·.set 0 (record [(31, 1), (24, 9), (64, 8), (72, 9), (160, 100)])), whorls := [{ aWhorl with rows := 4#4 }] }
       let cn := (s.tile 0).cn
       kindOf 22 = .decay ∧ rEn (cn.recOf 22 0) = true ∧ cn.armedIn 0 (BitVec.ofNat 4 (2 ^ (22 / 8))) = true
         ∧ recordSound 22 (setField (cn.recOf 22 0) 223 192 1) = true ∧ (s.kernelOf 0 false).any (·.stepdep) = false) := by decide +kernel

theorem witness_barrier_instructions :
    (let s := withReg [(1, 0x10003), (2, 0)]
     (s.x 1).toNat % 2 ^ 12 ≠ 0 ∧ (s.x 2).toNat % 2 ^ 12 = 0 ∧ ¬ (s.me.bars[5]).out = 8 ∧ s.me.cmdq.length < 64 ∧ s.cur.tile < 480)
    ∧ (let s := core fun c => { c with bars := c.bars.set 5 ⟨0#16, 8, 0#16, false⟩ }; (s.me.bars[5]).out = 8)
    ∧ (let s := core fun c => { c with cmdq := List.replicate 64 ⟨0, .tdsync 0 1, []⟩ }; ¬ s.me.cmdq.length < 64) := by decide +kernel

theorem witness_escapes :
    (let s := { withReg [(1, BitVec.ofNat 64 (2 ^ 60 + 0x40)), (2, 5), (3, 2)] with crown.kernels := [aKernel] }
     (s.me.full = false ∧ s.me.handling = false) ∧ (s.groupOf 0 false).any (fun g => g.id == 1) = true ∧ s.kernelOf 0 false = some aKernel ∧ s.me.group = some 1 ∧ s.kernel 1 = some aKernel
       ∧ (s.wordTarget 1 (0 * 64)).toOption = some 0x40 ∧ (s.wordTarget 2 (0 * 64)).toOption = none ∧ (s.queue 5).st = .unbound)
    ∧ (let s := { base with crown.queues := vset base.crown.queues 5 { Queue.reset with st := .enabled } }
       (s.queue 5).st ≠ .unbound ∧ (s.groupOf 0 false).any (fun g => (s.queue 5).ctx == g.ctx) = true ∧ aKernel.ticket = none)
    ∧ (let k : Kernel := { aKernel with record := record [(150, 1)] }
       let s := { withReg [(1, 4096), (2, 4097)] with crown.kernels := [k] }
       k.stepdep = true ∧ (s.groupOf 0 false).any (fun g => decide (s.pendingAdvance g + (s.x 1).toNat % 2 ^ 32 ≤ 4096)
         && decide (4096 < s.pendingAdvance g + (s.x 2).toNat % 2 ^ 32)) = true) := by decide +kernel

/-! ### Witnesses: streams, queues, engines and barriers -/

/-- What loads and an atomic sample: scratchpad, shared scratchpad, the mailbox, a control register, a stopped group's image, and a bad word. -/
theorem witness_samples :
    let ld (l : Loc) (n : Nat) (sgn : Bool) (d : Dst) : Effect := ⟨3, 0, 0, 0, 0#6, false, .load l 0#64 n sgn d none⟩
    let got (s : State) (e : Effect) : Option Wide := ((s.sample readImage 0 false 0 e).1.write).map (·.2.1)
    let s := (base.writeLoc (.spad 0 64) [0x80#8, 1#8]).writeLoc (.shared 0 64) [7#8]
    let m := core fun c => { c with regs := { c.regs with mb := c.regs.mb.set 1 5#32 } }
    s.badLoc (.spad 0 64) 1 = false ∧ got s (ld (.spad 0 64) 2 false (.x 5)) = some 0x180#512
      ∧ (got s (ld (.spad 0 64) 1 true (.x 5))).map (·.setWidth 64) = some (BitVec.ofInt 64 (-128)) ∧ got s (ld (.shared 0 64) 64 false (.v 3)) = some 7#512
      ∧ got m (ld (.mailbox 4) 4 false (.x 5)) = some 5#512 ∧ 4 + 4 ≤ 64
      ∧ (let z := grouped (base.writeLoc (.spad 0 0x40) [9#8]) fun g => { g with st := .frozen }
         z.loadVal readImage 0 false (.readback 0 0x40) 8 = 9 ∧ z.badLoc (.readback 0 0x40) 8 = false)
      ∧ (let z := s.markBad (.spad 0 1)
         z.badLoc (.spad 0 64) 2 = true ∧ got z (ld (.spad 0 64) 2 false (.x 5)) = none
           ∧ ((z.sample readImage 0 false 0 (ld (.spad 0 64) 2 false (.x 5))).2.group 1).any (fun g => g.window.map (·.cause) == [.integrity]) = true)
      ∧ (let e : Effect := ⟨3, 0, 0, 0, 0#6, false, .load (.creg 0x008) 0#64 8 false (.x 5) none⟩
         let z := { core fun c => { c with inflight := [e] } with boot.rank := 2#10 }
         (z.tctx 0 false).inflight = [] ++ [e] ++ [] ∧ e.due = z.now 0 false + 3
           ∧ ((z.sampleCregs 0 false false).tctx 0 false).inflight.map (fun f => f.write.map (·.2.1)) = [some 1024#512])
      ∧ (let a (l : Loc) : Effect := ⟨3, 0, 0, 0, 0#6, false, .atomic l 0#64 .add false 9 3#64 0#64 none⟩
         (s.sample readImage 0 false 0 (a (.spad 0 64))).1.kind = .atomic (.spad 0 64) 0#64 .add false 9 3#64 0#64 (some 0x180#64)
           ∧ (s.sample readImage 0 false 0 (a (.shared 0 64))).1.kind = .atomic (.shared 0 64) 0#64 .add false 9 3#64 0#64 (some 7#64)) := by
  decide +kernel

/-- A stream of tile 0 on engine 0 that moves four elements. -/
def aStream : Stream :=
  { id := 7, tile := 0, urgent := false, group := 1, op := .smov, src := spadRec 0x100 4, dst := spadRec 0x200 4, srcT := none, dstT := none
    patchT := none, srcIdx := none, dstIdx := none, kdone := 61, mode := 1, iss := 0, ord := 0, engine := some 0
    srcCur := Cursor.start (spadRec 0x100 4) false, dstCur := Cursor.start (spadRec 0x200 4) false, total := some 4, readTo := 3
    readMore := [], buf := [⟨2, 0xAABBCCDD, none, [0], 0#8, none, false⟩], wroteTo := 2, wroteMore := [], pack := [], words := 0, segLeft := 0
    pre := none, readTok := false, tokens := [], req := [], unit := none, output := none, escape := none, staged := [], stagedRows := 0#8, marks := List.replicate 8 0
    away := false, run := none, views := [], foul := false, tags := 0#8
    spent := false, reqRows := [] }

/-- With a stream. -/
def withStream (x : Stream) : State := { base with traffic.streams := [x] }

theorem witness_stream_elements :
    let s := withStream aStream
    s.stream 7 = some aStream ∧ aStream.loose = true ∧ aStream.width = 32 ∧ s.blocked aStream 3 false = false ∧ aStream.hasRead 3 = false
      ∧ wEnd aStream.src = 1 ∧ ptrSpace (wBase aStream.src) = 1 ∧ s.busy = []
      ∧ (s.place aStream aStream.src 0 (wOffset aStream.src 32 (wAffine aStream.src 3)).1 4).toOption = some (.spad 0 0x10C)
      ∧ ((after s (exec (.streamElementTransfer 0 7 3 0 false) s)).stream 7).any (fun y => y.buf.map (·.n) == [2, 3]) = true
      ∧ aStream.buf.find? (·.n == 2) = some ⟨2, 0xAABBCCDD, none, [0], 0#8, none, false⟩ ∧ wMulticast aStream.dst = false ∧ s.blocked aStream 2 true = false
      ∧ (s.place aStream aStream.dst 0 (wOffset aStream.dst 32 (wAffine aStream.dst 2)).1 4).toOption = some (.spad 0 0x208)
      ∧ ((after s (exec (.streamElementTransfer 0 7 2 0 true) s)).tile 0).spad.get 0x208 = 0xDD#8 := by decide +kernel

/-- A stream that has read everything; one that has written everything; and one with a full ring word. -/
def readStream : Stream := { aStream with readTo := 4 }

/-- Everything read and written. -/
def doneStream : Stream := { readStream with buf := [], wroteTo := 4, readTok := true }

/-- A ring stream with a full word. -/
def ringStream : Stream := { aStream with op := .sring, dst := ringRec 0x1000 2, pack := List.replicate 16 5 }

theorem witness_stream_ends :
    (let x := readStream
     let s := withStream x
     x.mode = 1 ∧ x.readTok = false ∧ s.sourceOver x = true ∧ lands (after s (exec (.streamReadDone 0 7) s)) [(0, false, 62, 1, some 1)] = true)
    ∧ (let x := doneStream
       let s := withStream x
       s.allWritten x = true ∧ wNotify x.dst = false ∧ wEnd x.dst ≠ 3 ∧ 0 ∉ x.tokens
         ∧ lands (after s (exec (.streamComplete 0 7 0) s)) [(0, false, 61, 1, some 1)] = true ∧ (after s (exec (.streamComplete 0 7 0) s)).traffic.streams = [])
    ∧ (let x := ringStream
       let r : Ring := ⟨BitVec.ofNat 64 (2 ^ 60 + 0x1000), 2, 3, 2⟩
       let s := (withStream x).onCtx 0 false fun c => { c with rings := [r] }
       (s.tctx 0 false).rings.find? (·.base == wBase x.dst) = some r ∧ wPattern x.dst = 4 ∧ x.pack.length = 512 / x.width ∧ r.written - r.released < r.cap
         ∧ ((after s (exec (.ringWordWrite 0 7) s)).tile 0).spad.get 0x107C = 5#8) := by decide +kernel

/-- Streams that meet a word whose check value does not fit, with check and without, and one with bytes for the host. -/
theorem witness_stream_checks :
    let foul (x : Stream) : Stream := { x with buf := [⟨2, 0xAABBCCDD, none, [0], 0#8, none, true⟩] }
    (let x := foul { aStream with dst := aStream.dst ||| record [(55, 1)] }
     let s := withStream x
     x.checks = true ∧ s.stream 7 = some x ∧ s.blocked x 2 true = false
       ∧ (after s (exec (.streamElementTransfer 0 7 2 0 true) s)).traffic.faults.map (·.cause) = [.integrity])
    ∧ (let x := foul aStream
       let s := withStream x
       x.checks = false ∧ s.stream 7 = some x ∧ x.fillsWord 2 0x208 false = false ∧ ((after s (exec (.streamElementTransfer 0 7 2 0 true) s)).tile 0).spadBad = [])
    ∧ (let x := foul { aStream with src := spadRec 0x100 16, dst := spadRec 0x200 16, total := some 16 }
       let s := withStream x
       x.fillsWord 2 0x208 false = true ∧ ((after s (exec (.streamElementTransfer 0 7 2 0 true) s)).tile 0).spadBad = [8])
    ∧ (let x := { doneStream with dst := record [(448, 2 ^ 60), (72, 2), (256, 4), (288, 1), (320, 1), (352, 1), (128, 1)], away := true, run := some ⟨0, 64, [Piece.whole 1#8, Piece.whole 2#8], false, 0#8⟩, srcCur := { aStream.srcCur with fin := true } }
       let s := { withStream x with links.ports := base.links.ports.set 32 ⟨.up, 0, 4#3, 0#2⟩, crown.ctxs := vset base.crown.ctxs 0 { Ctxt.reset with hwBase := 0x1000#64, hwLim := 4096#64 } }
       s.stream 7 = some x ∧ s.sourceOver x = true ∧ x.buf = [] ∧ wEnd x.dst = 2 ∧ s.pcieUp = true ∧ s.streamHeld x = false
         ∧ (s.hostPlace x 64 2).toOption = some 0x1040
         ∧ (after s (exec (.streamComplete 0 7 0) s)).links.out = [.hostWrite 0x1040 [Piece.whole 1#8, Piece.whole 2#8]]) := by decide +kernel

/-- A stream that waits for an engine. -/
def queuedStream : Stream := { aStream with engine := none }

theorem witness_dispatch :
    (let x := queuedStream
     let c : QCmd := ⟨3, .stream 7 5, []⟩
     let s := (withStream x).onCtx 0 false fun y => { y with cmdq := [c], regs := { y.regs with k := y.regs.k.set 5 1#32 } }
     (s.tctx 0 false).cmdq.find? (s.readyCmd 0 false) = some c ∧ s.stream 7 = some x ∧ ((after s (exec (.cmdqDispatch 0 false) s)).tctx 0 false).regs.k[5] = 0#32)
    ∧ (let c : QCmd := ⟨3, .tok 0 none 5 2, []⟩
       let s := core fun y => { y with cmdq := [c] }
       (s.tctx 0 false).cmdq.find? (s.readyCmd 0 false) = some c)
    ∧ (let m : TokMsg := ⟨4, 0, 1, 0, false, 5, 2⟩
       let s := { base with traffic.toks := [m] }
       s.traffic.toks.find? (·.id == 4) = some m ∧ (s.tctx 0 false).group = some 1 ∧ lands (after s (exec (.tokDelivery 4) s)) [(0, false, 5, 2, some 1)] = true)
    ∧ (let r : Reload := ⟨4, 3, 1, 0, false, 0, 5⟩
       let s := { base with traffic.reloads := [r] }
       s.traffic.reloads.find? (·.id == 4) = some r ∧ (s.tctx 0 false).group = some 1
         ∧ lands (after s (exec (.tdsyncDone 4) s)) [(0, false, 5, 1, some 1)] = true)
    ∧ (let x := { aStream with op := .sdec }
       let s := withStream x
       s.traffic.streams.find? (fun x => x.op == .sdec && x.engine.isSome && x.unit.isNone) = some x ∧ (s.traffic.units[(0 : Fin 16)]).1 = none)
    ∧ (let f : FaultMsg := ⟨4, 1, 0, .pageFormat, 0#64⟩
       let s := { base with traffic.faults := [f] }
       s.traffic.faults.find? (·.id == 4) = some f ∧ (s.group 1).any (·.counts) = true) := by decide +kernel

theorem witness_matrix_start :
    let m : MCmd := ⟨8, 0, 0, 0, 0, 5, .mma .bf16 1, 0#512, 0#512, 1, false, none, [], [], 0, []⟩
    let s := base.onTile 0 fun t => { t with mx := { t.mx with cmds := [m] } }
    (s.groupOf 0 false).any (fun g => g.counts && g.cnt == m.start) = true ∧ (s.tile 0).mx.cmds.find? (fun c => c.id == 8 && !c.started) = some m
      ∧ (s.tctx 0 false).regs.k[m.kpre] = 0#32 ∧ (∀ c ∈ (s.tile 0).mx.cmds, c.id ≠ m.id → c.started = false)
      ∧ (let z := s.onCtx 0 false fun c => { c with regs := { c.regs with k := c.regs.k.set 5 1#32 } }
         (z.tctx 0 false).regs.k[m.kpre] ≠ 0#32 ∧ ((after z (exec (.engineCommandStart 0 8) z)).tile 0).mx.cmds.map (·.started) = [true]) := by decide +kernel

/-- A matrix command whose port another holds, and one whose counter is zero. -/
theorem witness_matrix_faults :
    let m : MCmd := ⟨8, 0, 0, 0, 0, 63, .mma .bf16 1, 0#512, 0#512, 1, false, none, [], [], 0, []⟩
    let o : MCmd := { m with id := 7, op := .ldacc 2, started := true }
    let s := base.onTile 0 fun t => { t with mx := { t.mx with cmds := [o, m] } }
    let z := after s (exec (.engineCommandStart 0 8) s)
    (s.tile 0).mx.cmds.find? (fun c => c.id == 8 && !c.started) = some m ∧ o.start ≤ m.start ∧ m.start < o.start + 64 ∧ (z.tile 0).mx.cmds = [o]
      ∧ (z.group 1).any (fun g => g.window.map (·.cause) == [.slotReuse]) = true
      ∧ (let s := base.onTile 0 fun t => { t with mx := { t.mx with cmds := [{ m with kpre := 5 }] } }
         (s.tctx 0 false).regs.k[(5 : Fin 64)] = 0#32
           ∧ ((after s (exec (.engineCommandStart 0 8) s)).group 1).any (fun g => g.window.map (fun r => (r.cause, r.info)) == [(.timingMiss, 5#64)]) = true) := by
  decide +kernel

/-- A cwhorl whose counter is zero, whose arming is taken, or whose rows hold no unit; a segment without a prefix; a whorl that is not over; a cdrain whose
rows still hold a word. -/
theorem witness_whorl_faults :
    let c : WCmd := ⟨9, 0, 0, 0, 0, 63, 0, 1#4⟩
    let causes (s : State) (i : Instr) : List Cause := ((after s (exec i s)).group 1).elim [] fun g => g.window.map (·.cause)
    let armed (n : Canopy) : Canopy := { n with recs := vmod n.recs 0 (·.set 0 mapRec), cmds := [c] }
    (let s := withCn fun n => { armed n with cmds := [{ c with kpre := 5 }] }
     (s.tctx 0 false).regs.k[(5 : Fin 64)] = 0#32 ∧ causes s (.engineCommandStart 0 9) = [.timingMiss])
    ∧ (let s := withCn fun n => { armed n with armed := some 0 }
       (s.tile 0).cn.armed = some s.gcyc.toNat ∧ causes s (.engineCommandStart 0 9) = [.slotReuse])
    ∧ (let s := withCn fun n => { n with cmds := [c] }
       s.armFault 0 0 1#4 = some .canopyConfig ∧ causes s (.engineCommandStart 0 9) = [.canopyConfig])
    ∧ (let s := { withCn (fun n => { armedCn n with inp := vset n.inp 0 [⟨⟨5#512, 0xFFFF#16⟩, none, 1, 0#8⟩] }) with gcyc := 2#64 }
       let us := (s.tile 0).cn.enabled 0 1#4
       (s.headWord 0 0).isSome = true ∧ s.firesNow 0 aWhorl = true
         ∧ (match segmentLen us (s.headWord 0) (liveValues us aWhorl true (s.headWord 0)) with
            | .error c => c == .segmentMismatch
            | .ok _ => false) = true
         ∧ ((after s (exec (.whorlFire 0 9) s)).tile 0).cn.whorls.map (·.dead) = [true])
    ∧ (let s := withCn armedCn; s.whorlOver 0 aWhorl = false ∧ ((after s (exec (.whorlDisarm 0 9) s)).tile 0).cn.whorls = [aWhorl])
    ∧ (let d : DrainReq := ⟨9, false, 1#4, 5, 0⟩
       let s := withCn fun n => { n with drains := [d], outp := vset n.outp 0 [⟨Lanes.none, none, 0, 1#8⟩] }
       tagged 1#8 false 1#4 = true ∧ (after s (exec (.cdrainToken 0 9) s)).tokIn.length = 0
         ∧ (let z := grouped (withCn fun n => { n with drains := [d] }) fun g => { g with st := .frozen }
            (z.groupOf 0 false).any (·.counts) = false ∧ z.rowsIdle 0 d = true ∧ lands (after z (exec (.cdrainToken 0 9) z)) [(0, false, 5, 1, some 1)] = true)) := by
  decide +kernel

theorem witness_whorls :
    (let c : WCmd := ⟨9, 0, 0, 0, 0, 63, 0, 1#4⟩
     let s := withCn fun n => { n with recs := vmod n.recs 0 (·.set 0 mapRec), cmds := [c] }
     let r := (s.onCn 0 fun n => { n with cmds := n.cmds.filter (·.id != c.id) }).onCn 0 fun n => { n with armed := some s.gcyc.toNat }
     (s.groupOf 0 (c.ctx == 11)).any (fun g => g.counts && g.cnt == c.start) = true ∧ (s.tile 0).cn.cmds.find? (·.id == c.id) = some c ∧ (s.tile 0).mx.cmds = []
       ∧ (s.tile 0).cn.armed = none ∧ r.armFault 0 0 1#4 = none ∧ ((after s (exec (.engineCommandStart 0 9) s)).tile 0).cn.whorls = [aWhorl])
    ∧ (let s := { withCn (fun n => { armedCn n with inp := vset n.inp 0 [⟨⟨5#512, 0xFFFF#16⟩, some 20, 1, 0#8⟩] }) with gcyc := 2#64 }
       let us := (s.tile 0).cn.enabled 0 1#4
       (s.tile 0).cn.whorls.find? (·.id == 9) = some aWhorl ∧ s.firesNow 0 aWhorl = true ∧ countUnits us = [] ∧ everyPorts us = [0] ∧ (s.headWord 0 0).isSome = true
         ∧ (outPorts us).map (·.1) = [0] ∧ (vget (s.tile 0).cn.outp 0 []).length + aWhorl.flight.length < 64
         ∧ (segmentLen us (s.headWord 0) (liveValues us aWhorl true (s.headWord 0))).toOption = some 20
         ∧ ((after s (exec (.whorlFire 0 9) s)).tile 0).cn.whorls.map (fun w => (w.fired, w.seg)) = [(1, 4)])
    ∧ (let s := withCn fun n => { armedCn n with fed := vset n.fed 0 1#2 }
       s.whorlOver 0 aWhorl = true ∧ ((after s (exec (.whorlDisarm 0 9) s)).tile 0).cn.whorls = [])
    ∧ (let d : DrainReq := ⟨9, false, 1#4, 5, 0⟩
       let s := grouped (withCn fun n => { n with drains := [d] }) fun g => { g with cnt := 1 }
       (s.tile 0).cn.drains.find? (·.id == 9) = some d ∧ (s.groupOf 0 false).any (fun g => g.counts && decide (d.iss < g.cnt)) = true ∧ s.rowsIdle 0 d = true
         ∧ lands (after s (exec (.cdrainToken 0 9) s)) [(0, false, 5, 1, some 1)] = true) := by decide +kernel

/-- With barrier 5 of die 0 and a request. -/
def withBarrier (x : Barrier) (l : List BReq) : State :=
  { base with crown.barriers := vset base.crown.barriers 5 x, crown.bReqs := l }

theorem witness_barriers :
    (let r : BReq := ⟨4, 0, 1, 0, false, 0, 5, some (2, true), 0, false⟩
     let s := withBarrier Barrier.reset [r]
     s.crown.bReqs.find? (·.id == 4) = some r ∧ (s.group 1).isSome = true ∧ s.mayLand r = true ∧ (s.barrier 0 5).st = .unbound ∧ (s.barrier 0 5).group = none
       ∧ ((after s (exec (.barrierRequestLand 4) s)).barrier 0 5).target = 2)
    ∧ (let r : BReq := ⟨4, 0, 1, 0, false, 0, 5, some (2, true), 0, false⟩
       let s := withBarrier ⟨.unarmed, false, some 1, 3#16, 0, 0, [], 0, (0, 0)⟩ [r]
       s.mayLand r = true ∧ (s.barrier 0 5).st = .unarmed ∧ (s.barrier 0 5).group = some 1 ∧ (s.barrier 0 5).held = [])
    ∧ (let r : BReq := ⟨4, 0, 1, 0, false, 0, 5, none, 2, false⟩
       let s := withBarrier ⟨.armed, false, some 1, 3#16, 2, 0, [], 0, (0, 0)⟩ [r]
       s.mayLand r = true ∧ (s.barrier 0 5).st = .armed ∧ (s.barrier 0 5).count + r.weight ≤ (s.barrier 0 5).target
         ∧ ((after s (exec (.barrierArrivalLand 4) s)).barrier 0 5).due = 8)
    ∧ (let s := grouped (withBarrier ⟨.draining, false, some 1, 3#16, 2, 2, [], 8, (0, 0)⟩ []) fun g => { g with cnt := 8 }
       (s.barrier 0 5).st = .draining ∧ (s.group 1).any (fun g => decide ((s.barrier 0 5).due ≤ g.cnt)) = true
         ∧ ((after s (exec (.barrierRelease 0 5) s)).barView 0 false 5).done = 4#16) := by decide +kernel

/-! ### Witnesses: groups, records and kernels -/

/-- A launch record of one tile with entry vector 0, class `cl`, in context 3, with its image at 0x2000. -/
def launchRec (cl : Nat) : Wide := record [(143, 1), (139, 1), (151, cl), (154, 3), (360, 0x2000), (400, 1000)]

/-- An image of one section with one entry, at 0x2000; a record at 0x1000. -/
def imageMem (cl : Nat) : Mem :=
  ((Mem.write [] 0x1000 (leBytes 64 (launchRec cl).toNat)).write 0x2000
    (leBytes 64 (record [(0, 0x4D4E4C42), (48, 1), (136, 1), (144, 1), (160, 1), (256, 0x40), (320, 0x80)]).toNat)).write 0x2040
    (leBytes 32 (2 ^ 193))

/-- Queue 5 of context 3 with one record, the Crown enabled and the context ready. -/
def queued (cl : Nat) (f : Queue → Queue) : State :=
  { base with
    hbm := imageMem cl
    boot.crownEn := true
    crown.queues := vset base.crown.queues 5 (f { Queue.reset with st := .enabled, en := true, ctx := 3, cap := 8, headSlot := 0x1000, tailSlot := 0x1040, tailSeq := 1#16 })
    crown.ctxs := vset base.crown.ctxs 3 { Ctxt.reset with st := .ready, next := 7#16, ct := 6#16 } }

theorem witness_records :
    (let s := queued 1 id
     s.considers 5 = true ∧ (s.queue 5).checked = false ∧ (s.headFault (s.headRecord 5) 3).isNone = true ∧ s.headRecord 5 = launchRec 1)
    ∧ (let s := queued 1 fun q => { q with checked := true }
       let p : Place := ⟨0, 0, 1⟩
       (s.readyRecord (false, 5)).isSome = true ∧ (groupAt (launchRec 1) 0 p).fits = true ∧ s.placeable (false, 5) (groupAt (launchRec 1) 0 p) = true
         ∧ (s.queue 5).ctx < 64) := by decide +kernel

/-- The queues of `queued`. -/
theorem queued_st (f : Queue → Queue) (hf : ∀ q, (f q).st = q.st) (i : Nat) : ((queued 1 f).queue i).st ≠ .stalled := by
  show (vget (vset (Vector.replicate 2048 Queue.reset) 5 _) i _).st ≠ _
  unfold vget vset
  split
  · simp only [Vector.getElem_setIfInBounds, Vector.getElem_replicate]
    split <;> simp [hf, Queue.reset]
  · simp [Queue.reset]

theorem witness_selection : let s := { queued 1 (fun q => { q with checked := true }) with crown.sels := [⟨false, 5, 0, ⟨0, 0, 1⟩⟩] }
    s.selected (false, 5) (launchRec 1) = true ∧ (s.readyRecord (false, 5)).isSome = true
      ∧ s.placeable (false, 5) (groupAt (launchRec 1) 0 ⟨0, 0, 1⟩) = true := by decide +kernel

theorem witness_no_queue_stalls (i : Nat) : ((queued 1 fun q => { q with checked := true }).queue i).st ≠ .stalled := by
  apply queued_st
  intro q
  rfl

theorem witness_retries :
    let k : Kernel := { aKernel with id := 40, st := .retry, record := launchRec 1, aborts := 2 }
    let s := { queued 1 id with crown.kernels := [k], crown.sels := [⟨true, 40, 0, ⟨0, 0, 1⟩⟩] }
    let p : Place := ⟨0, 0, 1⟩
    s.kernel 40 = some k ∧ (s.readyRecord (true, 40)).isSome = true ∧ s.selected (true, 40) (launchRec 1) = true
      ∧ s.placeable (true, 40) (groupAt (launchRec 1) 0 p) = true ∧ (after s (exec (.kernelDispatch true 40 p) s)).crown.kernels.map (·.st) = [.dispatching] := by
  decide +kernel

theorem witness_appends :
    let a : Append := ⟨launchRec 2, 1, 0, false, 5⟩
    let s := queued 1 fun q => { q with pushes := [.append a, .tail 0x10C0] }
    let z := after s (exec (.qlaunchAppend 5) s)
    (s.queue 5).pushes = [.append a, .tail 0x10C0] ∧ (s.queue 5).count < (s.queue 5).cap ∧ (s.queue 5).tailSlot / 64 % 64 + 1 ≠ 63
      ∧ (s.queue 5).tailSlot % 64 = 0 ∧ (z.queue 5).tailSeq = 2#16 ∧ (z.queue 5).pushes = [.tail 0x10C0]
      ∧ ((after z (exec (.qlaunchAppend 5) z)).queue 5).tailSeq = 3#16
      ∧ ((queued 1 fun q => { q with st := .stalled, pushes := [.append a] }).queue 5).st = .stalled
      ∧ (let f := queued 1 fun q => { q with cap := 1, pushes := [.append a] }; (f.queue 5).cap ≤ (f.queue 5).count)
      ∧ ((queued 1 fun q => { q with st := .unbound, pushes := [.append a] }).queue 5).st = .unbound := by decide +kernel

/-- A head that fails its checks, then waits for its record, then leaves; and a record that is not ready for a time. -/
theorem witness_heads :
    (let s := queued 7 id
     let z := after s (exec (.headConsider 5) s)
     s.considers 5 = true ∧ (s.queue 5).retiring = none ∧ s.headFault (s.headRecord 5) 3 = some .launchInvalid ∧ (z.queue 5).retiring = some .launchInvalid
       ∧ (z.ctxt 3).waiting.contains (queueRecord .launchInvalid 5 (z.queue 5).headSeq) = true ∧ z.considers 5 = true)
    ∧ (let s := queued 7 fun q => { q with retiring := some .launchInvalid }
       (s.ctxt 3).waiting.contains (queueRecord .launchInvalid 5 (s.queue 5).headSeq) = false ∧ fieldOf (s.headRecord 5) 127 88 = 0
         ∧ ((after s (exec (.headConsider 5) s)).queue 5).headSeq = 1#16)
    ∧ (let s := queued 1 id
       s.readyRecord (false, 5) = none ∧ (s.queue 5).st = .enabled ∧ (s.queue 5).en = true ∧ (s.queue 5).count ≠ 0) := by decide +kernel

theorem witness_alarms_and_placements :
    (let s := grouped (core fun c => { c with cr := { c.cr with cycalarm := 9#64 } }) fun g => { g with cnt := 9 }
     (s.groupOf 0 false).any (fun g => g.counts && g.cnt != 0 && (s.tctx 0 false).cr.cycalarm.toNat == g.cnt) = true ∧ (s.tctx 0 false).handling = false)
    ∧ (let n : Kernel := { aKernel with id := 40, st := .dispatching, record := launchRec 1, target := some ⟨0, 0, 1⟩ }
       let s := { base with hbm := imageMem 1, boot.crownEn := true, crown.kernels := [n] }
       let g := groupAt (launchRec 1) 40 ⟨0, 0, 1⟩
       s.groupReady 40 ⟨0, 0, 1⟩ false = some (n, g) ∧ g.tiles = [1]
         ∧ ((after s (exec (.groupPlace 40 ⟨0, 0, 1⟩) s)).tctx 1 false).group = some 40)
    ∧ (let n : Kernel := { aKernel with id := 40, st := .dispatching, record := launchRec 7, target := some ⟨0, 0, 0⟩ }
       let s := { base with hbm := imageMem 7, boot.crownEn := true, crown.kernels := [n] }
       let g := groupAt (launchRec 7) 40 ⟨0, 0, 0⟩
       s.groupReady 40 ⟨0, 0, 0⟩ true = some (n, g)
         ∧ (∀ h ∈ s.crown.groups, h.urgent = false → g.tiles.any h.holds = true →
            h.st = .running ∧ h.paused = false ∧ h.pauseAt = none ∧ h.saveSlot = none ∧ (s.kernel h.id).any (·.inPlace) = false)
         ∧ ((after s (exec (.urgentPause 40 ⟨0, 0, 0⟩) s)).group 1).any (fun h => h.pauseAt == some 8) = true) := by decide +kernel

/-- A record of every tile of the package, class 3. -/
def wholeRec : Wide := record [(147, 1), (143, 4), (151, 3), (400, 1000)]

/-- Context 0 with a save area of one frame, whose leaf stands at 0x1000 and whose frame at 2^26. -/
def saving (f : Group → Group) : State :=
  { grouped base f with
    hbm := Mem.write [] 0x1000 (leBytes 8 (2 ^ 63 + 2 ^ 62 + 2 ^ 61 + 2 ^ 26))
    crown.ctxs := vset base.crown.ctxs 0 { Ctxt.reset with st := .active, saveRoot := 0x1000, saveFrames := 1 } }

theorem witness_switches :
    (let s := { saving id with
      gcyc := 65536#64
      hbm := Mem.write [] 0x3000 (leBytes 64 wholeRec.toNat)
      crown.queues := vset base.crown.queues 5 { Queue.reset with headSlot := 0x3000 }
      crown.sels := [⟨false, 5, 0, ⟨0, 0, 0⟩⟩] }
     let enough (l : List Nat) : Bool := (placesOf wholeRec).any fun p =>
       ({ s with crown.groups := s.crown.groups.filter fun g => !l.contains g.id } : State).placeable (false, 5) (groupAt wholeRec 0 p)
     (s.crown.sels.find? fun z => !z.retry && z.n == 5).any (fun y => decide (y.since + 65536 ≤ s.gcyc.toNat)) = true ∧ s.headRecord 5 = wholeRec
       ∧ fieldOf wholeRec 153 151 = 3 ∧ (s.crown.groups.filter fun g => decide (s.classOf g < 3)).map (·.id) = [1] ∧ enough [1] = true ∧ enough [] = false
       ∧ ((after s (exec (.fullSwitch 5 [1]) s)).group 1).any (·.saveSlot == some 0) = true)
    ∧ (let s := saving id; (s.group 1).any (fun g => s.findSlots g == some 0) = true) := by decide +kernel

theorem witness_saves :
    let s := saving fun g => { g with st := .switching, saveSlot := some 0 }
    (s.group 1).any (fun x => x.saveSlot == some 0 && x.st == .switching && !x.paused && x.tiles == [0]) = true ∧ s.traffic.streams = [] ∧ s.tokIn = []
      ∧ (s.tile 0).cn.whorls = [] ∧ (State.slotWalks 0 true [0] s).1.toOption = some [2 ^ 26] ∧ ((after s (exec (.switchSaveDone 1) s)).group 1).any (·.st == .switchedOut) = true := by decide +kernel

/-- The state of tile 0 as a save put it away, with the header of its slot, its x5 and its next bundle. -/
def savedState : State :=
  let s := saving fun g => { g with st := .switchedOut, saveSlot := some 0, switchNo := 1 }
  { s with
    hbm := ((s.hbm.write (2 ^ 26 + 0x1E0000 + 8 * 5) [9#8]).write (2 ^ 26 + 0x1E0000 + 4800) [64#8]).write (2 ^ 26 + 0x3FFFC0)
      (leBytes 64 (2 ^ 32 + 0xFFFF * 2 ^ 16))
    crown.kernels := [{ aKernel with record := record [(360, 0x3000)] }]
    tiles := vmod s.tiles 0 fun x => { x with main := TileCtx.idle, power := .free 0 }
    saved := [⟨1, 0, entryCtx 1 false 64 0 (Vector.replicate 16 0#32), Canopy.entry, [], []⟩] }

theorem witness_restores :
    let s := savedState
    s.lacksFeature 0x3000 = false ∧ s.asleep 0 = false ∧ (s.kernel 1).any (fun k => k.st == .running && k.field 399 360 == 0x3000) = true
      ∧ (s.group 1).any (fun x => x.st == .switchedOut && x.tiles == [0] && (match State.slotWalks x.ctx false x.slots s with
          | (.ok as, s1) => as == [2 ^ 26] && s1.slotSound (s1.restoreSlots x as) x 0 (2 ^ 26)
          | _ => false)) = true
      ∧ (s.saved.find? fun y => y.group == 1 && y.tile == 0).isSome = true ∧ ((after s (exec (.restore 1) s)).tctx 0 false).flow.fetch.pc = 64
      ∧ ((after s (exec (.restore 1) s)).tctx 0 false).regs.x[5] = 9#64 := by decide +kernel

theorem witness_gating :
    (let s := { base with gcyc := 10000#64 }; (s.tile 479).power = .free 0 ∧ s.crown.kernels = [])
    ∧ (let p (x : Power) : State := { base.onTile 479 fun y => { y with power := x } with gcyc := 64#64 }
       ((p (.gating 64)).tile 479).power = .gating 64 ∧ ((p .gated).tile 479).power = .gated ∧ ((p (.waking 64)).tile 479).power = .waking 64
         ∧ ((after (p (.gating 64)) (exec (.gatingDone 479) (p (.gating 64)))).tile 479).power = .gated) := by decide +kernel

theorem witness_finishes :
    (let s := { core fun c => { c with flow := { c.flow with ended := some 3 } } with crown.kernels := [aKernel] }
     s.kernel 1 = some aKernel ∧ aKernel.ctx < 64 ∧ aKernel.st = .running ∧ aKernel.ticket = none ∧ aKernel.escapes = []
       ∧ fieldOf aKernel.record 127 88 = 0
       ∧ (s.group 1).any (fun g => g.st == .running && !g.paused && g.window.isEmpty && g.pend.isEmpty && g.tiles == [0] && !s.groupBusy g) = true
       ∧ (s.tctx 0 false).flow.ended.isSome = true
       ∧ s.appending 1 none = false ∧ (after s (exec (.kernelFinish 1) s)).crown.kernels = [])
    ∧ (let k := { aKernel with ticket := some 7 }
       let s := { core fun c => { c with flow := { c.flow with ended := some 3 } } with crown.kernels := [k] }
       s.kernel 1 = some k ∧ k.ticket.isSome = true) := by decide +kernel

theorem witness_commits :
    (let n := { aKernel with ticket := some 7, st := .finished, writes := [512], advance := 1 }
     let o := { aKernel with id := 2, ticket := some 8, reads := [512] }
     let s := { queued 1 id with crown.kernels := [n, o] }
     s.isNext n = true ∧ s.mayPass 3 = true ∧ s.kernel 2 = some o ∧ (∃ p ∈ n.writes, p ∈ o.reads)
       ∧ ((after s (exec (.commitPass 1) s)).kernel 2).any (fun y => y.cause == some .txConflict) = true ∧ ((after s (exec (.commitPass 1) s)).ctxt 3).ct = 7#16)
    ∧ (let s := { queued 1 id with crown.kernels := [] }
       (s.ctxt 3).liveTickets = 0 ∧ (let z := s.onCtxt 3 fun x => { x with next := 8#16 }
         (z.ctxt 3).liveTickets ≠ 0 ∧ z.mayPass 3 = true ∧ ((after z (exec (.abandonedTicketPass 3) z)).ctxt 3).ct = 7#16)) := by decide +kernel

/-- A ringed tensor of one ring group whose page list, and that of its ring array, stands at 0x4000. -/
def aTensor : TensorV :=
  let d : Wide := record [(31, 1), (29, 1), (304, 32), (336, 1), (368, 1), (400, 1), (264, 0x4000), (464, 1)]
  ⟨9, d, some d, none⟩

theorem witness_sweeps_and_escapes :
    (let e : Escape := ⟨6, 0, 0, 0, some (.launch 5 (launchRec 1) 9), false, false⟩
     let n := { aKernel with st := .committing, ticket := some 6, sweep := some ⟨[], 0, 0⟩, escapes := [e] }
     let s := { queued 1 id with crown.kernels := [n] }
     s.crown.kernels.find? (fun x => x.ctx == 3 && x.sweep.isSome) = some n
       ∧ (match s.runPass 3 6 (fun h st => sweepRule h 0 st) ⟨[], 0, 0⟩ with
          | (0, .ok _ _) => true
          | _ => false) = true
       ∧ ((after s (exec (.sweepDone 3) s)).kernel 1).any (fun k => k.sweep == none) = true)
    ∧ (let p : Pass := ⟨[aTensor], 0, 0⟩
       let n := { aKernel with st := .committing, ticket := some 6, sweep := some p }
       let s := { queued 1 id with crown.kernels := [n] }
       (match s.runPass 3 6 (fun h st => sweepRule h 0 st) p with
        | (0, .wait w) => w.isHeld (.pass 3)
        | _ => false) = true
         ∧ ((after s (exec (.sweepDone 3) s)).kernel 1).any (fun k => k.sweep == some p) = true)
    ∧ (let p : Pass := ⟨[aTensor], 0, 0⟩
       let n := { aKernel with st := .committing, ticket := some 6, sweep := some p }
       let s := { queued 1 id with hbm := Mem.write [] 0x4000 (leBytes 8 (2 ^ 63 + 1)), crown.kernels := [n] }
       (match s.runPass 3 6 (fun h st => sweepRule h 0 st) p with
        | (0, .fault .pageFormat _) => true
        | _ => false) = true
         ∧ ((after s (exec (.sweepDone 3) s)).ctxt 3).st = .faulted)
    ∧ (let e : Escape := ⟨6, 0, 0, 0, some (.launch 5 (launchRec 1) 9), false, false⟩
       let n := { aKernel with escapes := [e] }
       let s := { queued 1 id with crown.kernels := [n] }
       s.nextEscape n = some e ∧ (s.queue 5).st ≠ .unbound ∧ (s.queue 5).ctx = n.ctx
         ∧ ((after s (exec (.escapesPerformed 1) s)).queue 5).pushes.length = 1) := by decide +kernel

/-- A committed version of line 16 with ticket `n`, found through entry 0 of the page list at 0x4000. -/
def aVersion (n : Nat) (b : Byte) : Version := ⟨3, n, 16, List.replicate 256 b, n, ⟨9, 0x4000, 0x1000, false, 0x4000, 0x1000⟩, []⟩

/-- Two committed versions of line 16, the entry of its page as given, and the leaf of the context's pool. -/
def settling (entry : Nat) (l : List Hold) : State :=
  { queued 1 id with
    hbm := (Mem.write [] 0x4000 (leBytes 8 entry)).write 0 (leBytes 8 (2 ^ 63 + 2 ^ 62 + 2 ^ 61))
    roots.versions := [aVersion 4 7, aVersion 5 8]
    roots.holds := l }

theorem witness_versions :
    let own (s : State) (t : Nat) : Option Version := s.roots.versions.find? fun v => v.line == 16 && v.ticket == t && s.committed v
    let newest (s : State) : Option Version := (s.roots.versions.filter fun v => v.line == 16 && s.committed v).getLast?
    let went (s : State) : Reached := (s.walk (.settle 16) 9 0x4000 0x1000 true false).1
    (let s := settling (2 ^ 63 + 2 ^ 62 + 2 ^ 61) []
     own s 4 = some (aVersion 4 7) ∧ own s 5 = some (aVersion 5 8) ∧ newest s = some (aVersion 5 8) ∧ s.isHeld (.settle 16) = false
       ∧ went s = .spot ⟨9, 0x4000, 0x1000, false, 0x4000, 0x1000⟩ ∧ (after s (exec (.versionSettle 16 4) s)).roots.versions = [aVersion 5 8]
       ∧ (after s (exec (.versionSettle 16 5) s)).hbm.get 4097 = 8#8)
    ∧ (let s := settling 0 []
       own s 5 = newest s ∧ went s = .hold 0x4000 true
         ∧ (let z := after s (exec (.versionSettle 16 5) s); z.isHeld (.settle 16) = true ∧ own z 5 = newest z ∧ (own z 5).isSome = true))
    ∧ (let s := settling (2 ^ 63 + 2 ^ 62) []
       went s = .trap .pageWrite ∧ ((after s (exec (.versionSettle 16 5) s)).ctxt 3).st = .faulted)
    ∧ (let s := { settling (2 ^ 63 + 2 ^ 62 + 2 ^ 61) [] with hbm := Mem.write [] 0x4000 (leBytes 8 (2 ^ 63 + 2 ^ 62 + 2 ^ 61)) }
       let z := after s (exec (.versionSettle 16 5) s)
       (z.ctxt 3).st = .faulted ∧ (z.ctxt 3).waiting.map (·.cause) = [.translation]) := by decide +kernel

theorem witness_aborts :
    (let n := { aKernel with st := .aborting, cause := some .txConflict, ticket := some 7 }
     let s := { base with crown.kernels := [n], gcyc := 1#64 }
     s.kernel 1 = some n ∧ (s.group 1).any (·.st != .switchedOut) = true ∧ ((after s (exec (.kernelAbort 1) s)).group 1).any (·.st == .frozen) = true
       ∧ s.untold 3 1 = false ∧ n.abortAt < s.gcyc.toNat ∧ n.final .txConflict = false ∧ ((after s (exec (.abortDiscardDone 1) s)).kernel 1).any (fun k => k.st == .retry && k.aborts == 1) = true)
    ∧ (let n := { aKernel with ticket := some 7, wantsPlace := true }
       let s := { queued 1 id with crown.kernels := [n] }
       s.isNext n = true ∧ s.roots.versions = [] ∧ ((after s (exec (.writeInPlaceStart 1) s)).kernel 1).any (·.inPlace) = true)
    ∧ (let n := { aKernel with record := record [(400, 1000)] }
       let s := { base with crown.kernels := [n], gcyc := 1000#64 }
       s.gcyc.toNat = n.disp + fieldOf n.record 447 400 ∧ ((after s (exec (.budgetExpire 1) s)).kernel 1).any (·.cause == some .budget) = true)
    ∧ (let n := { aKernel with record := record [(400, 1000)], st := .aborting, cause := some .sapFull, abortAt := 1000 }
       let s := { base with crown.kernels := [n], gcyc := 1000#64 }
       s.gcyc.toNat = n.disp + fieldOf n.record 447 400 ∧ s.kernel 1 = some n
         ∧ ((after s (exec (.budgetExpire 1) s)).kernel 1).any (·.cause == some .budget) = true) := by decide +kernel

/-! ### Witnesses: the host and the platform -/

/-- A context record at 0x1000 whose page list stands at 0x1100. -/
def ctxMem (secure : Nat) : Mem :=
  (Mem.write [] 0x1000 (leBytes 64 (record [(0, secure), (456, 4), (416, 0x4000), (400, 64), (304, 0x1100), (288, 1)]).toNat)).write 0x1100
    (leBytes 8 (2 ^ 63 + 2 ^ 62))

/-- Context 3 in a state. -/
def inState (x : CtxtState) : State := { base with crown.ctxs := vset base.crown.ctxs 3 { Ctxt.reset with st := x, step := 9#48 } }

theorem witness_creates :
    (let s := { base with hbm := ctxMem 0 }
     let r : Wide := BitVec.ofNat 512 (s.viewNum 0x1000 64)
     s.boot.stage = 2#4 ∧ s.boot.ctxcmd.getLsbD 63 = false ∧ (s.ctxt 0).st = .free ∧ s.recordOk r = true ∧ r.getLsbD 0 = false ∧ s.recordOk 0#512 = false)
    ∧ (let s := { base with hbm := ctxMem 1 }
       let r : Wide := BitVec.ofNat 512 (s.viewNum 0x1000 64)
       s.recordOk r = true ∧ r.getLsbD 0 = true)
    ∧ (let s := { base with crown.ctxs := Vector.replicate 64 { Ctxt.reset with st := .ready } }; ∀ i, i < 64 → (s.ctxt i).st ≠ .free)
    ∧ ({ base with boot.ctxcmd := BitVec.ofNat 64 (2 ^ 63) } : State).boot.ctxcmd.getLsbD 63 = true := by decide +kernel

/-- Context 3 in a state, with the pass of a STEP_WRITE over tensors and the entry of their page as given. -/
def stepping (l : List TensorV) (entry : Nat) : State :=
  { inState .ready with
    hbm := Mem.write [] 0x4000 (leBytes 8 entry)
    crown.cwork := vset base.crown.cwork 3 ⟨some (8#48, ⟨l, 8, 0⟩), false, none, 0, []⟩ }

theorem witness_context_states :
    ((inState .building).ctxt 3).st = .building ∧ ((inState .ready).ctxt 3).st = .ready ∧ ((inState .active).ctxt 3).st = .active
      ∧ ((inState .quiescing).ctxt 3).st = .quiescing ∧ ((inState .destroyed).ctxt 3).st = .destroyed ∧ ((inState .faulted).ctxt 3).st = .faulted
      ∧ ((inState .free).ctxt 3).st = .free ∧ (inState .ready).crown.kernels = []
      ∧ 8#48 ≠ ((inState .ready).ctxt 3).step ∧ 9#48 = ((inState .ready).ctxt 3).step ∧ (∀ g ∈ (inState .destroyed).crown.groups, g.ctx ≠ 3)
      ∧ ((after (inState .destroyed) (exec (.destroyScrubDone 3) (inState .destroyed))).ctxt 3).st = .free
      ∧ (let s := { inState .active with crown.kernels := [aKernel] }
         s.kernel 1 = some aKernel ∧ aKernel.ctx = 3 ∧ ((after s (exec (.ctxKill ⟨3, 0x77#48⟩) s)).kernel 1).any (·.cause == some .kill) = true)
      ∧ (let s := stepping [] 0
         let rule := stepWriteRule (s.ctxt 3).step.toNat 8
         (vget s.crown.cwork 3 ⟨none, false, none, 0, []⟩).stepWrite = some (8#48, ⟨[], 8, 0⟩)
           ∧ (match s.runPass 3 0xFFFF rule ⟨[], 8, 0⟩ with
              | (0, .ok _ _) => true
              | _ => false) = true
           ∧ ((after s (exec (.stepWriteDone 3) s)).ctxt 3).step = 8#48)
      ∧ (let p : Pass := ⟨[aTensor], 8, 0⟩
         let went (s : State) : Nat × Acc Unit := s.runPass 3 0xFFFF (stepWriteRule (s.ctxt 3).step.toNat 8) p
         (match went (stepping [aTensor] 0) with
          | (0, .wait _) => true
          | _ => false) = true
           ∧ (match went (stepping [aTensor] (2 ^ 63 + 1)) with
              | (0, .fault .pageFormat _) => true
              | _ => false) = true
           ∧ (let s := stepping [aTensor] (2 ^ 63 + 1); let z := after s (exec (.stepWriteDone 3) s); (z.ctxt 3).st = .faulted ∧ (z.ctxt 3).step = 9#48))
      ∧ ({ base with boot.ctxcmd := BitVec.ofNat 64 (2 ^ 63) } : State).boot.ctxcmd.getLsbD 63 = true := by decide +kernel

/-- Queue 5 as given. -/
def queueAt (x : Queue) : State := { inState .ready with crown.queues := vset base.crown.queues 5 x }

theorem witness_queue_writes :
    (queueAt Queue.reset).queue 5 = Queue.reset ∧ Queue.reset.st = .unbound ∧ (2 ^ 32 : Nat) / 2 ^ 32 % 2 ^ 16 ≠ 0 ∧ (BitVec.ofNat 64 (2 ^ 32)).getLsbD 59 = false
      ∧ (let x : Queue := { Queue.reset with st := .enabled, ctx := 3, cap := 4, headSlot := 0x1000, tailSlot := 0x1000 }
         let s := queueAt x
         s.queue 5 = x ∧ (0#64).getLsbD 63 = false ∧ (s.ctxt x.ctx).st = .ready ∧ 0x1F80 / 64 % 64 ≠ 63 ∧ 0x1100 / 64 % 64 ≠ 63 ∧ x.count + (0x1100 - x.tailSlot) / 64 ≤ x.cap
           ∧ ((after s (exec (.qtailWrite 5 0x1100#64) s)).queue 5).tailSeq = 4#16)
      ∧ (let x : Queue := { Queue.reset with configured := true }
         let s := queueAt x
         (s.queue 5).configured = true ∧ s.linkOf 0x1000 = 0 ∧ 0x1040 % 4096 ≠ 0
           ∧ ((after s (exec (.qtailWrite 5 0x1000#64) s)).queue 5).st = .disabled)
      ∧ ((queueAt { Queue.reset with st := .disabled, ctx := 3 }).queue 5).st = .disabled ∧ (BitVec.ofNat 64 (2 ^ 63)).getLsbD 63 = true
      ∧ (0x5000#64).getLsbD 63 = false ∧ base.boot.segs.length < 65536 := by decide +kernel

/-- Queues with writes waiting, a tail at its link slot with and without a segment to go to, a stalled one, rejects, and a cap below the count. -/
theorem witness_tails :
    let x : Queue := { Queue.reset with st := .enabled, ctx := 3, cap := 4, headSlot := 0x1F40, tailSlot := 0x1F80, tailSeq := 1#16 }
    let s := queueAt x
    (let z := queueAt { x with pushes := [.tail 0x1FC0] }
     (z.queue 5).pushes ≠ [] ∧ ((after z (exec (.qtailWrite 5 0x1FC0#64) z)).queue 5).pushes.length = 2)
    ∧ (0x1FC0 / 64 % 64 = 63 ∧ s.linkOf 0x1FC0 = 0 ∧ s.boot.segs = [] ∧ x.tailSlot ≤ 0x1FC0 ∧ x.count + (0x1FC0 - x.tailSlot) / 64 ≤ x.cap
       ∧ (let z := after s (exec (.qtailWrite 5 0x1FC0#64) s)
          (z.queue 5).st = .stalled ∧ (z.ctxt 3).waiting.map (·.cause) = [.queueOverflow]
            ∧ (z.queue 5).tailSlot = 0x1FC0 ∧ (z.queue 5).count ≤ (z.queue 5).cap ∧ ((after z (exec (.qtailWrite 5 0x1FC0#64) z)).queue 5).rej = false))
    ∧ ((0x1F00 : Nat) < x.tailSlot ∧ ((after s (exec (.qtailWrite 5 0x1F00#64) s)).queue 5).rej = true)
    ∧ ((Queue.reset).configured = false ∧ ((after (queueAt Queue.reset) (exec (.qtailWrite 5 0x1000#64) (queueAt Queue.reset))).queue 5).rej = true)
    ∧ (let z := queueAt { x with st := .disabled, tailSeq := 3#16 }
       (z.queue 5).cap ≠ 0 ∧ ((after z (exec (.qcfgWrite 5 (BitVec.ofNat 64 (2 * 2 ^ 32))) z)).queue 5).cap = 4
         ∧ ((after z (exec (.qcfgWrite 5 (BitVec.ofNat 64 (3 * 2 ^ 32))) z)).queue 5).cap = 3) := by decide +kernel

theorem witness_full_pool : 65536 ≤ (List.replicate 65536 0x1000).length := Nat.le_of_eq List.length_replicate.symm

theorem witness_pages :
    (let s := { base with hbm := Mem.write [] 0x1000 (leBytes 8 (2 ^ 58)), boot.pgdata := BitVec.ofNat 64 (2 ^ 58) }
     entryBit (s.viewNum 0x1000 8) 63 = false ∧ linesOf 0x1000 8 = [16] ∧ s.roots.versions = [] ∧ 0x1000 + 8 ≤ hbmEnd
       ∧ (after s (exec (.pgAdclear 3 0x1000#48) s)).hbm.num 0x1000 8 = 0)
    ∧ (let h : Hold := ⟨3, some 6, .elem 7 0 false, 0x1000, false, false⟩
       let s := { base with roots.holds := [h] }
       (∃ h ∈ s.roots.holds, h.ctx = 3 ∧ h.fid = some 6 ∧ h.woken = false) ∧ base.roots.holds = []
         ∧ (after s (exec (.pgWake 3 6#48) s)).roots.holds.map (·.woken) = [true])
    ∧ (let r : TqRec := ⟨.txConflict, 0#64, 0, 7, 0x3FFFF, 0xFF, 0x1FF, true, false, 0⟩
       let x : Ctxt := { Ctxt.reset with st := .ready, trapBase := 0x4000, trapLen := 64, waiting := [r] }
       let s := { base with crown.ctxs := vset base.crown.ctxs 3 x }
       nextRecord (s.ctxt 3).room [] (s.ctxt 3).waiting = some (r, []) ∧ (s.ctxt 3).room ≠ 0
         ∧ ((after s (exec (.trapRecordWrite 3) s)).ctxt 3).tqTail = 1#16)
    ∧ (let r : TqRec := ⟨.txConflict, 0#64, 0, 7, 0x3FFFF, 0xFF, 0x1FF, true, false, 0⟩
       let x : Ctxt := { Ctxt.reset with st := .destroyed, trapLen := 64, tqTail := 63#16, waiting := [r] }
       x.room = 0 ∧ nextRecord x.room [] x.waiting = some (r, []) ∧ x.st = .destroyed)
    ∧ (let r : TqRec := ⟨.txConflict, 0#64, 0, 7, 0x3FFFF, 0xFF, 0x1FF, true, false, 0⟩
       let x : Ctxt := { Ctxt.reset with st := .active, trapLen := 64, tqTail := 63#16, waiting := [r] }
       let s := { base with crown.ctxs := vset base.crown.ctxs 3 x }
       (s.ctxt 3).room = 0 ∧ ((after s (exec (.trapRecordWrite 3) s)).ctxt 3).st = .faulted)
    ∧ (let w := 2 ^ 63 + 2 ^ 62 + 2 ^ 57
       let s := { base with hbm := Mem.write [] 0x1000 (leBytes 8 w) }
       entryBit (s.viewNum 0x1000 8) 63 = true ∧ entryBit (s.viewNum 0x1000 8) 62 = true ∧ entryBit (s.viewNum 0x1000 8) 57 = true
         ∧ entryBit s.boot.pgdata.toNat 63 = false ∧ (after s (exec (.pgUpdate 3 0x1000#48) s)).boot.pgcmd.toNat / 2 ^ 60 = 3)
    ∧ ({ base with boot.pgcmd := BitVec.ofNat 64 (2 ^ 63) } : State).boot.pgcmd.getLsbD 63 = true ∧ 0x1004 % 8 ≠ 0 := by decide +kernel

theorem witness_platform :
    State.reset.boot.inReset = true ∧ ({ State.reset with boot.inReset := false } : State).boot.stage = 0#4 ∧ base.boot.stage = 2#4
      ∧ (let s := { base with crown.kernels := [aKernel] }; s.kernel 1 = some aKernel ∧ aKernel.st = .running)
      ∧ 210 ≤ (0xFFF#12).toNat ∧ ¬ 190 ≤ (0#12).toNat ∧ base.boot.owner = none ∧ ({ base with boot.owner := some [] } : State).boot.owner ≠ none
      ∧ 0x1000 % 64 = 0 ∧ 0x1000 + 64 ≤ hbmEnd ∧ (∀ i : Fin 64, base.crown.ctxs[i].st = .free) ∧ (inState .ready).crown.ctxs[(3 : Fin 64)].st ≠ .free
      ∧ base.boot.crownEn = false ∧ (479#9).toNat < 480 ∧ base.boot.startGcy.toNat ≤ base.gcyc.toNat
      ∧ ({ base with boot.startGcy := 1#64 } : State).gcyc.toNat < ({ base with boot.startGcy := 1#64 } : State).boot.startGcy.toNat ∧ (0x1C#24).toNat % 8 ≠ 0
      ∧ (∃ g, base.group 1 = some g ∧ g.ctx = 0 ∧ g.st = .running ∧ g.paused = false ∧ g.tiles ≠ [])
      ∧ (let s := grouped base fun g => { g with st := .held }
         (s.crown.groups.find? fun g => g.ctx == 0 && g.st == .held && !g.paused && g.home == 0).isSome = true
           ∧ ((after s (exec (.mgmtResume 0 0#9) s)).group 1).any (fun g => g.st == .resuming 8) = true) := by
  refine ⟨?_, ?_, ?_, ?_, ?_, ?_, ?_, ?_, ?_, ?_, ?_, ?_, ?_, ?_, ?_, ?_, ?_, ⟨_, rfl, ?_⟩, ?_⟩ <;> decide +kernel

/-- A signature that verifies (the neutral key and point, by RFC 8032's own equation), as a secure create's record needs it. -/
theorem witness_security :
    let s := { base with hbm := ctxMem 1, boot.owner := some (1#8 :: List.replicate 56 0#8), boot.spin := 1#8 :: List.replicate 511 0#8, boot.spcmd := 0x8300000000001000#64 }
    s.boot.owner.any (fun key => edVerify key (shake256 (s.viewRead 0x1000 64 ++ leBytes 8 (s.boot.spseq.toNat + 1)) 64) (s.boot.spin.take 114)) = true
      ∧ s.boot.spcmd = BitVec.ofNat 64 (2 ^ 63 + (BitVec.ofNat 64 (3 * 2 ^ 56 + 0x1000)).toNat) := by
  decide +kernel

/-- A command of SPCMD starts, keeps it busy and then completes. -/
theorem witness_spcmd :
    let w := 0x0200000000000000#64
    let s := { base with boot.spbuf := 7#8 :: List.replicate 511 0#8 }
    let s1 := after s (exec (.registerWrite (.bar0 0x200080#24) w) s)
    let s2 := after s1 (exec .spOwner s1)
    s.boot.spcmd.getLsbD 63 = false ∧ s1.boot.spcmd = BitVec.ofNat 64 (2 ^ 63 + w.toNat) ∧ s1.boot.owner = none
      ∧ s2.boot.spcmd = w ∧ s2.boot.owner = some (7#8 :: List.replicate 56 0#8) ∧ s2.boot.spbuf = List.replicate 512 0#8 := by decide +kernel

theorem witness_firmware : ¬ (shake256 [] 32 = Config.fusedKeyHash ∧ edVerify [] (shake256 [] 64) [] = true) :=
  fun h => absurd h.2 (by decide +kernel)

/-- A sweep that meets an error, a word that flips, a debugger's write, and commands turned away. -/
theorem witness_errors :
    (let n := { aKernel with st := .committing, sweep := some ⟨[], 0, 0⟩ }
     let s := { inState .active with crown.kernels := [n] }
     s.kernel 1 = some n ∧ n.ctx < 64 ∧ (s.ctxt n.ctx).st = .active
       ∧ ((after s (exec (.storageError (.group 1) .integrity) s)).ctxt 3).waiting.map (·.cause) = [.sweepError])
    ∧ ((after base (exec (.storageError (.word (.spad 0 1) 1#512) .integrity) base)).tile 0).spadBad = [1]
    ∧ (let s := grouped base fun g => { g with st := .held }
       (s.groupOf 0 false).any (·.st == .held) = true
         ∧ ((after s (exec (.registerWrite (.debug 0 false 0x21) 0x43#64) s)).tctx 0 false).cr.bkpt = 0x40#64)
    ∧ (base.groupOf 0 false).any (·.st != .held) = true
    ∧ (base.crown.groups.find? fun g => g.ctx == 9 && g.st == .held && !g.paused && g.home == 0) = none
    ∧ (BitVec.ofNat 64 (2 ^ 63)).getLsbD 63 = true ∧ 0x1020 % 64 ≠ 0 ∧ (BitVec.ofNat 64 (15 * 2 ^ 56)).toNat / 2 ^ 56 % 16 = 15 := by decide +kernel

theorem witness_power : (if Config.isModule = true then 3200 else 3000) < (0xFFFF#16).toNat
    ∧ 11 * (if Config.isModule = true then 3200 else 3000) ≤ 10 * (0xFFFF#16).toNat ∧ ¬ (if Config.isModule = true then 3200 else 3000) < (0#16).toNat := by
  split <;> decide

/-- With the PCIe link and ports 0 and 2 up. -/
def linked : State :=
  let up : Port := ⟨.up, 0, 4#3, 0#2⟩
  { base with links.ports := ((base.links.ports.set 32 up).set 0 up).set 2 up }

theorem witness_requests :
    (let q : UalReq := ⟨0x40#48, 0#6, false, 5#10, 9#9, 0⟩
     linked.accepts q 8 = true ∧ linked.busy = [] ∧ linked.accepts q (2 ^ 21) = false ∧ (q.addr.toNat % 2 ^ 21) % 8 = 0
       ∧ (after linked (exec (.ualWriteRequest q [7#8, 8#8]) linked)).tiles[0].spad = [(0x40, 7#8), (0x41, 8#8)]
       ∧ (after linked (exec (.ualAtomicAdd q true 3#64) linked)).links.out = [.reply (leBytes 8 0)])
    ∧ (let q : UalReq := ⟨BitVec.ofNat 48 (2 ^ 46 + 5 * 8), 0#6, false, 5#10, 9#9, 0⟩
       (linked.reached q).isSome = true ∧ q.addr.toNat / 2 ^ 46 % 4 = 1 ∧ (leBytes 8 3).length = 8 ∧ q.addr.toNat % 2 ^ 21 < 2 ^ 9
         ∧ (after linked (exec (.tokenWindowWrite q (leBytes 8 3) 2) linked)).links.held.map (fun h => (h.counter.val, h.amount, h.count)) = [(5, 3, 2)])
    ∧ (linked.reached ⟨BitVec.ofNat 48 (480 * 2 ^ 37), 0#6, false, 5#10, 9#9, 0⟩) = none
    ∧ (let q : UalReq := ⟨0x40#48, 0#6, false, 5#10, 9#9, 0⟩
       let s := { linked with busy := [spadBank 0 0x40] }
       s.accepts q 8 = true ∧ (after s (exec (.ualReadRequest q 8) s)).refused = true)
    ∧ (let h : HeldToken := ⟨4, 5, 9, 0, 6, 2, 1, 1⟩
       let s := { linked with links.held := [h] }
       s.links.held.find? (·.id == 4) = some h ∧ s.appliedFrom 5 9 < h.count
         ∧ (let z := { s with links.applied := [(5, 9, 1)] }
            h.count ≤ z.appliedFrom 5 9 ∧ (z.tctx 0 false).group = some 1 ∧ lands (after z (exec (.remoteTokenLand 4) z)) [(0, false, 6, 2, some 1)] = true)) := by
  decide +kernel

theorem witness_responses :
    (let r : Request := ⟨4, none, some 1, 0, 0, 2, 0, 0, none⟩
     let s := { linked with links.reqs := [r], gcyc := BitVec.ofNat 64 (2 ^ 24) }
     s.request? 4 false = some r ∧ r.sent + 2 ^ 24 ≤ s.gcyc.toNat
       ∧ (let z := { linked with links.reqs := [r] }
          z.portUp r.port = true ∧ z.gcyc.toNat < r.sent + 2 ^ 24 ∧ (after z (exec (.remoteErrorResponse 4) z)).traffic.faults.map (·.cause) = [.remoteError])
       ∧ (let z := { base with links.reqs := [r] }; z.portUp r.port = false ∧ (after z (exec (.remoteErrorResponse 4) z)).links.reqs = [r]))
    ∧ (let r : Request := ⟨4, none, some 1, 0, 0, 32, 0, 0, none⟩
       ({ linked with links.reqs := [r] } : State).request? 4 true = some r ∧ linked.pcieUp = true ∧ base.pcieUp = false)
    ∧ (let x := { aStream with src := record [(448, 2 ^ 60), (72, 2), (256, 4), (288, 1), (320, 1), (352, 1), (128, 1)], req := [(4, 3, false)] }
       let r : Request := ⟨4, some 7, some 1, 0, 0, 32, 0, 0, none⟩
       let s := { withStream x with links := { linked.links with reqs := [r] } }
       r.stream = some x.id ∧ s.stream 7 = some x ∧ x.req.find? (·.1 == 4) = some (4, 3, false) ∧ x.loose = true ∧ x.width = 32 ∧ wEnd x.src = 2
         ∧ s.request? 4 true = some r
         ∧ ((after s (exec (.hostReadCompletion 4 true (List.replicate 64 5#8)) s)).stream 7).any (fun y => y.buf.map (·.n) == [2, 3]) = true) := by
  decide +kernel

theorem witness_links :
    let at_ (x : LinkState) : State := { base with links.ports := base.links.ports.set 3 ⟨x, 0xFFFF, 4#3, 0#2⟩ }
    ((at_ .down).links.ports[(3 : Fin 33)]).st = .down ∧ ((at_ .training).links.ports[(3 : Fin 33)]).st = .training
      ∧ ((at_ .up).links.ports[(3 : Fin 33)]).st = .up ∧ ((at_ .degraded).links.ports[(3 : Fin 33)]).st = .degraded
      ∧ ((at_ .error).links.ports[(3 : Fin 33)]).st = .error ∧ (4#3).toNat ≤ 4
      ∧ ((after (at_ .up) (exec (.linkError 3) (at_ .up))).links.ports[(3 : Fin 33)]).errs = 0xFFFF
      ∧ ((after (at_ .training) (exec (.linkTrained 3) (at_ .training))).links.ports[(3 : Fin 33)]).st = .up
      ∧ (3#3).toNat ≤ 4 ∧ ((after (at_ .training) (exec (.linkTrainedDegraded 3 3#3 0#2) (at_ .training))).links.ports[(3 : Fin 33)]).st = .degraded
      ∧ ((after (at_ .training) (exec (.linkTrainedDegraded 3 4#3 0#2) (at_ .training))).links.ports[(3 : Fin 33)]).st = .training := by decide +kernel

theorem witness_host_writes : (0x40#40).toNat + 64 ≤ hbmEnd ∧ (∀ i ∈ linesOf 0x40 64, (base.settleLine i).hbm = base.hbm) ∧ base.roots.versions = []
    ∧ linked.pcieUp = true ∧ (State.settleCopies (linesOf 0x40 2) linked).1 = .done ∧ linked.spannedBad 0x40 64 = false
    ∧ (after linked (exec (.hostBar2Write 0x40#40 [1#8, 2#8]) linked)).hbm = [(0x40, 1#8), (0x41, 2#8)]
    ∧ (let z := linked.markBad (.hbm 1); z.spannedBad 0x40 64 = true ∧ (after z (exec (.hostBar2Read 0x40#40 64) z)).links.out = [.errorReply]) := by decide +kernel

/-! ### Witnesses: decoding and the step -/

theorem witness_encodings : (Instr.vadd 1 2 3 3 .bf16).wellFormed = true ∧ encode (.vadd 1 2 3 3 .bf16) = some 0x600420D9 ∧ encode (.barrierRelease 0 0) = none := by
  decide

/-- The steps of a bundle: its slot decoded, its traps none, and the next clock edge. -/
theorem witness_steps :
    (let s := State.reset.withFetchWord 31 0x070C0005
     s.work = [.issue 0 false 0] ∧ s.issues 0 false = true ∧ (s.bundle 0 false).toOption = some [.addi 3 0 5#12]
       ∧ ((after s (step s)).tctx 0 false).inflight.map (fun e => (e.due, e.kind)) = [(1, .reg (.x 3) 5#512 allBits)])
    ∧ (let s := State.reset.withFetchWord 31 1
       (s.bundle 0 false).toOption = none ∧ ((after s (step s)).group 1).any (fun g => g.window.map (·.cause) == [.illegalOp]) = true)
    ∧ (let s := { base with work := [] }
       s.boot.stage = 2#4 ∧ s.boot.startArmed = false ∧ (after s (step s)).gcyc = 1#64 ∧ ((after s (step s)).group 1).any (·.cnt == 1) = true)
    ∧ State.reset.boot.stage ≠ 2#4 ∧ State.reset.work = [] := by decide +kernel

/-- A step whose bank request is turned away joins the line, and the first cycle of the Crown. -/
theorem witness_turned_away :
    (let q : UalReq := ⟨0x40#48, 0#6, false, 5#10, 9#9, 0⟩
     let s := { linked with work := [.event (.ualReadRequest q 8)], busy := [spadBank 0 0x40] }
     (after s (step s)).asks = [.ualReadRequest q 8] ∧ (after s (step s)).refused = false)
    ∧ (let s := { State.reset with boot.stage := 1#4 }; s.work = [] ∧ (after s (step s)).boot.stage = 2#4) := by decide +kernel

theorem witness_later_slots :
    let s : State := { base.onTile 0 (fun x => { x with imem := x.imem.write 0 (leBytes 8 (0x070C0005 + 0x87100000 * 2 ^ 32)) }) with work := [.issue 0 false 1] }
    decodeSlot (slotAt (s.tile 0).imem (s.cur.pc + 4 * 1)) = .ok (.addi 4 0 0#12) := rfl

/-- R399: a word of 64 zero bytes has check value 0x0000. -/
theorem test_check_value : checkValue (List.replicate 64 0#8) = 0#16 := by decide +kernel

/-- R280, R379, R391, R396: registers read as their field tables lay them out, by hand from the tables. -/
theorem test_registers :
    (Queue.qcfg ⟨.disabled, false, true, true, 5, 8, 0, 0#16, 0, 0#16, [], false, none, [], none⟩) = 0x1805000800000000#64
    ∧ (Port.portstat ⟨.degraded, 3, 2#3, 1#2⟩) = 0x0000000300000069#64
    ∧ State.reset.readBar0 0x200000 8 = some 0x7FF#64 ∧ State.reset.readBar0 0x10FFF8 8 = some 0#64 ∧ State.reset.readBar0 0x200004 8 = none
    ∧ State.reset.readBar0 0x200000 4 = none := by decide +kernel

/-- Reset meets the invariants, and so does a step from it (log 1, log 2). -/
theorem witness_invariants : State.reset.hbm.wf = true ∧ State.reset.shared[0].wf = true ∧ State.reset.tiles[479].spad.wf = true
    ∧ State.reset.tiles[479].imem.wf = true ∧ (match step State.reset with | .next _ => true | _ => false) = true := by decide +kernel

/-! ### Witnesses: values and landings -/

theorem witness_passing_accesses :
    let s := { core (fun c => { c with flow := { c.flow with aligned := true } }) with regions := vset base.regions 0 (some 1) }
    let t (p : Nat) : Option Loc := (s.target [1, 2, 3, 4, 5] .load false (BitVec.ofNat 64 p) 0 8).toOption.map (·.1)
    s.me.flow.aligned = true ∧ s.me.group = some 1 ∧ t (2 * 2 ^ 60 + 0x1DFFF8) = some (.spad 0 0x1DFFF8) ∧ t (2 * 2 ^ 60 + 0x1E0000) = none
      ∧ t (2 * 2 ^ 60 + 2 ^ 41) = none ∧ t (3 * 2 ^ 60 + 0x3FFFF8) = some (.shared 0 0x3FFFF8) ∧ t (3 * 2 ^ 60 + 0x400000) = none
      ∧ t (3 * 2 ^ 60 + 1) = none ∧ t (4 * 2 ^ 60 + 0x8000 + 8 * 8) = some (.creg 8) ∧ t (4 * 2 ^ 60 + 0x8000 + 8 * 3) = none := by decide +kernel

/-- Lane 0 of a gather samples eighteen cycles before it lands, lane 1 one later; a scatter's lanes fifteen before it is due (R61). -/
theorem witness_lane_accesses :
    (let e : Effect := ⟨20, 0, 0, 0, 0#6, false, .gather 0 3 [(0, 64), (1, 128)] [] [0, 1]⟩
     let s := base.writeLoc (.spad 0 128) [9#8]
     let got (now : Nat) : EKind := (s.sample readImage 0 false now e).1.kind
     got 2 = .gather 0 3 [(0, 64), (1, 128)] [(0, 0#32)] [0, 1] ∧ got 3 = .gather 0 3 [(0, 64), (1, 128)] [(1, 9#32)] [0, 1] ∧ got 4 = e.kind
       ∧ s.badLoc (.spad 0 128) 4 = false)
    ∧ (let e : Effect := ⟨20, 0, 0, 0, 0#6, false, .scatter 0 [(0, 64, 5#32), (1, 128, 6#32)] [0, 1]⟩
       ((base.performWrite 0 false 6 e).tile 0).spad = [(128, 6#8)] ∧ ((base.performWrite 0 false 7 e).tile 0).spad = [])
    ∧ (let e : Effect := ⟨2, 7, 0, 0, 0#6, false, .store (.creg 0x010) 0#64 [0x40#8]⟩
       ((base.performWrite 0 false 2 e).tctx 0 false).acts = [⟨3, 7, 0, 0, .wrc 0x010 0x40#64⟩])
    ∧ (let e : Effect := ⟨5, 0, 0, 0, 0#6, false, .atomic (.shared 1 8) 0#64 .fadd false 9 0x7F800001#64 0#64 (some 0x3F800000#64)⟩
       let z := base.performWrite 0 false 4 e
       (vget z.shared 1 []).read 8 4 = [0#8, 0#8, 0xC0#8, 0x7F#8] ∧ (z.tctx 0 false).cr.fpstat = flNV) := by decide +kernel

theorem witness_float_lanes :
    fp32.val 0x3F800000 = .num false (2 ^ 23) (-23) ∧ fp32.val 0xFF800000 = .inf true ∧ laneFmt .bf16 = some bf16
      ∧ elemAdd .f32 0x3F800000 0x3F800000 = (0x40000000, 0#6) ∧ elemSub .f32 0x3F800000 0x3F800000 = (0, 0#6)
      ∧ elemAdd .f32 0x80000000 0x80000000 = (0x80000000, 0#6) ∧ elemAdd .f32 0x7F800000 0xFF800000 = (0x7FC00000, flNV)
      ∧ elemMul .f32 0x7F800000 0 = (0x7FC00000, flNV) ∧ elemMul .f32 0xC0000000 0x7F800000 = (0xFF800000, 0#6)
      ∧ elemFma .f32 0x3F800000 0x3F800000 0xBF800000 = (0, 0#6) ∧ elemFma .f32 0x7F800000 0x3F800000 0xFF800000 = (0x7FC00000, flNV)
      ∧ elemMul .bf16 0x7F81 0x3F80 = (0x7FC0, flNV) ∧ (fp32.val 0x7F800000).mul (fp32.val 0) = .nan true := by decide +kernel

theorem witness_float_order :
    elemCompare .f32 .lt 0xBF800000 0x3F800000 = (true, 0#6) ∧ elemCompare .f32 .eq 0x80000000 0 = (true, 0#6) ∧ elemCompare .f32 .le 0x7F800000 0x7F800000 = (true, 0#6)
      ∧ elemCompare .f32 .lt 0xFF800000 0 = (true, 0#6) ∧ elemCompare .f32 .lt 0x7F800000 0 = (false, 0#6)
      ∧ elemCompare .f32 .ne 0x7F800001 0 = (true, flNV) ∧ elemCompare .f32 .ne 0x7FC00000 0 = (true, 0#6) := by decide +kernel

/-- Sums that are exact before their one rounding: 2^24 + 1 + 1 rounds to 2^24 + 2. -/
theorem witness_float_sums :
    reduceAdd .f32 [0x4B800000, 0x3F800000, 0x3F800000] = (0x4B800001, 0#6) ∧ reduceAdd .f32 [0x7F800000, 0xFF800000] = (0x7FC00000, flNV)
      ∧ reduceAdd .f32 [0x7F800001] = (0x7FC00000, flNV) ∧ reduceAdd .f32 [0xFF800000, 0] = (0xFF800000, 0#6)
      ∧ reduceAdd .f32 [0x3F800000, 0xBF800000] = (0, 0#6) ∧ reduceAdd .z32 [0xFFFFFFFF, 1] = (2 ^ 32, 0#6)
      ∧ convert .f32 .s8 .rz false 0 0x43000000 = (127, flSAT) ∧ convert .f32 .z32 .rz false 0 0x7FC00000 = (0, flNV)
      ∧ convert .s8 .f32 .rne false 0 0xFF = (0xBF800000, 0#6) ∧ convert .s32 .s8 .rne false 0 0x180 = (0x80, 0#6) ∧ convert .s32 .s8 .rne true 0 0x180 = (0x7F, flSAT)
      ∧ convert .f32 .e4m3 .rne false 0 0x43F00000 = (0x7F, flOF ||| flNX) ∧ convert .f32 .e4m3 .rne true 0 0x43F00000 = (0x7E, flOF ||| flNX ||| flSAT) := by
  decide +kernel

theorem witness_formats :
    e4m3.val 0x7F = .nan false ∧ e5m2.val 0x7C = .inf false ∧ e2m1.val 7 = .num false 3 1 ∧ fp16.val 1 = .num false 1 (-24)
      ∧ e2m1.round .rne false 0 (.num false 100 0) = (7, flOF ||| flNX ||| flSAT) ∧ fp32.round .rne false 0 (.num true 0 5) = (0x80000000, 0#6)
      ∧ fp32.round .rz false 0 (.num false 1 (-150)) = (0, flNX) ∧ fp32.round .rne false 0 (.num false 3 (-150)) = (2, flNX ||| flUF) := by decide +kernel

theorem witness_late_reads :
    let s (r : LateRead) : State := (base.onTile 0 fun t => { t with mx := { t.mx with
        cmds := [⟨8, 0, 0, 0, 3, 63, .ldacc 1, 0#512, 0#512, 0, true, none, [], [], 0, []⟩], tag := t.mx.tag.set 1 5#3 } }).onMe fun c =>
      { c with acts := [⟨0, 4, 0, 0, .fill r⟩], inflight := [⟨2, 4, 0, 0, 0#6, false, .reg (.x 5) 0#512 allBits⟩] }
    let got (r : LateRead) : List EKind := (((s r).fillReads 0 false).tctx 0 false).inflight.map (·.kind)
    (s (.mstat 0)).now 0 false = 0 ∧ got (.mstat 0) = [.reg (.x 5) 67#512 allBits] ∧ got (.mstat 2) = [.reg (.x 5) 0#512 allBits]
      ∧ got (.mstat 3) = [.reg (.x 5) 0x50#512 allBits] ∧ got (.amr 1 2) = [.reg (.x 5) 0#512 allBits] := by decide +kernel

theorem witness_releases :
    let r : Ring := ⟨BitVec.ofNat 64 (2 ^ 60 + 0x1000), 2, 3, 2⟩
    let s := core fun c => { c with rings := [r] }
    let b := 2 ^ 60 + 0x1000
    ((s.releaseRing 0 false b 1 0 0).me.rings = [{ r with released := 3 }]) ∧ (s.releaseRing 0 false b 2 0 0).me.rings = [r]
      ∧ ((s.releaseRing 0 false b 2 0 0).group 1).any (fun g => g.window.map (·.cause) == [.ringRelease]) = true
      ∧ ((s.releaseRing 0 false 0 0 0 0).group 1).any (fun g => g.window.map (·.cause) == [.ringRelease]) = true := by decide +kernel

/-- An escape record of two bytes for the host window (R312), captured by a kernel, and what happens at the bound of 1,024. -/
theorem witness_captures :
    let e : Escape := ⟨6, 0, 0, 0, none, false, false⟩
    let sound (s : State) : Bool := s.badLoc (.spad 0 0) 64 == false && (s.tctx 0 false).watches (ptrOwn 0) true false == false
    let at_ (k : Kernel) (r : List Byte) : State :=
      { base.writeLoc (.spad 0 0) r with crown.kernels := [k], crown.ctxs := vset base.crown.ctxs 3 { Ctxt.reset with hwLim := 4096#64 } }
    let s := at_ { aKernel with escapes := [e] } (leBytes 64 (6 * 2 ^ 60 + 0x40 + 2 * 2 ^ 64 + 0xBBAA * 2 ^ 128))
    let act (k : ActKind) : Act := ⟨2, 0, 0, 0, k⟩
    let esc := act (.esc 0 (ptrOwn 0) 6)
    let q := act (.qlaunch 5 9 0 6)
    let kernel (z : State) : Kernel := (z.kernel 1).getD aKernel
    sound s = true ∧ s.kernelOf 0 false = some { aKernel with escapes := [e] }
      ∧ (kernel (s.sampleAct 0 false (act (.stepadv 7#64)))).advance = 7
      ∧ (kernel (s.handOver 0 false 6 (.post 5#64 [1#8]))).escapes = [{ e with what := some (.post 5#64 [1#8]) }]
      ∧ (let z := at_ { aKernel with escapes := [e], ticket := some 4 } []
         lands (z.sampleAct 0 false q) [(0, false, 9, 1, some 1)] = true ∧ (kernel (z.sampleAct 0 false q)).escapes.map (·.what) = [some (.launch 5 0#512 9)])
      ∧ (let z := at_ { aKernel with escapes := [e] } (leBytes 64 (49 * 2 ^ 64))
         (kernel (z.sampleAct 0 false esc)).escapes = [] ∧ ((z.sampleAct 0 false esc).group 1).any (fun g => g.window.map (·.cause) == [.escInvalid]) = true)
      ∧ (let z := s.markBad (.spad 0 0); sound z = false ∧ (kernel (z.sampleAct 0 false esc)).escapes = []) := by decide +kernel

theorem witness_lone_matrix_command :
    let s (c : MCmd) : State := base.onTile 0 fun t => { t with mx := { t.mx with cmds := [c], acc := t.mx.acc.set 1 (t.mx.acc[1].set 65 7#32) } }
    let c : MCmd := ⟨8, 0, 0, 0, 3, 63, .zacc 1, 0#512, 0#512, 0, true, none, [], [], 0, []⟩
    let acc (z : State) : Nat := (vget (z.tile 0).mx.acc[(1 : Fin 4)] 65 0#32).toNat
    acc ((s c).waveMatrix 0 8) = 7 ∧ acc ((s c).waveMatrix 0 9) = 0 ∧ (c.feed [] 3).inA = []
      ∧ mmaBeat .bf16 0x3F800000 [0x80#8, 0x3F#8] [0#8, 0x40#8] 0 0 = (0x40400000, 0#6)
      ∧ (let m : MCmd := { c with op := .mma .bf16 1, n := 1, wa := spadRec 0 1, wb := spadRec 128 1 }
         (m.feed (Mem.write [] 128 [9#8]) 3).inB.map (·.take 1) = [[9#8]] ∧ (m.feed [] 4) = m) := by decide +kernel

theorem witness_config_landings :
    (let x : CfgCmd := ⟨0, 0, 0, 5, .cld, 0, 1#4, 0x40, mapRec :: List.replicate 7 0#512, none⟩
     let s := withCn fun n => n.setPort false (some x)
     let z := s.landConfig 0 false 14
     (s.tile 0).cn.port false = some x ∧ 14 = x.iss + 8 + 1 ∧ ((s.landConfig 0 false 13).tile 0).cn.recOf 0 0 = 0#512 ∧ (z.tile 0).cn.recOf 0 0 = mapRec ∧ (z.tile 0).cn.recOf 8 0 = 0#512)
    ∧ (let x : CfgCmd := ⟨0, 0, 0, 5, .cst, 0, 1#4, 0x40, List.replicate 8 3#512, none⟩
       let s := withCn fun n => n.setPort false (some x)
       ((s.configMove 0 false 6).tile 0).spad = [(0x40, 3#8)] ∧ ((s.configMove 0 false 13).tile 0).cn.port false = none)
    ∧ (let s := base.landParam 0 ⟨1, 0, 0, 0, .cparam 0 0 11 0xFFFFFFFF#32⟩
       (s.tile 0).cn.recOf 0 0 = setField 0#512 511 480 0xFFFFFFFF ∧ (s.tile 0).cn.recOf 0 1 = 0#512)
    ∧ (vget ((base.landParam 0 ⟨1, 0, 0, 0, .cctx 3 0xF7FF#64⟩).tile 0).cn.mask 3 0#12) = 0x7FF#12 := by decide +kernel

/-- Units by hand: MAP adds lanes that both inputs have; RAND's word has the segment's lanes active and every lane a value (log 93). -/
theorem witness_units :
    let l (v : Nat) (a : BitVec 16) : Lanes := ⟨BitVec.ofNat 512 v, a⟩
    let f : Firing := ⟨0, 0, true, true, 3, 3, [(2, l 5 1#16)], [], [⟨4, l 6 1#16, l 7 1#16⟩], []⟩
    let st : UState := ⟨[], Lanes.none, 0, 0#32, 0#32, Past.none⟩
    let x (k : Kind) (r : Wide) : UnitIn := ⟨k, 0, r, l (5 + 9 * 2 ^ 32) 3#16, l 2 1#16, Lanes.none, true, 0, Vector.replicate 13 0#512⟩
    (unitInput (record [(64, 0x0A)]) f 0).1 = l 5 1#16 ∧ (unitInput (record [(64, 0x44)]) f 0).1 = l 7 1#16 ∧ (unitInput (record [(64, 0x0B)]) f 0).2 = false
      ∧ ((x .map (record [(8, 0x41)])).eval f st).o0 = l 7 1#16 ∧ ((x .split (record [(8, 2)])).eval f st).o0 = l (5 + 9 * 2 ^ 32) 3#16
      ∧ ((x .rand 0#512).eval f st).o0.act = 7#16 ∧ (mxqOut (record [(8, 6)]) (l 0xC0000000 1#16) Lanes.none (List.replicate 16 0) false true).2.1 = l 0x40000000 1#16
      ∧ (let s := { withCn (fun n => { armedCn n with whorls := [{ aWhorl with flight := [f] }] }) with gcyc := 0#64 }
         let us := (s.tile 0).cn.enabled 0 1#4
         f.at_ + aWhorl.lambda us ≠ s.gcyc.toNat ∧ (outPorts us).map (·.1) = [0] ∧ f.at_ + aWhorl.depthOf 0 = s.gcyc.toNat ∧ us = [(0, mapRec)]
           ∧ (s.firing 0 9 0).isSome = true) := by decide +kernel

theorem witness_barrier_holds :
    let r : BReq := ⟨4, 0, 1, 0, false, 0, 5, none, 2, false⟩
    let arm : BReq := { r with arm := some (2, true) }
    let b (st : BState) (auto : Bool) (count : Nat) (held : List (Nat × Nat)) : Barrier := ⟨st, auto, some 1, 3#16, 2, count, held, 8, (0, 0)⟩
    let causes (s : State) (i : Instr) : List Cause := (after s (exec i s)).traffic.faults.map (·.cause)
    (let s := withBarrier (b .armed false 1 []) [arm]; s.mayLand arm = true ∧ causes s (.barrierRequestLand 4) = [.barrierState])
    ∧ (let s := withBarrier (b .armed true 0 []) [arm]; ((after s (exec (.barrierRequestLand 4) s)).barrier 0 5).st = .armed)
    ∧ (let s := withBarrier (b .unarmed true 0 [(0, 2)]) [arm]
       ((after s (exec (.barrierRequestLand 4) s)).barrier 0 5).st = .draining)
    ∧ (let s := withBarrier (b .armed false 1 []) [r]; s.mayLand r = true ∧ causes s (.barrierArrivalLand 4) = [.barrierState])
    ∧ (let s := withBarrier (b .draining true 2 []) [r]; ((after s (exec (.barrierArrivalLand 4) s)).barrier 0 5).held = [(0, 2)])
    ∧ (let s := withBarrier { b .armed true 0 [] with group := some 7 } [r]; causes s (.barrierArrivalLand 4) = [.barrierInvalid])
    ∧ (let s := grouped (withBarrier (b .draining true 2 [(0, 2)]) []) fun g => { g with cnt := 8 }
       ((after s (exec (.barrierRelease 0 5) s)).barrier 0 5).st = .draining ∧ ((after s (exec (.barrierRelease 0 5) s)).barrier 0 5).phase = 4#16)
    ∧ (let s := grouped (withBarrier (b .draining true 2 []) []) fun g => { g with cnt := 8 }
       ((after s (exec (.barrierRelease 0 5) s)).barrier 0 5).st = .rearmed) := by decide +kernel

/-- A row of 64 elements of FP32 whose page list stands at 0x4000 (R147, R366). -/
def rowTensor : TensorV := ⟨9, record [(31, 1), (304, 64), (336, 1), (368, 1), (400, 1), (264, 0x4000)], none, none⟩

theorem witness_tensor_elements :
    let w : Wide := record [(256, 4), (288, 1), (320, 1), (352, 1), (128, 1)]
    let x : Stream := { aStream with src := w, srcT := some rowTensor }
    let y : Stream := { aStream with dst := w, dstT := some rowTensor }
    let mapped (x : Stream) (entry : Nat) : State := { withStream x with hbm := (Mem.write [] 0x4000 (leBytes 8 entry)).write 12 [9#8] }
    let leaf := 2 ^ 63 + 2 ^ 62 + 2 ^ 61
    wEnd w = 0 ∧ x.loose = true ∧ y.loose = true ∧ inExtents rowTensor.desc false [64, 0, 0, 0] = false
      ∧ (let s := mapped x leaf
         let z := after s (exec (.streamElementTransfer 0 7 3 0 false) s)
         s.overlapped x (readsAt x.src rowTensor [3, 0, 0, 0]) false = false ∧ inExtents rowTensor.desc false (wCoords x.src (wAffine x.src 3)) = true
           ∧ (z.stream 7).any (fun y => y.buf.map (·.val) == [0xAABBCCDD, 9]) = true
           ∧ (match s.rootPlace x 3 rowTensor [3, 0, 0, 0] false false with
              | .ok p _ => p.1.phys == 12
              | _ => false) = true)
      ∧ (let s := mapped y leaf
         s.overlapped y (writesAt false rowTensor [2, 0, 0, 0]) true = false ∧ s.streamKey y = none
           ∧ (match s.settleCopies [0] with
              | (.done, z) => z.streamKey y == none
              | _ => false) = true
           ∧ (after s (exec (.streamElementTransfer 0 7 2 0 true) s)).hbm.read 8 4 = [0xDD#8, 0xCC#8, 0xBB#8, 0xAA#8])
      ∧ (let s := mapped y (leaf - 2 ^ 61)
         (after s (exec (.streamElementTransfer 0 7 2 0 true) s)).traffic.faults.map (·.cause) = [.pageWrite])
      ∧ (let s := mapped x 0
         ((after s (exec (.streamElementTransfer 0 7 3 0 false) s)).stream 7).any (fun y => y.buf.length == 1) = true)
      ∧ (let k : Kernel := { aKernel with ticket := some 4, id := 1 }
         let v : Version := ⟨3, 4, 0, List.replicate 256 1#8, 0, ⟨9, 0x4000, 0, false, 0x4000, 0⟩, []⟩
         let s := { mapped y leaf with crown.kernels := [k], roots.versions := [v], hbm := (mapped y leaf).hbm.write 0 (leBytes 8 leaf) }
         s.streamKernel y = some k ∧ s.streamKey y = some (3, 4) ∧ s.ownVersion 3 4 0 = some v
           ∧ (match State.walkPool 3 [0] s with
              | (.ok _ _, z) => z.roots.versions == [v]
              | _ => false) = true
           ∧ ((after s (exec (.streamElementTransfer 0 7 2 0 true) s)).roots.versions.map fun v => (v.data.drop 8).take 4) = [[0xDD#8, 0xCC#8, 0xBB#8, 0xAA#8]]) := by
  decide +kernel

/-- R258's worked example: a group of stamp 997 with 6.0 and 4.0, stamped adds at 1,000, λ = 0.5 and H = 64. -/
theorem test_stamped_add :
    let half := 0x3F000000
    let vs : List (Nat × Nat) := [(0, 0x40C00000), (1, 0x40800000)]
    (groupStep false half 64 1000 997 vs [(0, 0x3F800000)]).1 = [(0, 0x3FE00000), (1, 0x3F000000)] ∧ (groupStep false half 64 1000 997 vs []).2.1 = 1000
      ∧ (groupStep false half 64 1000 1002 vs [(0, 0x40800000)]).1 = [(0, 0x40E00000), (1, 0x40800000)] ∧ (groupStep false half 64 1000 1002 vs []).2.1 = 1002
      ∧ (groupStep true half 64 1000 997 vs [(1, 5)]).1 = [(0, 0x3F400000), (1, 5)]
      ∧ mergeValue 12 1 0xFFFF 2 = (1, 0#6) ∧ mergeValue 12 2 0xFFFF 2 = (0xFFFF, 0#6) ∧ mergeValue 12 3 0xFFFF 2 = (2, 0#6) := by decide +kernel

theorem witness_ports_and_indices :
    let port : Wide := record [(72, 3)]
    (let x : Stream := { aStream with op := .sport, src := port, readTo := 3, total := none }
     let w : CWord := ⟨⟨BitVec.ofNat 512 (5 * 2 ^ 32), 2#16⟩, none, 1, 1#8⟩
     let s := (withStream x).onCn 0 fun n => { n with outp := vset n.outp 0 [w] }
     let z := after s (exec (.streamElementTransfer 0 7 3 0 false) s)
     wEnd x.src = 3 ∧ s.sourceOver x = false ∧ (z.stream 7).any (fun y => y.buf.map (·.val) == [0xAABBCCDD, 5]) = true ∧ vget (z.tile 0).cn.outp 0 [] = [])
    ∧ (let x : Stream := { aStream with op := .sport, dst := port, segLeft := 1, pre := some 1 }
       let z (s : State) : State := after s (exec (.streamElementTransfer 0 7 2 0 true) s)
       let full := (withStream x).onCn 0 fun n => { n with inp := vset n.inp 0 (List.replicate 4 ⟨Lanes.none, none, 0, 0#8⟩) }
       wEnd x.dst = 3 ∧ x.grouped = false ∧ x.width ≤ 32 ∧ (vget ((z (withStream x)).tile 0).cn.inp 0 []).map (fun w => (w.lanes.act, w.pre)) = [(1#16, some 1)]
         ∧ ((z full).stream 7).any (fun y => y.buf.length == 1) = true
         ∧ (((z (withStream { x with segLeft := 9 })).stream 7).elim [] (·.pack)) = [0xAABBCCDD])
    ∧ (let x := { ringStream with pack := [] }
       (((after (withStream x) (exec (.streamElementTransfer 0 7 2 0 true) (withStream x))).stream 7).elim [] (·.pack)) = [0xAABBCCDD])
    ∧ (let src : Wide := record [(448, 2 ^ 60 + 0x100), (72, 1), (76, 1), (256, 1), (288, 4), (320, 1), (352, 1), (160, 1)]
       let x : Stream := { aStream with src := src, srcIdx := some (spadRec 0x300 4), srcCur := { Cursor.start src false with i1 := 3, taken := 3, count := 3 } }
       let s := (withStream x).writeLoc (.spad 0 0x30C) [7#8]
       let z := after s (exec (.streamElementTransfer 0 7 3 0 false) s)
       x.loose = false ∧ x.srcCur.step src false = .index ∧ wIndexPort src = none ∧ (s.place x (spadRec 0x300 4) 0 0x30C 4).toOption = some (.spad 0 0x30C)
         ∧ (z.stream 7).any (fun y => y.srcCur.idx == some 7 && y.srcCur.terms src == (0, 0, 7, 0)) = true
         ∧ (let y := { x with srcCur := { x.srcCur with taken := 4 } }
            (after (withStream y) (exec (.streamElementTransfer 0 7 3 0 false) (withStream y))).traffic.faults.map (·.cause) = [.segmentMismatch])) := by decide +kernel

theorem witness_decoders :
    (let x : Stream := { aStream with op := .sdec, unit := some 0, mode := 0, total := some 3 }
     decodePicture (x.buf.map (·.val)) = none
       ∧ (after (withStream x) (exec (.streamReadDone 0 7) (withStream x))).traffic.faults.map (·.cause) = [.decodeError])
    ∧ (let x : Stream := { aStream with op := .sdec, unit := some 0, output := some [(false, 0, 1, 5)], wroteTo := 0, buf := [], dstT := some rowTensor }
       let s := withStream x
       s.blocked x 0 true = false ∧ s.overlapped x (writesAt false rowTensor [1, 0, 0, 0]) true = false
         ∧ (match s.rootWrite x 0 rowTensor [1, 0, 0, 0] 0 5 false false with
            | .ok () _ => false
            | _ => true) = true) := by decide +kernel

/-! ### Witnesses: full buffers, resumed work and refused places -/

/-- A full buffer turns an instruction that takes an entry away, and no other; two equal traps of a window get two records; and paused groups. -/
theorem witness_full_buffers :
    (let s := core fun c => { c with inflight := List.replicate 64 (effect 9) }
     let roomy := s.onMe fun c => { c with inflight := [] }
     let i := Instr.addi 3 0 5#12
     encode i ≠ none ∧ 64 ≤ s.me.inflight.length ∧ (after roomy (exec i roomy)).me.inflight.length = 1
       ∧ ((after s (exec i s)).group 1).any (fun g => g.window.map (·.cause) == [.inflightLimit]) = true ∧ (after s (exec i s)).me.inflight.length ≤ 64)
    ∧ (let w := [aTrap .softTrap, aTrap .softTrap]
       let s := { grouped base (fun g => { g with ctx := 3, st := .freezing 8, cnt := 8, window := w }) with crown.kernels := [aKernel] }
       (s.group 1).any (fun g => g.fits && !g.paused && g.saveSlot.isNone && g.pauseAt.isNone && g.recorded == [] && s.disposal g != some .handle) = true
         ∧ w.count (aTrap .softTrap) = 2 ∧ ¬ w.Nodup ∧ ((after s (exec (.freezeStop 1) s)).ctxt 3).waiting.map (·.cause) = [.softTrap, .softTrap])
    ∧ (let at_ (st : GState) : State := grouped base fun g => { g with st := st, paused := true, cnt := 5 }
       let back (st : GState) : Bool := ((after (at_ st) (exec (.urgentReleaseResume 1) (at_ st))).group 1).any fun g => g.st == st && !g.paused && g.cnt == 5
       back .frozen = true ∧ back .handling = true ∧ back .held = true ∧ ((at_ .held).group 1).any (fun g => !(at_ .held).coveredBy g 1) = true)
    ∧ (let s := grouped base fun g => { g with paused := true }
       let z := { s with crown.groups := s.crown.groups ++ (s.crown.groups.map fun (g : Group) => { g with id := 2, urgent := true, paused := false }) }
       (z.group 1).any (fun g => g.paused && z.coveredBy g 1) = true) := by decide +kernel

/-- The displacement of an access: what it adds, and where it leaves 41 bits; and what comes first in a handler. -/
theorem witness_displacements :
    let s := { core (fun c => { c with flow := { c.flow with aligned := true } }) with regions := vset base.regions 0 (some 1) }
    let r (s : State) (p : Nat) (d : Int) (n : Nat) : Option (Cause × Loc) := match s.target [1, 2, 3, 4, 5] .load false (BitVec.ofNat 64 p) d n with
      | .ok (l, _) => some (.debugHalt, l)
      | .error (c, _) => some (c, .mailbox 0)
    r s (2 * 2 ^ 60 + 0x40) 8 8 = some (.debugHalt, .spad 0 0x48) ∧ r s (2 * 2 ^ 60) (-1) 8 = some (.tagOverflow, .mailbox 0)
      ∧ r s (3 * 2 ^ 60 + 2 ^ 41 - 1) 1 1 = some (.tagOverflow, .mailbox 0) ∧ r s (3 * 2 ^ 60 + 0x40) (-8) 8 = some (.debugHalt, .shared 0 0x38)
      ∧ r (core inHandler) (3 * 2 ^ 60) (-1) 1 = some (.handlerOp, .mailbox 0) ∧ r (core inHandler) (4 * 2 ^ 60) (-1) 1 = some (.tagOverflow, .mailbox 0)
      ∧ r s (4 * 2 ^ 60 + 0x8000) 4 8 = some (.misaligned, .mailbox 0) ∧ r s (4 * 2 ^ 60 + 0xFFFC) 4 8 = some (.spaceInvalid, .mailbox 0)
      ∧ r s (4 * 2 ^ 60 + 0x8010) 8 8 = some (.cregInvalid, .mailbox 0) ∧ r s (4 * 2 ^ 60 + 0x7FF8) 8 8 = some (.debugHalt, .creg 0) ∧ r s (4 * 2 ^ 60 + 0x3C) 4 4 = some (.spaceInvalid, .mailbox 0)
      ∧ r s (5 * 2 ^ 60 + 0x3FFFF8) 8 8 = some (.spaceInvalid, .mailbox 0) ∧ (core inHandler).me.handling = true := by decide +kernel

/-- The largest and the smallest participant: of none, of integers of either signedness, of numbers beside a NaN, and of NaNs alone. -/
theorem witness_extremes :
    reducePick false .s32 [] = (-(2 : Int) ^ 31, 0#6) ∧ reducePick true .z32 [] = ((2 : Int) ^ 32 - 1, 0#6) ∧ reducePick false .s8 [0x80, 1] = (1, 0#6)
      ∧ reducePick true .s8 [0x80, 1] = (-128, 0#6) ∧ reducePick false .z32 [0x80000000, 1] = ((2 : Int) ^ 31, 0#6)
      ∧ reducePick false .f32 [] = (0xFF800000, 0#6) ∧ reducePick true .bf16 [] = (0x7F800000, 0#6)
      ∧ reducePick false .f32 [0x3F800000, 0x7FC00000, 0xC0000000] = (0x3F800000, 0#6) ∧ reducePick true .f32 [0x3F800000, 0x7F800001, 0xC0000000] = (0xC0000000, flNV)
      ∧ reducePick true .f32 [0x7FC00001] = (0x7FC00000, 0#6) ∧ (fp32.val 0x7F800001).isSnan = true
      ∧ reduceAdd .f32 [0x7FC00000, 0x7F800000, 0xFF800000] = (0x7FC00000, 0#6)
      ∧ (let s := core fun c => { c with regs := { c.regs with v := c.regs.v.set 2 0x80#512, vm := c.regs.vm.set 0 1#16 } }
         (after s (exec (.vredMin 3 2 0 .s8) s)).me.inflight.map (·.kind) = [.reg (.x 3) (BitVec.setWidth 512 (BitVec.ofInt 64 (-128))) allBits]) := by
  decide +kernel

/-- vabs and vneg of a number, an infinity, a quiet and a signalling NaN, in either format. -/
theorem witness_signs :
    elemAbs .f32 0xBF800000 = (0x3F800000, 0#6) ∧ elemNeg .f32 0x3F800000 = (0xBF800000, 0#6) ∧ elemAbs .f32 0xFF800000 = (0x7F800000, 0#6)
      ∧ elemNeg .bf16 0x7F80 = (0xFF80, 0#6) ∧ elemAbs .bf16 0xFFC1 = (0x7FC0, 0#6) ∧ elemNeg .f32 0x7F800001 = (0x7FC00000, flNV)
      ∧ elemNeg .f32 0 = (0x80000000, 0#6) ∧ laneFmt .f32 = some fp32 ∧ 0xBF800000 < 2 ^ laneWidth .f32 := by decide +kernel

/-- The rows of R158 in their order: each fails where the ones before it pass, and the last record passes them all. -/
theorem witness_latch_faults :
    let side (o0 n0 : Nat) : Wide := record [(384, o0), (256, n0), (288, 1), (320, 1), (352, 1), (128, 1)]
    let bytes : Wide := spadRec 0x200 4 ||| record [(67, 15)]
    let x (ws wd : Wide) (st : Option TensorV) : Latch := ⟨ws, wd, none, none, st, none, none⟩
    let row (l : List (Nat × Nat)) : TensorV := { rowTensor with desc := rowTensor.desc ||| record l }
    let stamps : Wide := record [(31, 1), (0, 16), (304, 2), (336, 1), (368, 1), (400, 1)]
    let scales : Wide := record [(31, 1), (0, 15), (304, 2), (336, 1), (368, 1), (400, 1)]
    let ringed : TensorV := { row [(29, 1), (464, 1)] with ring := some stamps }
    let turned : TensorV := { row [(0, 5), (8, 1), (16, 5), (28, 1)] with aux := some scales }
    let f (op : StreamOp) (y : Latch) : Option (Cause × Word) := base.latchFault op y
    f .smov (x (spadRec 0x100 4 ||| record [(64, 1)]) (spadRec 0x200 4) none) = some (.walkInvalid, 0#64)
      ∧ f .smov (x (side 0 4) (spadRec 0x200 4) none) = some (.tensorInvalid, 0#64)
      ∧ f .smov (x (side 0 4) (spadRec 0x200 4) (some (row [(10, 1)]))) = some (.tensorInvalid, 0#64) ∧ (row [(10, 1)]).sound = false
      ∧ f .smov (x (side 0 4) (spadRec 0x200 4) (some (row [(30, 1)]))) = some (.worldViolation, 0#64) ∧ (row [(30, 1)]).sound = true
      ∧ f .smov (x (side 0 4 ||| record [(63, 1)]) (spadRec 0x200 4) (some rowTensor)) = some (.walkInvalid, 0#64)
      ∧ f .smov (x (side 0 4) (spadRec 0x200 4) (some ringed)) = some (.ringUndeclared, 0#64) ∧ ringed.sound = true
      ∧ f .smov (x (side 0 4) bytes (some turned)) = some (.illegalLayout, 0#64) ∧ turned.sound = true
      ∧ f .smov (x (side 61 4) (spadRec 0x200 4) (some rowTensor)) = some (.coordRange, 0#64)
      ∧ f .smov (x (side 60 4) (setField (spadRec 0x200 4) 511 508 6) (some rowTensor)) = some (.spaceInvalid, BitVec.ofNat 64 (6 * 2 ^ 60 + 0x200))
      ∧ f .smov (x (side 60 4) (spadRec 0x200 5) (some rowTensor)) = some (.segmentMismatch, 0#64)
      ∧ f .smc (x (side 60 4) (spadRec 0x200 4) (some rowTensor)) = some (.walkInvalid, 0#64)
      ∧ f .smov (x (side 60 4) (spadRec 0x200 4) (some rowTensor)) = none
      ∧ rowTensor.sound = true ∧ descRing rowTensor.desc = false ∧ descAux rowTensor.desc = false := by decide +kernel

/-- The ends of a scratchpad range, a base beyond its space, a base on another tile, and the host window. -/
theorem witness_base_faults :
    let f (w : Wide) : Option Cause := base.baseFault w 32
    let off (sp n : Nat) : Wide := setField (spadRec 0 4) 511 448 (sp * 2 ^ 60 + n)
    f (off 1 (0x1E0000 - 16)) = none ∧ f (off 1 (0x1E0000 - 12)) = some .permission ∧ f (off 1 0x1E0000) = some .permission
      ∧ f (off 1 (2 ^ 21)) = some .spaceInvalid ∧ f (off 3 (2 ^ 28)) = some .spaceInvalid ∧ f (off 4 0) = some .spaceInvalid
      ∧ f (off 2 (480 * 2 ^ 41)) = some .spaceInvalid ∧ f (off 2 (1 * 2 ^ 41)) = some .permission ∧ f (ringRec (0x1E0000 - 64) 2) = some .permission
      ∧ f (ringRec (0x1E0000 - 128) 2) = none ∧ f 0#512 = none ∧ f (setField (off 6 0) 75 72 2) = none ∧ f (setField (off 1 0) 75 72 2) = some .spaceInvalid := by
  decide +kernel

/-- The stream engine's counts with one stream at engine 0 whose element waits for its page. -/
theorem witness_stream_counts :
    let s := { withStream aStream with roots.holds := [⟨3, some 6, .elem 7 3 false, 0x1000, false, false⟩] }
    let v (e : Fin 5) : List EKind := (after s (exec (.sstat 5 e) s)).me.inflight.map (·.kind)
    v 1 = [.reg (.x 5) 1#512 allBits] ∧ v 2 = [.reg (.x 5) 1#512 allBits] ∧ v 3 = [.reg (.x 5) 1#512 allBits] ∧ v 0 = [.reg (.x 5) 0#512 allBits]
      ∧ (s.traffic.streams.filterMap (·.engine)).Nodup := by decide +kernel

/-- A drain that pops: its row draws the entries for all its lanes before it lands, and takes the numbers that were drawn. -/
theorem witness_drawn_rows :
    let w := setField (spadRec 0x1000 16) 71 67 1
    let c : MCmd := ⟨8, 0, 0, 0, 3, 63, .drain 1 .sr false, w, 0#512, 0, true, none, [], [], 0, (List.range 16).map fun j => (0, j, 0x3F808000#32)⟩
    let s := base.onMx 0 fun m => { m with cmds := [c] }
    let z := s.drawRow 0 (c.start + 70)
    let l := (z.tile 0).mx.drawn
    wFmt w = 1 ∧ 0 < wCount w 1 ∧ wCount w 0 ≤ 64 ∧ l = some ((List.range 4).flatMap fun k => rbqEntry base.me.cr.rbseed (base.me.cr.rbidx.toNat + k))
      ∧ (let y := z.drainNow 0 (c.start + 70) c
         (y.tctx 0 false).cr.rbidx = base.me.cr.rbidx ∧ ((y.tile 0).spad.get 0x1001) = 0x3F#8)
      ∧ ((s.drainNow 0 (c.start + 70) c).tctx 0 false).cr.rbidx = base.me.cr.rbidx + 4 := by decide +kernel

/-- A parameter that makes its record unsound: a REPEAT of no iterations, and one beyond the largest. -/
theorem witness_unsound_parameters :
    let i : Nat := 7
    let s (v : Nat) : State := (withReg [(1, BitVec.ofNat 64 v)]).onCn 0 fun n => { n with recs := vmod n.recs i (·.set 0 (record [(31, 1), (24, 8), (64, 8), (128, 1)])) }
    let bad (v : Nat) : Bool := !recordSound i (setField (((s v).tile 0).cn.recOf i 0) 159 128 v)
    let causes (v : Nat) : List Cause := ((after (s v) (exec (.cparam (7) 0 1 0) (s v))).group 1).elim [] fun g => g.window.map (·.cause)
    kindOf i = .rep ∧ bad 0 = true ∧ bad 65536 = true ∧ bad 65535 = false ∧ causes 0 = [.canopyConfig] ∧ causes 65536 = [.canopyConfig] ∧ causes 65535 = [] := by
  decide +kernel

/-- What txstat tells of a serial transactional kernel with one held and one captured escape, and of its versions. -/
theorem witness_transaction_status :
    let e (h : Bool) : Escape := ⟨6, 0, 0, 0, some (.post 5#64 [1#8]), h, false⟩
    let k : Kernel := { aKernel with ticket := some 4, serial := true, aborts := 2, escapes := [e false, e true], record := record [(148, 1), (400, 1000)], disp := 5 }
    let s := { grouped base (fun g => { g with ctx := 3 }) with crown.kernels := [k], roots.versions := [aVersion 4 7, aVersion 5 8], gcyc := 7#64 }
    let v (i : Fin 8) : List EKind := (after s (exec (.txstat 5 i) s)).me.inflight.map (·.kind)
    let holds (i : Fin 8) (n : Nat) : Bool := v i == [.reg (.x 5) (BitVec.ofNat 512 n) allBits]
    s.me.full = false ∧ s.me.handling = false ∧ s.kernelOf 0 false = some k ∧ s.me.group = some 1 ∧ s.kernel 1 = some k ∧ holds 0 4 = true ∧ holds 2 19 = true ∧ holds 3 2 = true
      ∧ holds 4 1 = true ∧ holds 6 998 = true
      ∧ (s.countPool.roots.counted.map fun x => (x.2.filter fun l => l.1 = 3 ∧ k.ticket = some l.2).length) = [1] ∧ s.countPool.roots.counted.map (·.1) = [7] := by
  decide +kernel

/-- A stream that holds four read elements reads no more, one that may be suspended; and a version's read walks its pool leaf, or faults its context. -/
theorem witness_resting :
    (let b (n : Nat) : BufElem := ⟨n, 5, none, [0], 0#8, none, false⟩
     let x : Stream := { aStream with op := .sport, dst := record [(72, 3)], readTo := 4, buf := [b 0, b 1, b 2, b 3], total := some 9 }
     let s := withStream x
     s.stream 7 = some x ∧ x.suspends = true ∧ x.grouped = false ∧ (after s (exec (.streamElementTransfer 0 7 4 0 false) s)).stream 7 = some x)
    ∧ (let x : Stream := { aStream with op := .sport, dst := record [(72, 3)], buf := [] }
       let s := { grouped (withStream x) (fun g => { g with st := .switching }) with gcyc := 1#64 }
       x.suspends = true ∧ x.atBoundary = true ∧ (s.group x.group).any (·.st == .switching) = true ∧ (after s (exec (.streamElementTransfer 0 7 3 0 false) s)).stream 7 = some x)
    ∧ (let s := settling (2 ^ 63 + 2 ^ 62 + 2 ^ 61) []
       s.seenVersion none 15 = none ∧ (s.seenVersion none 16).isSome = true ∧ ((s.seeVersion none 4096 6 0).ctxt 3).st = .ready
         ∧ (let z := { s with hbm := Mem.write [] 0x4000 (leBytes 8 (2 ^ 63 + 2 ^ 62 + 2 ^ 61)) }
            ((z.seeVersion none 4096 6 0).ctxt 3).st = .faulted ∧ ((z.seeVersion none 4096 6 0).ctxt 3).waiting.map (·.cause) = [.translation])) := by decide +kernel

/-- A reduction that goes on after a switch: an exact sum over lanes, a maximum lane by lane, a scan, and a repeat of two words of which one had been read. -/
theorem witness_resumed_reductions :
    let l (v : Nat) (a : BitVec 16) : Lanes := ⟨BitVec.ofNat 512 v, a⟩
    let f (first last : Bool) : Firing := ⟨0, 1, first, last, 16, 32, [], [], [], []⟩
    let st (p : Past) : UState := ⟨[], Lanes.none, 0, 0#32, 0#32, p⟩
    let x (k : Kind) (r : Wide) : UnitIn := ⟨k, 0, r, l (0x3F800000 + 0x40000000 * 2 ^ 32) 3#16, Lanes.none, Lanes.none, true, 0, Vector.replicate 13 0#512⟩
    let sum : Past := ⟨1, 1#16, [⟨[.num false 3 0], []⟩]⟩
    let most : Past := ⟨1, 1#16, [⟨[], [0x40400000]⟩, ⟨[], []⟩]⟩
    let o (k : Kind) (op : Nat) (p : Past) (a b : Bool) : Lanes := ((x k (record [(8, op), (128, 2)])).eval (f a b) (st p)).o0
    o .acc 0 sum false true = l 0x40C00000 1#16 ∧ o .acc 0 sum true true = l 0x40400000 1#16 ∧ o .acc 0 sum false false = Lanes.none
      ∧ lane (o .acc 33 most false true).val 0 = 0x40400000 ∧ lane (o .acc 33 most false true).val 1 = 0x40000000
      ∧ o .scan 0 sum false true = l (0x40800000 + 0x40C00000 * 2 ^ 32) 3#16
      ∧ (let p : Past := ⟨1, 1#16, [⟨[.num false 3 0], []⟩, ⟨[], []⟩]⟩
         o .rep 1 p false false = l (0x40800000 + 0x40000000 * 2 ^ 32) 3#16 ∧ (o .rep 1 Past.none false false) = Lanes.none) := by decide +kernel

/-- A group that comes back: not onto a tile that holds a group or that a waiting record has chosen; and an open place. -/
theorem witness_returns :
    (let s := savedState
     (s.group 1).any (fun x => s.placeable (true, 1) x) = true ∧ s.crown.sels = [])
    ∧ (let s := { savedState with
        hbm := savedState.hbm.write 0x5000 (leBytes 64 (launchRec 1).toNat)
        crown.queues := vset savedState.crown.queues 5 { Queue.reset with headSlot := 0x5000 }
        crown.sels := [⟨false, 5, 0, ⟨0, 0, 0⟩⟩] }
       (s.group 1).any (fun x => x.tiles.any (groupAt (s.headRecord 5) 0 ⟨0, 0, 0⟩).has && !s.placeable (true, 1) x) = true
         ∧ s.crown.sels.any (fun y => y.of (true, 1)) = false ∧ ((after s (exec (.restore 1) s)).group 1).any (·.st == .switchedOut) = true)
    ∧ (let s := savedState
       let z := { s with crown.groups := s.crown.groups ++ [{ groupAt (launchRec 1) 9 ⟨0, 0, 0⟩ with st := .running }] }
       z.crown.groups.any (fun h => h.holds 0 && !h.urgent) = true ∧ ((after z (exec (.restore 1) z)).group 1).any (·.st == .switchedOut) = true) := by
  decide +kernel

/-- Queue 5 with a record of every tile, of a class, whose tiles all hold a group. -/
def noPlace (cl : Nat) : State :=
  { queued 1 (fun q => { q with checked := true }) with
    hbm := Mem.write [] 0x1000 (leBytes 64 (setField wholeRec 153 151 cl).toNat)
    crown.groups := [{ groupAt (setField wholeRec 153 151 cl) 9 ⟨0, 0, 0⟩ with st := .running, urgent := cl == 7 }] }

/-- Queue 5 is the only candidate of that state. -/
theorem noPlace_alone (cl i : Nat) (h : i ≠ 5) : (noPlace cl).readyRecord (false, i) = none := by
  have hq : ((noPlace cl).queue i).st ≠ .enabled := by
    show (vget (vset (Vector.replicate 2048 Queue.reset) 5 _) i _).st ≠ _
    unfold vget vset
    split
    · simp only [Vector.getElem_setIfInBounds, Vector.getElem_replicate]
      split
      · omega
      · simp [Queue.reset]
    · simp [Queue.reset]
  simp [State.readyRecord, State.considers, hq]

/-- A record of every tile that has no place, of class 3 and of class 7 (which keeps no selection). -/
theorem witness_no_place (cl : Nat) : (noPlace cl).selected (false, 5) (setField wholeRec 153 151 cl) = true := by
  have hk : (noPlace cl).crown.kernels = [] := rfl
  simp only [State.selected, hk, List.map_nil, List.nil_append, List.any_map, Bool.or_eq_true, Bool.not_eq_true', List.any_eq_false]
  refine Or.inr fun i _ => ?_
  by_cases h : i = 5
  · simp [h]
  · simp [noPlace_alone cl i h]

theorem witness_no_place_tiles :
    let r (cl : Nat) : Wide := setField wholeRec 153 151 cl
    let p : Place := ⟨0, 0, 0⟩
    let none (cl : Nat) : Bool := (placesOf (r cl)).all fun q => !(noPlace cl).placeable (false, 5) (groupAt (r cl) 0 q)
    (noPlace 3).readyRecord (false, 5) = some (r 3) ∧ (noPlace 7).readyRecord (false, 5) = some (r 7) ∧ (groupAt (r 3) 0 p).fits = true ∧ none 3 = true ∧ none 7 = true
      ∧ fieldOf (r 7) 153 151 = 7 ∧ (noPlace 3).crown.sels = [] := by decide +kernel

/-- An escape that waits for an older commit's. -/
theorem witness_waiting_escapes :
    let e : Escape := ⟨6, 0, 0, 0, some (.launch 5 (launchRec 1) 9), false, false⟩
    let o : Kernel := { aKernel with id := 2, st := .committing, ticket := some 6 }
    let n : Kernel := { aKernel with ticket := some 7, inPlace := true, escapes := [{ e with early := true }] }
    let s := { queued 1 id with crown.kernels := [o, n] }
    n.st = .running ∧ o.ctx = n.ctx ∧ (s.ctxt 3).ct = 6#16 ∧ ((6#16 - 6#16).toNat < 32768) ∧ (7#16 - 6#16 - 1).toNat < 256 ∧ ((after s (exec (.escapesPerformed 1) s)).queue 5).pushes = []
      ∧ (let z := { queued 1 id with crown.kernels := [n] }; ((after z (exec (.escapesPerformed 1) z)).queue 5).pushes.length = 1) := by decide +kernel

/-- A scrub whose context has a version that cannot settle yet, and one whose versions settle. -/
theorem witness_scrubs :
    let s (entry : Nat) : State := { settling entry [] with crown.ctxs := vset base.crown.ctxs 3 { Ctxt.reset with st := .destroyed, ct := 6#16 } }
    let lines (z : State) : List Nat := (z.roots.versions.filter fun v => v.ctx == 3 && z.committed v).map (·.line)
    lines (s 0) = [16, 16] ∧ ((lines (s 0)).foldl State.settleLine (s 0)).isHeld (.settle 16) = true
      ∧ ((after (s 0) (exec (.destroyScrubDone 3) (s 0))).ctxt 3).st = .destroyed
      ∧ (let z := s (2 ^ 63 + 2 ^ 62 + 2 ^ 61)
         ((lines z).foldl State.settleLine z).isHeld (.settle 16) = false ∧ ((after z (exec (.destroyScrubDone 3) z)).ctxt 3).st = .free
           ∧ (after z (exec (.destroyScrubDone 3) z)).hbm.get 4097 = 8#8) := by decide +kernel

/-- QCFG: on an unbound queue, to enable and to disable a bound one, with a context that is not ready, and to clear rej. -/
theorem witness_queue_configurations :
    let w (en rej cap : Nat) : Word := BitVec.ofNat 64 (en * 2 ^ 63 + rej * 2 ^ 59 + 3 * 2 ^ 48 + cap * 2 ^ 32)
    let on (x : Queue) (v : Word) : Queue := (after (queueAt x) (exec (.qcfgWrite 5 v) (queueAt x))).queue 5
    let x : Queue := { Queue.reset with st := .disabled, ctx := 3, cap := 4, rej := true }
    on Queue.reset (w 1 0 8) = { Queue.reset with configured := true, ctx := 3, cap := 8, en := true }
      ∧ on { Queue.reset with configured := true, ctx := 9, cap := 8 } (w 0 0 0) = { Queue.reset with configured := false, ctx := 3, cap := 0, en := false }
      ∧ (on x (w 1 0 0)).st = .enabled ∧ (on x (w 1 0 0)).cap = 4 ∧ (on x (w 1 0 0)).rej = true ∧ (on x (w 1 1 0)).rej = false
      ∧ (on { x with ctx := 9 } (w 1 0 0)).st = .disabled ∧ (on { x with ctx := 9 } (w 1 0 0)).en = true ∧ (on { x with st := .enabled } (w 0 0 9)).st = .disabled
      ∧ (on { x with st := .enabled } (w 0 0 9)).cap = 9 ∧ (on { x with st := .stalled } (w 0 0 9)).st = .stalled ∧ ((queueAt x).ctxt 3).st = .ready := by decide +kernel

/-- A write of the host to a line under a version: whose copy is held; whose copy fails, so that it lands on the version too; and a read that sees a version. -/
theorem witness_host_under_versions :
    let s (entry : Nat) : State := { settling entry [] with links := linked.links }
    let v : List Byte := [1#8, 2#8]
    let went (z : State) : Option Cause := match (State.settleCopies (linesOf 4096 2) z).1 with
      | .failed f => some f
      | _ => none
    let leaf := 2 ^ 63 + 2 ^ 62 + 2 ^ 61
    (s 0).pcieUp = true ∧ linesOf 4096 2 = [16] ∧ (match (State.settleCopies [16] (s 0)).1 with | .held => true | _ => false) = true
      ∧ (after (s 0) (exec (.hostBar2Write 4096#40 v) (s 0))).refused = true
      ∧ went (s (2 ^ 63 + 2 ^ 62)) = some .pageWrite
      ∧ (let z := after (s (2 ^ 63 + 2 ^ 62)) (exec (.hostBar2Write 4096#40 v) (s (2 ^ 63 + 2 ^ 62)))
         z.hbm.read 4096 2 = v ∧ z.refused = false ∧ ((z.roots.versions.filter z.committed).map fun k => k.data.take 3) = [[1#8, 2#8, 7#8], [1#8, 2#8, 8#8]] ∧ (z.ctxt 3).st = .faulted)
      ∧ (after (s leaf) (exec (.hostBar2Read 4096#40 2) (s leaf))).links.out = [.barData [8#8, 8#8]]
      ∧ ((after (s leaf) (exec (.hostBar2Read 4096#40 2) (s leaf))).ctxt 3).st = .ready := by decide +kernel

end Sys2Proof.Tests
end

section
/-! Every step keeps the memories of the package in their canonical form (log 2; R3, R7, R10).

Memories change only where `Mem.write` and `Mem.zero` say so, where a slot is saved or given back, and where a tile loses its state. For every function of the
model that answers a state there is one lemma, named after it under `State.memoriesCanonical`: from a state whose memories are canonical it answers such a state.
A lemma cites those of the functions that its function calls, so that a proof reads as the function does: `h.onGroup.abort` for `(s.onGroup ..).abort ..`. -/

namespace Sys2Proof.Machine

/-- Scratchpad and instruction memory of a tile are in canonical form. -/
def Tile.canonical (x : Tile) : Prop := x.spad.wf = true ∧ x.imem.wf = true

/-- What an access comes to, with the memories of the state it leaves in canonical form. -/
def Acc.canonical {α : Type} : Acc α → Prop
  | .ok _ s => s.memoriesCanonical
  | .wait s => s.memoriesCanonical
  | .fault _ s => s.memoriesCanonical

/-- A meaning that answers a next state answers one whose memories are in canonical form. -/
def CanonicalOut : Out' → Prop
  | .next s => s.memoriesCanonical
  | _ => True

/-! ### Memories -/

theorem Mem.filter_wf {m : Mem} {p : Host.Cell → Bool} (h : m.wf = true) : Mem.wf (m.filter p) = true := by
  obtain ⟨hz, ho⟩ := (Mem.wf_iff m).1 h
  exact (Mem.wf_iff _).2 ⟨fun c hc => hz c (List.mem_filter.1 hc).1, ho.filter p⟩

theorem Mem.below_wf {m : Mem} {hi : Nat} (h : m.wf = true) : (m.below hi).wf = true := by
  obtain ⟨hz, ho⟩ := (Mem.wf_iff m).1 h
  have hs : List.Sublist (m.below hi) m := List.takeWhile_sublist _
  exact (Mem.wf_iff _).2 ⟨fun c hc => hz c (hs.subset hc), ho.sublist hs⟩

theorem Mem.cells_wf (a : Nat) (bs : List Byte) : (Mem.cells a bs).wf = true :=
  (Mem.wf_iff _).2 ⟨fun ⟨x, b⟩ hc => ((Mem.mem_cells a bs x b).1 hc).2.2, Mem.cells_pairwise a bs⟩

theorem Mem.append_wf {m n : Mem} (hm : m.wf = true) (hn : n.wf = true) (h : ∀ x ∈ m, ∀ y ∈ n, x.1 < y.1) : Mem.wf (m ++ n) = true := by
  obtain ⟨hmz, hmo⟩ := (Mem.wf_iff m).1 hm
  obtain ⟨hnz, hno⟩ := (Mem.wf_iff n).1 hn
  exact (Mem.wf_iff _).2 ⟨fun c hc => (List.mem_append.1 hc).elim (hmz c) (hnz c), List.pairwise_append.2 ⟨hmo, hno, h⟩⟩

/-- Bytes at other addresses in the same order. -/
theorem Mem.map_wf {m : Mem} {f : Nat → Nat} (h : m.wf = true) (hf : ∀ x ∈ m, ∀ y ∈ m, x.1 < y.1 → f x.1 < f y.1) :
    Mem.wf (m.map fun c => (f c.1, c.2)) = true := by
  obtain ⟨hz, ho⟩ := (Mem.wf_iff m).1 h
  refine (Mem.wf_iff _).2 ⟨fun c hc => ?_, List.pairwise_map.2 (ho.imp_of_mem fun hx hy => hf _ hx _ hy)⟩
  obtain ⟨d, hd, rfl⟩ := List.mem_map.1 hc
  exact hz d hd

theorem Mem.mem_zero_upFrom {m : Mem} {a b : Nat} (h : m.wf = true) {c : Host.Cell} (hc : c ∈ (m.zero a b).upFrom a) : b ≤ c.1 := by
  rw [Mem.mem_upFrom _ (Mem.zero_wf m a b h)] at hc
  have hf := (List.mem_filter.1 hc.1).2
  simp only [Bool.or_eq_true, decide_eq_true_eq] at hf
  omega

/-- Bytes laid into a range that has been zeroed. -/
theorem Mem.splice_wf {m n : Mem} {a b : Nat} (hm : m.wf = true) (hn : n.wf = true) (hab : a ≤ b) (hin : ∀ c ∈ n, a ≤ c.1 ∧ c.1 < b) :
    Mem.wf ((m.zero a b).below a ++ n ++ (m.zero a b).upFrom a) = true := by
  have hz := Mem.zero_wf m a b hm
  have hlow (c : Host.Cell) (hc : c ∈ (m.zero a b).below a) : c.1 < a := ((Mem.mem_below _ hz a c).1 hc).2
  have hfront : Mem.wf ((m.zero a b).below a ++ n) = true :=
    Mem.append_wf (Mem.below_wf hz) hn fun x hx y hy => Nat.lt_of_lt_of_le (hlow x hx) (hin y hy).1
  refine Mem.append_wf hfront (Mem.upFrom_wf _ hz a) fun x hx y hy => Nat.lt_of_lt_of_le ?_ (Mem.mem_zero_upFrom hm hy)
  obtain hx | hx := List.mem_append.1 hx
  · exact Nat.lt_of_lt_of_le (hlow x hx) hab
  · exact (hin x hx).2

/-- Heartwood with the part of a scratchpad from `lo` to `hi` laid into the slot at `a`. -/
theorem Mem.savedSlot_wf {m p : Mem} {a lo hi : Nat} (hm : m.wf = true) (hp : p.wf = true) (hsize : hi ≤ lo + 0x1E0000) :
    Mem.wf ((m.zero a (a + 0x400000)).below a
      ++ (((p.below hi).upFrom lo).map fun c => (c.1 - lo + a, c.2)).filter (fun c => c.1 < hbmEnd)
      ++ (m.zero a (a + 0x400000)).upFrom a) = true := by
  have hb : (p.below hi).wf = true := Mem.below_wf hp
  have hpart (c : Host.Cell) (hc : c ∈ (p.below hi).upFrom lo) : lo ≤ c.1 ∧ c.1 < hi := by
    rw [Mem.mem_upFrom _ hb, Mem.mem_below _ hp] at hc
    exact ⟨hc.2, hc.1.2⟩
  refine Mem.splice_wf hm (Mem.filter_wf (Mem.map_wf (f := fun x => x - lo + a) (Mem.upFrom_wf _ hb lo) ?_)) (Nat.le_add_right _ _) ?_
  · intro x hx y hy hxy
    have := hpart x hx
    omega
  · intro c hc
    obtain ⟨d, hd, rfl⟩ := List.mem_map.1 (List.mem_filter.1 hc).1
    have := hpart d hd
    dsimp only
    omega

theorem partHi_le (u : Bool) : partHi u ≤ partLo u + 0x1E0000 := by
  cases u <;> decide

@[simp] theorem State.hbmRead_length (s : State) (a n : Nat) : (s.hbmRead a n).length = n := by
  simp only [State.hbmRead, List.length_append, Mem.read_length, List.length_map, List.length_range]
  omega

/-! ### Tiles and vectors of memories -/

theorem Tile.reset_canonical : Tile.reset.canonical := ⟨rfl, rfl⟩

theorem Tile.canonical.onCtx {x : Tile} {u : Bool} {f : TileCtx → TileCtx} (h : x.canonical) : (x.onCtx u f).canonical := by
  unfold Tile.canonical
  rw [Tile.onCtx_spad, Tile.onCtx_imem]
  exact h

theorem Tile.canonical.vacate {x : Tile} {u : Bool} {now : Nat} (h : x.canonical) : (x.vacate u now).canonical := by
  have hz {b : List Nat} {c : Canopy} {m : Matrix} :
      ({ x with spad := x.spad.zero (partLo u) (partHi u), spadBad := b, cn := c, mx := m } : Tile).canonical :=
    ⟨Mem.zero_wf _ _ _ h.1, h.2⟩
  unfold Tile.vacate
  dsimp only
  split
  · exact hz.onCtx
  · exact hz.onCtx

theorem getElem_vmod {α : Type} {n : Nat} (P : α → Prop) (v : Vector α n) (i : Nat) (f : α → α) (hv : ∀ j : Fin n, P v[j])
    (hf : ∀ x, P x → P (f x)) (j : Fin n) : P (vmod v i f)[j] := by
  have e : ∀ w : Vector α n, vget w j v[j] = w[j] := fun w => vget_lt w j _ j.isLt
  rw [← e, vget_vmod, e]
  split
  · exact hf _ (hv j)
  · exact hv j

/-! ### Tiles, folds and branches of a state -/

namespace State.memoriesCanonical

variable {s : State}

theorem tile (h : s.memoriesCanonical) (t : Nat) : (s.tile t).canonical := by
  unfold State.tile vget
  split
  · exact h.2.2 ⟨t, ‹_›⟩
  · exact Tile.reset_canonical

theorem onTile {t : Nat} {f : Tile → Tile} (h : s.memoriesCanonical) (hf : ∀ x, x.canonical → (f x).canonical) :
    (s.onTile t f).memoriesCanonical := by
  obtain ⟨hh, hs, ht⟩ := h
  exact ⟨hh, hs, getElem_vmod Tile.canonical s.tiles t f ht hf⟩

theorem onCtx {t : Nat} {u : Bool} {f : TileCtx → TileCtx} (h : s.memoriesCanonical) : (s.onCtx t u f).memoriesCanonical :=
  h.onTile fun _ hx => hx.onCtx

theorem foldl {α : Type} {l : List α} {f : State → α → State} (h : s.memoriesCanonical)
    (hf : ∀ s a, s.memoriesCanonical → (f s a).memoriesCanonical) : (l.foldl f s).memoriesCanonical := by
  induction l generalizing s with
  | nil => exact h
  | cons a l ih => exact ih (hf s a h)

/-- A fold that gathers results beside the state. -/
theorem foldl_snd {α β : Type} {l : List α} {f : β × State → α → β × State} {b : β} (h : s.memoriesCanonical)
    (hf : ∀ p a, p.2.memoriesCanonical → (f p a).2.memoriesCanonical) : (l.foldl f (b, s)).2.memoriesCanonical :=
  List.foldlRecOn (motive := fun p => p.2.memoriesCanonical) l f h fun p hp a _ => hf p a hp

theorem elim {α : Type} {o : Option α} {f : α → State} (h : s.memoriesCanonical) (hf : ∀ a, (f a).memoriesCanonical) :
    (o.elim s f).memoriesCanonical := by
  cases o with
  | none => exact h
  | some a => exact hf a

theorem of_if {c : Prop} [Decidable c] {a b : State} (ha : a.memoriesCanonical) (hb : b.memoriesCanonical) :
    (if c then a else b).memoriesCanonical := by
  split
  · exact ha
  · exact hb

theorem of_if_snd {α : Type} {c : Prop} [Decidable c] {a b : α × State} (ha : a.2.memoriesCanonical) (hb : b.2.memoriesCanonical) :
    (if c then a else b).2.memoriesCanonical := by
  split
  · exact ha
  · exact hb

theorem of_snd {α : Type} {p : α × State} {a : α} (h : p.2.memoriesCanonical) (e : p = (a, s)) : s.memoriesCanonical := by
  subst e
  exact h

end State.memoriesCanonical

namespace Acc.canonical

theorem bind {α β : Type} {x : Acc α} {f : α → State → Acc β} (hx : x.canonical)
    (hf : ∀ a s, s.memoriesCanonical → (f a s).canonical) : (x.bind f).canonical := by
  cases x with
  | ok a s => exact hf a s hx
  | wait s => exact hx
  | fault c s => exact hx

theorem of_eq {α : Type} {x y : Acc α} (hx : x.canonical) (e : x = y) : y.canonical := e ▸ hx

theorem of_ok {α : Type} {x : Acc α} {a : α} {s : State} (hx : x.canonical) (e : x = .ok a s) : s.memoriesCanonical := hx.of_eq e

theorem of_if {α : Type} {c : Prop} [Decidable c] {a b : Acc α} (ha : a.canonical) (hb : b.canonical) : (if c then a else b).canonical := by
  split
  · exact ha
  · exact hb

end Acc.canonical

theorem CanonicalOut.of_if {c : Prop} [Decidable c] {a b : Out'} (ha : CanonicalOut a) (hb : CanonicalOut b) : CanonicalOut (if c then a else b) := by
  split
  · exact ha
  · exact hb

namespace State.memoriesCanonical

variable {s : State}

/-! ### Access, schedule and traps -/

theorem done (h : s.memoriesCanonical) : CanonicalOut s.done := h

theorem onGroup {g : Nat} {f : Group → Group} (h : s.memoriesCanonical) : (s.onGroup g f).memoriesCanonical := h

theorem onKernel {k : Nat} {f : Kernel → Kernel} (h : s.memoriesCanonical) : (s.onKernel k f).memoriesCanonical := h

theorem onCtxt {c : Nat} {f : Ctxt → Ctxt} (h : s.memoriesCanonical) : (s.onCtxt c f).memoriesCanonical := h

theorem onQueue {q : Nat} {f : Queue → Queue} (h : s.memoriesCanonical) : (s.onQueue q f).memoriesCanonical := h

theorem onStream {n : Nat} {f : Stream → Stream} (h : s.memoriesCanonical) : (s.onStream n f).memoriesCanonical := h

theorem fresh (h : s.memoriesCanonical) : s.fresh.2.memoriesCanonical := h

theorem freeNat (h : s.memoriesCanonical) : s.freeNat.2.memoriesCanonical := h

theorem push {l : List Work} (h : s.memoriesCanonical) : (s.push l).memoriesCanonical := h

theorem onMe {f : TileCtx → TileCtx} (h : s.memoriesCanonical) : (s.onMe f).memoriesCanonical := h.onCtx

theorem abort {k : Nat} {c : Cause} (h : s.memoriesCanonical) : (s.abort k c).memoriesCanonical := by
  unfold State.abort
  split
  · exact h
  · split
    · exact of_if h.onKernel h
    · exact h
    · exact h
    · exact h.onKernel.push

theorem raise {t : Nat} {u : Bool} {c : Cause} {info : Word} {fpc slot : Nat} (h : s.memoriesCanonical) :
    (s.raise t u c info fpc slot).memoriesCanonical := by
  unfold State.raise
  split
  · exact h
  · exact of_if h.onGroup.abort h.onGroup

theorem trap {c : Cause} {info : Word} (h : s.memoriesCanonical) : (s.trap c info).memoriesCanonical := h.raise

theorem raiseAsync {gid t : Nat} {c : Cause} {info : Word} (h : s.memoriesCanonical) :
    (s.raiseAsync gid t c info).memoriesCanonical := h.onGroup

theorem sched {l : Nat} {fl : Flags} {k : EKind} (h : s.memoriesCanonical) : (s.sched l fl k).memoriesCanonical := of_if h.trap h.onMe

theorem result {l : Nat} {fl : Flags} {d : Dst} {v : Wide} {mask : Wide} (h : s.memoriesCanonical) :
    (s.result l fl d v mask).memoriesCanonical :=
  of_if h h.sched

theorem resultX {l : Nat} {d : Fin 64} {v : Word} (h : s.memoriesCanonical) : (s.resultX l d v).memoriesCanonical := h.result

theorem resultP {l : Nat} {d : Fin 8} {v : Bool} (h : s.memoriesCanonical) : (s.resultP l d v).memoriesCanonical := h.result

theorem ifRoom {d : Fin 64} {o : Out'} (h : s.memoriesCanonical) (ho : CanonicalOut o) : CanonicalOut (s.ifRoom d o) := by
  unfold State.ifRoom
  split
  · exact h.trap
  · exact ho

theorem act {l : Nat} {k : ActKind} (h : s.memoriesCanonical) : (s.act l k).memoriesCanonical := h.onMe

theorem flagCtx {t : Nat} {u : Bool} {f : Flags} (h : s.memoriesCanonical) : (s.flagCtx t u f).memoriesCanonical := of_if h h.onCtx

theorem token {t : Nat} {u : Bool} {k : Fin 64} {n : Nat} (h : s.memoriesCanonical) : (s.token t u k n).memoriesCanonical := of_if h h

theorem markBad {w : WordAt} (h : s.memoriesCanonical) : (s.markBad w).memoriesCanonical := by
  cases w with
  | spad t i => exact h.onTile fun _ h => h
  | shared d i => exact h
  | hbm i => exact h

theorem tileFault {gid t : Nat} {c : Cause} (h : s.memoriesCanonical) : (s.tileFault gid t c).memoriesCanonical := h.fresh

theorem spoil {gid t : Nat} (h : s.memoriesCanonical) : (s.spoil gid t).memoriesCanonical := of_if h.abort h.raiseAsync

/-! ### Results and bundles -/

theorem advance (h : s.memoriesCanonical) : s.advance.memoriesCanonical := h.onMe

theorem debugTraps {pc : Nat} (h : s.memoriesCanonical) :
    (s.debugTraps pc).memoriesCanonical := of_if ((of_if h.raise h).raise) (of_if h.raise h)

theorem count (h : s.memoriesCanonical) : s.count.memoriesCanonical := h.onMe

theorem withCur {c : Cur} (h : s.memoriesCanonical) : { s with cur := c }.memoriesCanonical := h

theorem slot {t : Nat} {u : Bool} {k : Nat} (h : s.memoriesCanonical) : (s.slot t u k).2.memoriesCanonical := by
  unfold State.slot
  split
  · split
    · exact h
    · simp only
      split
      · exact h.withCur.onMe.raise.advance
      · exact h.withCur.onMe.debugTraps.count
  · split
    · exact h
    · simp only
      split
      · exact h.withCur.count
      · exact h.withCur

theorem afterSlot {t : Nat} {u : Bool} {k : Nat} (h : s.memoriesCanonical) : (s.afterSlot t u k).memoriesCanonical := of_if h.push h.advance

/-! ### Landings and bank accesses -/

theorem raiseClashes {bad : List Touch} (h : s.memoriesCanonical) : (s.raiseClashes bad).memoriesCanonical := by
  unfold State.raiseClashes
  apply foldl
  · exact h
  · intro s x h
    apply foldl
    · exact h
    · intro s x h
      split
      split
      · exact h.raise
      · exact h

theorem cancelCore {x : Touch} (h : s.memoriesCanonical) : (s.cancelCore x).memoriesCanonical := h.onCtx

theorem writeLoc {l : Loc} {bs : List Byte} (h : s.memoriesCanonical) : (s.writeLoc l bs).memoriesCanonical := by
  unfold State.writeLoc
  split
  · exact h.onTile fun x hx => ⟨Mem.write_wf _ _ _ hx.1, hx.2⟩
  · exact ⟨h.1, getElem_vmod (·.wf = true) s.shared _ _ h.2.1 fun m hm => Mem.write_wf m _ _ hm, h.2.2⟩
  · exact h

theorem watch {t : Nat} {u : Bool} {e : Effect} {ptr : Word} {read write : Bool} (h : s.memoriesCanonical) :
    (s.watch t u e ptr read write).memoriesCanonical :=
  of_if h.raise h

theorem performWrite {t : Nat} {u : Bool} {now : Nat} {e : Effect} (h : s.memoriesCanonical) :
    (s.performWrite t u now e).memoriesCanonical := by
  unfold State.performWrite
  split
  · split
    · exact h
    · split
      · exact h.onCtx
      · exact h.watch.writeLoc
  · exact of_if h h.writeLoc.flagCtx
  · exact of_if h (h.foldl fun _ _ h => h.watch.writeLoc)
  · exact h

theorem spoilCore {t : Nat} {u : Bool} (h : s.memoriesCanonical) : (s.spoilCore t u).memoriesCanonical := h.elim fun _ => h.spoil

theorem sample {image : State → Nat → Bool → Nat → Nat → Nat → Nat} {t : Nat} {u : Bool} {now : Nat} {e : Effect}
    (h : s.memoriesCanonical) : (s.sample image t u now e).2.memoriesCanonical := by
  unfold State.sample
  split
  · exact h
  · exact of_if_snd h (of_if_snd h.spoilCore h.watch)
  · exact of_if_snd h (of_if_snd h.spoilCore h.watch)
  · exact of_if_snd h (of_if_snd h.spoilCore (h.foldl fun _ _ h => h.watch))
  · exact h

theorem sampleAll {image : State → Nat → Bool → Nat → Nat → Nat → Nat} {t : Nat} {u : Bool} (h : s.memoriesCanonical) :
    (s.sampleAll image t u).memoriesCanonical :=
  onCtx (foldl_snd h fun _ _ h => h.sample)

theorem sampleCregs {t : Nat} {u late : Bool} (h : s.memoriesCanonical) : (s.sampleCregs t u late).memoriesCanonical := h.onCtx

theorem landRegs {t : Nat} {u : Bool} (h : s.memoriesCanonical) : (s.landRegs t u).memoriesCanonical :=
  ((h.onCtx.foldl fun _ _ h => h.raise).foldl fun _ _ h => of_if h h.onCtx).foldl fun _ _ h => of_if h h.flagCtx

theorem landWrc {t : Nat} {u : Bool} (h : s.memoriesCanonical) : (s.landWrc t u).memoriesCanonical :=
  (h.foldl fun _ _ h => h.raise).foldl fun _ _ h => of_if h h.onCtx

/-! ### Scalar instructions -/

theorem notInHandler {k : Out'} (h : s.memoriesCanonical) (hk : CanonicalOut k) : CanonicalOut (s.notInHandler k) := by
  unfold State.notInHandler
  split
  · exact h.trap
  · exact hk

theorem putOffset {d : Fin 64} {p : Word} {off : Int} (h : s.memoriesCanonical) :
    CanonicalOut (s.putOffset d p off) := .of_if h.trap h.resultX

/-! ### Control flow -/

theorem branch {taken : Bool} {target : Nat} (h : s.memoriesCanonical) : (s.branch taken target).memoriesCanonical := h

theorem absBranch {taken : Bool} {target : Nat} (h : s.memoriesCanonical) :
    CanonicalOut (s.absBranch taken target) := .of_if h.trap h.branch

theorem openLoop {c : Fin 4} {n : BitVec 32} {e : Nat} (h : s.memoriesCanonical) : CanonicalOut (s.openLoop c n e) :=
  h.notInHandler (.of_if h.trap h.onMe)

theorem hold {w : Wait} {aligned : Bool} (h : s.memoriesCanonical) : (s.hold w aligned).memoriesCanonical := h.onMe

theorem dropSamples {t : Nat} {u : Bool} (h : s.memoriesCanonical) : (s.dropSamples t u).memoriesCanonical := h.elim fun _ => h.onKernel

theorem execRdc {d : Fin 64} {r : BitVec 12} (h : s.memoriesCanonical) : CanonicalOut (execRdc d r s) := by
  unfold Machine.execRdc
  split
  · exact h.trap
  · exact h.ifRoom (of_if h.resultX.act h.resultX)

theorem execWrc {a : Fin 64} {r : BitVec 12} (h : s.memoriesCanonical) : CanonicalOut (execWrc a r s) := by
  unfold Machine.execWrc
  split
  · exact h.trap
  · exact h.act

theorem execWaitkRelease {t : Nat} {u : Bool} (h : s.memoriesCanonical) : CanonicalOut (execWaitkRelease t u s) := by
  unfold Machine.execWaitkRelease
  split
  · exact .of_if h.onCtx (.of_if h.onCtx h)
  · exact h

theorem execFenceRelease {t : Nat} {u : Bool} (h : s.memoriesCanonical) : CanonicalOut (execFenceRelease t u s) := by
  unfold Machine.execFenceRelease
  split
  · exact .of_if h.onCtx h
  · exact h

theorem execSyncgRelease {g : Nat} (h : s.memoriesCanonical) : CanonicalOut (execSyncgRelease g s) := by
  unfold Machine.execSyncgRelease
  split
  · exact .of_if ((h.foldl fun _ _ h => h.onCtx).onGroup) h
  · exact h

/-! ### Scratchpad accesses -/

theorem load {spaces : List Nat} {b : Fin 64} {disp : Int} {size : Nat} {sgn : Bool} {d : Dst} (h : s.memoriesCanonical) :
    CanonicalOut (s.load spaces b disp size sgn d) := by
  unfold State.load
  split
  · exact h.trap
  · exact h.sched

theorem store {spaces : List Nat} {b : Fin 64} {disp : Int} {bs : List Byte} (h : s.memoriesCanonical) :
    CanonicalOut (s.store spaces b disp bs) := by
  unfold State.store
  split
  · exact h.trap
  · exact h.sched

theorem atomic {op : AtomOp} {w64 : Bool} {d a b : Fin 64} (h : s.memoriesCanonical) : CanonicalOut (s.atomic op w64 d a b) := by
  unfold State.atomic
  split
  · exact h.trap
  · exact h.sched

theorem execVldg {d : Fin 32} {a : Fin 64} {b : Fin 32} {m : Fin 8} (h : s.memoriesCanonical) : CanonicalOut (execVldg d a b m s) := by
  unfold Machine.execVldg
  split
  · exact h.trap
  · exact h.sched

theorem execVsts {d : Fin 32} {a : Fin 64} {b : Fin 32} {m : Fin 8} (h : s.memoriesCanonical) : CanonicalOut (execVsts d a b m s) := by
  unfold Machine.execVsts
  split
  · exact h.trap
  · exact h.sched

/-! ### Vector instructions -/

theorem resultV {l : Nat} {d : Fin 32} {mask : BitVec 16} {r : Wide × Flags} (h : s.memoriesCanonical) :
    CanonicalOut (s.resultV l d mask r) :=
  h.result

theorem elementwise {l : Nat} {d a b : Fin 32} {m : Fin 8} {t : LaneT} {f : Nat → Nat → Nat → Nat × Flags} (h : s.memoriesCanonical) :
    CanonicalOut (s.elementwise l d a b m t f) :=
  h.resultV

theorem reduced {d : Fin 64} {r : Int × Flags} (h : s.memoriesCanonical) : CanonicalOut (s.reduced d r) := h.result

/-! ### Roots: walks, versions and copies -/

theorem putHbm {a : Nat} {bs : List Byte} (h : s.memoriesCanonical) : (s.putHbm a bs).memoriesCanonical :=
  ⟨Mem.write_wf _ _ _ h.1, h.2⟩

theorem record {c : Nat} {r : TqRec} (h : s.memoriesCanonical) : (s.record c r).memoriesCanonical := h.onCtxt

theorem cachedDesc {c tid : Nat} (h : s.memoriesCanonical) : (s.cachedDesc c tid).2.memoriesCanonical := by
  unfold State.cachedDesc
  split
  · exact h
  · split <;> exact h

theorem viewWith {get : State → Nat → Option Wide × State} {tid : Nat} (h : s.memoriesCanonical)
    (hg : ∀ s t, s.memoriesCanonical → (get s t).2.memoriesCanonical) : (viewWith get s tid).2.memoriesCanonical := by
  unfold Machine.viewWith
  split
  · exact (hg s tid h).of_snd ‹_›
  · have also {z : State} (hz : z.memoriesCanonical) (p : Prop) [Decidable p] (t : Nat) :
        (if p then get z t else (none, z)).2.memoriesCanonical := of_if_snd (hg z t hz) hz
    exact also (also ((hg s tid h).of_snd ‹_›) _ _) _ _

theorem tensorView {c tid v : Nat} (h : s.memoriesCanonical) : (s.tensorView c tid v).2.memoriesCanonical :=
  h.viewWith (get := fun s t => s.cachedDesc c t) fun _ _ h => h.cachedDesc

theorem dropDesc {c tid : Nat} (h : s.memoriesCanonical) : (s.dropDesc c tid).memoriesCanonical := h

theorem keepCopy {c : WalkCopy} (h : s.memoriesCanonical) : (s.keepCopy c).memoriesCanonical := h

theorem setEntryBit {a i : Nat} (h : s.memoriesCanonical) : (s.setEntryBit a i).memoriesCanonical := of_if h h.putHbm

theorem useCopy {c : WalkCopy} {v : Nat} {write world : Bool} (h : s.memoriesCanonical) : (s.useCopy c v write world).2.memoriesCanonical :=
  (of_if h.setEntryBit.setEntryBit h.setEntryBit).keepCopy

theorem translate {retry : Bool} {list v : Nat} {write world : Bool} (h : s.memoriesCanonical) :
    (s.translate retry list v write world).2.memoriesCanonical := by
  have hk := h.freeNat
  unfold State.translate
  cases s.freshWalk list v with
  | ok f =>
    refine of_if_snd h.useCopy ?_
    dsimp only
    split
    · exact hk.useCopy
    · exact of_if_snd hk.useCopy (of_if_snd (useCopy hk) hk)
  | error e =>
    refine of_if_snd h ?_
    dsimp only
    split
    · exact hk
    · exact of_if_snd hk.useCopy (of_if_snd hk hk)

theorem walk {what : Held} {tid list v : Nat} {write world : Bool} (h : s.memoriesCanonical) :
    (s.walk what tid list v write world).2.memoriesCanonical := by
  unfold State.walk
  split <;> exact h.translate.of_snd ‹_›

theorem unhold {what : Held} (h : s.memoriesCanonical) : (s.unhold what).memoriesCanonical := h

theorem openHold {c : Nat} {what : Held} {tile ticket : Nat} {write : Bool} {entry : Nat} {rec : Bool} {v tid : Nat}
    (h : s.memoriesCanonical) : (s.openHold c what tile ticket write entry rec v tid).memoriesCanonical := by
  unfold State.openHold
  dsimp only
  split
  · exact h.unhold (what := what)
  · exact h

theorem holdForPlace {c : Nat} {what : Held} (h : s.memoriesCanonical) : (s.holdForPlace c what).memoriesCanonical := h

theorem flatWalk {root i : Nat} {big world write : Bool} (h : s.memoriesCanonical) :
    (s.flatWalk root i big world write).2.memoriesCanonical := by
  unfold State.flatWalk
  refine of_if_snd h (of_if_snd h ?_)
  have h := h.setEntryBit (a := root + 8 * i) (i := 59)
  exact of_if_snd h (of_if_snd h (of_if_snd h (of_if h.setEntryBit h)))

theorem enterFaulted {c : Nat} (h : s.memoriesCanonical) : (s.enterFaulted c).memoriesCanonical := h.onCtxt.foldl fun _ _ h => h.abort

theorem faultContext {c : Nat} {r : TqRec} (h : s.memoriesCanonical) : (s.faultContext c r).memoriesCanonical := by
  unfold State.faultContext
  split
  · exact h
  · exact h
  · exact h
  · exact h.record.enterFaulted

theorem fatalEvent {c : Nat} {cause : Cause} {ticket : Option Nat} (h : s.memoriesCanonical) :
    (s.fatalEvent c cause ticket).memoriesCanonical :=
  h.faultContext

theorem putVersions {line a : Nat} (h : s.memoriesCanonical) : (s.putVersions line a).memoriesCanonical := by
  unfold State.putVersions
  dsimp only
  split
  · exact h.unhold
  · exact h.unhold.putHbm.foldl fun _ _ h => h.markBad

theorem poolFault {c : Nat} {f : Cause} {v tid ticket tile : Nat} {write : Bool} (h : s.memoriesCanonical) :
    (s.poolFault c f v tid ticket tile write).memoriesCanonical :=
  h.faultContext

theorem walkVersion {v : Version} (h : s.memoriesCanonical) : (s.walkVersion v).2.memoriesCanonical := h.flatWalk

theorem seeVersion {own : Option (Nat × Nat)} {a ticket tile : Nat} (h : s.memoriesCanonical) :
    (s.seeVersion own a ticket tile).memoriesCanonical := by
  unfold State.seeVersion
  split
  · exact h
  · split
    · exact (h.walkVersion.of_snd ‹_›).poolFault
    · exact h.walkVersion.of_snd ‹_›

theorem seeLines {a n : Nat} (h : s.memoriesCanonical) : (s.seeLines a n).memoriesCanonical := h.foldl fun _ _ h => h.seeVersion

theorem settleCopy {line : Nat} (h : s.memoriesCanonical) : (s.settleCopy line).2.memoriesCanonical := by
  unfold State.settleCopy
  split
  · exact h.unhold
  · split
    · exact of_if_snd h ((h.walkVersion.of_snd ‹_›).poolFault)
    · dsimp only
      split
      · exact h
      · split
        · exact ((h.walkVersion.of_snd ‹_›).walk.of_snd ‹_›).putVersions
        · exact ((h.walkVersion.of_snd ‹_›).walk.of_snd ‹_›).openHold
        · exact ((h.walkVersion.of_snd ‹_›).walk.of_snd ‹_›).fatalEvent

theorem settleLine {line : Nat} (h : s.memoriesCanonical) : (s.settleLine line).memoriesCanonical := h.settleCopy

theorem settleCopies {l : List Nat} (h : s.memoriesCanonical) : (State.settleCopies l s).2.memoriesCanonical := by
  induction l generalizing s with
  | nil => exact h
  | cons a l ih =>
    unfold State.settleCopies
    split
    · exact ih (h.settleCopy.of_snd ‹_›)
    · exact h.settleCopy

theorem landHbm {a : Nat} {bs : List Byte} (h : s.memoriesCanonical) : (s.landHbm a bs).memoriesCanonical := h.putHbm

theorem noteRead {k : Nat} {p : Nat} (h : s.memoriesCanonical) : (s.noteRead k p).memoriesCanonical := h.onKernel

theorem noteWrite {k : Nat} {p : Nat} (h : s.memoriesCanonical) : (s.noteWrite k p).memoriesCanonical := h.onKernel

theorem walkPool {c : Nat} {l : List Nat} (h : s.memoriesCanonical) : (State.walkPool c l s).2.memoriesCanonical := by
  induction l generalizing s with
  | nil => exact h
  | cons n l ih =>
    unfold State.walkPool
    split
    · exact ih (h.flatWalk.of_snd ‹_›)
    · exact h.flatWalk

theorem versionWrite {c t slot : Nat} {p : Spot} {bs : List Byte} {bad : Bool} (h : s.memoriesCanonical) :
    (s.versionWrite c t slot p bs bad).memoriesCanonical :=
  of_if h h

theorem heartWrite {p : Spot} {bs : List Byte} {bad : Bool} (h : s.memoriesCanonical) : (s.heartWrite p bs bad).memoriesCanonical :=
  h.putHbm.foldl fun _ _ h => h.markBad

/-! ### Stream commands -/

theorem enqueue {k : QKind} {after : List WRef} (h : s.memoriesCanonical) : (s.enqueue k after).memoriesCanonical := h.onMe

theorem openEscape (h : s.memoriesCanonical) : s.openEscape.2.memoriesCanonical := h.fresh.elim fun _ => h.fresh.onKernel

/-- A stream's descriptor is looked up for an end that is a tensor. -/
theorem viewIf {p : Prop} [Decidable p] {c tid v : Nat} (h : s.memoriesCanonical) :
    (if p then s.tensorView c tid v else (none, s)).2.memoriesCanonical := of_if_snd h.tensorView h

theorem latch {a b : Fin 32} (h : s.memoriesCanonical) : (s.latch a b).2.memoriesCanonical :=
  (of_if_snd h.freeNat h).viewIf.viewIf.viewIf

theorem issueStream {op : StreamOp} {x : Latch} {k p : Fin 64} {m : Fin 2} (h : s.memoriesCanonical) :
    (s.issueStream op x k p m).memoriesCanonical := by
  unfold State.issueStream
  dsimp only
  apply enqueue
  split
  · apply onMe
    exact of_if_snd h.fresh.openEscape h.fresh
  · exact of_if_snd h.fresh.openEscape h.fresh

theorem streamCommand {op : StreamOp} {a b : Fin 32} {k p : Fin 64} {m : Fin 2} (h : s.memoriesCanonical) :
    CanonicalOut (s.streamCommand op a b k p m) := by
  unfold State.streamCommand
  apply notInHandler
  · exact h
  · split
    split
    · exact (h.latch.of_snd ‹_›).trap
    · exact .of_if ((h.latch.of_snd ‹_›).trap) (.of_if ((h.latch.of_snd ‹_›).trap) ((h.latch.of_snd ‹_›).issueStream))

theorem releaseRing {t : Nat} {u : Bool} {base n pc slot : Nat} (h : s.memoriesCanonical) :
    (s.releaseRing t u base n pc slot).memoriesCanonical := by
  unfold State.releaseRing
  split
  · exact h.raise
  · exact of_if h.raise h.onCtx

theorem execEsc {b : Fin 64} {i : BitVec 12} (h : s.memoriesCanonical) : CanonicalOut (execEsc b i s) := by
  unfold Machine.execEsc
  apply notInHandler
  · exact h
  · split
    · exact h.trap
    · exact h.openEscape.act

theorem execQlaunch {k a b : Fin 64} (h : s.memoriesCanonical) : CanonicalOut (execQlaunch k a b s) := by
  unfold Machine.execQlaunch
  apply notInHandler
  · exact h
  · dsimp only
    split
    · exact h.trap
    · split
      · exact h.trap
      · split
        · exact .of_if h.abort h.openEscape.act
        · exact h.act

/-! ### Memory accesses of streams -/

theorem endStream {x : Stream} (h : s.memoriesCanonical) : (s.endStream x).memoriesCanonical := by
  have ht {z : State} (hz : z.memoriesCanonical) (t : Nat) (f : Tile → Vector Nat 16) :
      (z.onTile t fun y => { y with engFree := f y }).memoriesCanonical := hz.onTile fun _ h => h
  unfold State.endStream
  cases x.engine <;> cases x.unit
  · exact h
  · exact h
  · exact ht h _ _
  · exact ht h _ _

theorem streamTrap {x : Stream} {e : Nat} {c : Cause} (h : s.memoriesCanonical) :
    (s.streamTrap x e c).memoriesCanonical := h.endStream.fresh

end State.memoriesCanonical

theorem Acc.canonical.finish {α : Type} {r : Acc α} {x : Stream} {e : Nat} {f : α → State → State} (hr : r.canonical)
    (hf : ∀ a s, s.memoriesCanonical → (f a s).memoriesCanonical) : (r.finish x e f).memoriesCanonical := by
  cases r with
  | ok a s => exact hf a s hr
  | wait s => exact hr
  | fault c s => exact State.memoriesCanonical.streamTrap hr

namespace State.memoriesCanonical

variable {s : State}

theorem spoilStream {α : Type} {x : Stream} (h : s.memoriesCanonical) : (s.spoilStream x : Acc α).canonical :=
  Acc.canonical.of_if h h.abort

theorem sound {α : Type} {x : Stream} {bad : Bool} {r : State → Acc α} (h : s.memoriesCanonical) (hr : (r s).canonical) :
    (s.sound x bad r).canonical := Acc.canonical.of_if h.spoilStream hr

theorem checked {α : Type} {x : Stream} {bad : Bool} {r : State → Acc α} (h : s.memoriesCanonical) (hr : (r s).canonical) :
    (s.checked x bad r).canonical := Acc.canonical.of_if h hr

theorem takeBanks {bs : List Nat} {z : State} (h : s.memoriesCanonical) (e : s.takeBanks bs = some z) : z.memoriesCanonical := by
  unfold State.takeBanks at e
  split at e
  · cases e
  · cases e
    exact h

theorem grant {l : Loc} {n : Nat} (h : s.memoriesCanonical) : (s.grant l n).canonical := by
  unfold State.grant
  split
  · exact h
  · exact h.takeBanks ‹_›

theorem inLine {i : Instr} (h : s.memoriesCanonical) : (s.inLine i).memoriesCanonical := of_if h h

theorem readSpad {x : Stream} {w : Wide} {off : Int} {high : Bool} {width : Nat} (h : s.memoriesCanonical) :
    (s.readSpad x w off high width).canonical := by
  unfold State.readSpad
  dsimp only
  split
  · exact h
  · exact h.grant.bind fun _ _ h => h

theorem writeSpad {x : Stream} {w : Wide} {tile : Nat} {off : Int} {high : Bool} {width v : Nat} {bad : Bool} (h : s.memoriesCanonical) :
    (s.writeSpad x w tile off high width v bad).canonical := by
  unfold State.writeSpad
  dsimp only
  split
  · exact h
  · exact h.grant.bind fun _ _ h => of_if (h.writeLoc.foldl fun _ _ h => h.markBad) h.writeLoc

theorem passEmpty {tile port : Nat} (h : s.memoriesCanonical) : (s.passEmpty tile port).memoriesCanonical := h.onTile fun _ h => h

theorem takeLane {tile port width : Nat} (h : s.memoriesCanonical) : (s.takeLane tile port width).2.memoriesCanonical := by
  unfold State.takeLane
  dsimp only
  split
  · exact h.passEmpty
  · have ht {f : Tile → Canopy} : ((s.passEmpty tile port).onTile tile fun t => { t with cn := f t }).memoriesCanonical :=
      h.passEmpty.onTile fun _ h => h
    exact of_if_snd ht.freeNat ht

theorem indexValue {x : Stream} {w : Wide} {idx : Option Wide} {taken : Nat} (h : s.memoriesCanonical) :
    (s.indexValue x w idx taken).canonical := by
  unfold State.indexValue
  split
  · split
    · exact h
    · have hl {p : Nat} := h.takeLane (tile := x.tile) (port := p) (width := 32)
      split
      · exact hl.of_snd ‹_›
      · exact hl.of_snd ‹_›
  · exact .of_if h h.readSpad
  · exact h

theorem settled {key : Option (Nat × Nat)} {lines : List Nat} (h : s.memoriesCanonical) : (s.settled key lines).2.memoriesCanonical :=
  of_if_snd h.settleCopies h

theorem streamWrites {x : Stream} {e : Nat} {ws : List (Spot × List Byte × Bool)} (h : s.memoriesCanonical) :
    (s.streamWrites x e ws).canonical := by
  unfold State.streamWrites
  dsimp only
  split
  · split
    · split
      · exact .of_if ((h.settled.of_snd ‹_›).onKernel.holdForPlace) ((h.settled.of_snd ‹_›).abort)
      · split
        · exact (((h.settled.of_snd ‹_›).foldl fun _ _ h => h.seeVersion).walkPool.of_snd ‹_›).foldl fun _ _ h => h.versionWrite
        · exact (((h.settled.of_snd ‹_›).foldl fun _ _ h => h.seeVersion).walkPool.of_snd ‹_›).openHold
        · exact (((h.settled.of_snd ‹_›).foldl fun _ _ h => h.seeVersion).walkPool.of_snd ‹_›).poolFault
    · exact (h.settled.of_snd ‹_›).foldl fun _ _ h => h.heartWrite
  · exact h.settled.of_snd ‹_›

theorem placeFor {what : Held} {c tile ticket : Nat} {t : TensorV} {co : List Nat} {write : Bool} (h : s.memoriesCanonical) :
    (s.placeFor what c tile ticket t co write).canonical := by
  unfold State.placeFor
  split
  split
  · exact h.walk.of_snd ‹_›
  · exact h.walk.of_snd ‹_›
  · exact (h.walk.of_snd ‹_›).openHold

theorem rootPlace {x : Stream} {e : Nat} {t : TensorV} {c : List Nat} {side write : Bool} (h : s.memoriesCanonical) :
    (s.rootPlace x e t c side write).canonical := by
  unfold State.rootPlace
  dsimp only
  split
  · rename_i z hz
    split
    · exact h
    · split
      · exact h.placeFor
      · exact h.placeFor.of_eq hz
  · exact h.placeFor

theorem see {x : Stream} {p : Spot} (h : s.memoriesCanonical) : (s.see x p).memoriesCanonical := h.seeVersion

theorem rootRead {x : Stream} {e : Nat} {t : TensorV} {c : List Nat} {side : Bool} (h : s.memoriesCanonical) :
    (s.rootRead x e t c side).canonical :=
  h.rootPlace.bind fun _ _ h => h.noteRead.see

theorem rootUse {x : Stream} {e : Nat} {t : TensorV} {c : List Nat} {side : Bool} (h : s.memoriesCanonical) :
    (s.rootUse x e t c side).canonical :=
  h.rootRead.bind fun _ _ h => h.sound h

theorem groupPlaces {x : Stream} {e : Nat} {t : TensorV} {c : List Nat} {side write : Bool} (h : s.memoriesCanonical) :
    (s.groupPlaces x e t c side write).canonical :=
  h.rootPlace.bind fun _ _ h => h

theorem groupValues {x : Stream} {ps : List Spot} {panel : Nat} (h : s.memoriesCanonical) : (s.groupValues x ps panel).canonical :=
  (h.noteRead.foldl fun _ _ h => h.see).sound (h.noteRead.foldl fun _ _ h => h.see)

theorem groupView {x : Stream} {e : Nat} {t : TensorV} {c : List Nat} (h : s.memoriesCanonical) : (s.groupView x e t c).canonical := by
  unfold State.groupView
  dsimp only
  split
  · exact h
  · exact h.rootUse.bind fun _ _ h => h.groupPlaces.bind fun _ _ h => h.groupValues.bind fun _ _ h => h.onStream

theorem storedSource {x : Stream} {e : Nat} {t : TensorV} {c : List Nat} (h : s.memoriesCanonical) : (s.storedSource x e t c).canonical :=
  .of_if (h.groupView.bind fun _ _ h => h.flagCtx) h.rootRead

theorem tensorSource {x : Stream} {e : Nat} {t : TensorV} {c : List Nat} (h : s.memoriesCanonical) : (s.tensorSource x e t c).canonical :=
  .of_if (h.rootUse.bind fun _ _ h => .of_if h (.of_if h.storedSource (.of_if h.storedSource h))) h.storedSource

theorem rootWrite {x : Stream} {e : Nat} {t : TensorV} {c : List Nat} {mode v : Nat} {bad whole : Bool} (h : s.memoriesCanonical) :
    (s.rootWrite x e t c mode v bad whole).canonical :=
  h.rootPlace.bind fun _ _ h =>
    (of_if h h.see).sound ((of_if h h.see).streamWrites.bind fun _ _ h => (of_if h.noteWrite h.noteWrite.noteRead).flagCtx)

theorem emit {o : Out} (h : s.memoriesCanonical) : (s.emit o).memoriesCanonical := h

theorem sendWrite {c t r d o p : Nat} {bs : List Piece} {z : State} (h : s.memoriesCanonical) (e : s.sendWrite c t r d o bs = some (p, z)) :
    z.memoriesCanonical := by
  obtain ⟨q, -, e⟩ := Option.map_eq_some_iff.1 e
  cases e
  exact h.onTile fun _ h => h

theorem sendToken {c t r d n p : Nat} {k : Fin 64} {z : State} (h : s.memoriesCanonical) (e : s.sendToken c t r d k n = some (p, z)) :
    z.memoriesCanonical := by
  obtain ⟨q, -, e⟩ := Option.map_eq_some_iff.1 e
  cases e
  exact h

theorem openRequest {x : Stream} {port e : Nat} {write : Bool} (h : s.memoriesCanonical) :
    (s.openRequest x port e write).2.memoriesCanonical := h

theorem flushRun {x : Stream} {r : Run} (h : s.memoriesCanonical) : (s.flushRun x r).canonical := by
  unfold State.flushRun
  dsimp only
  split
  · exact h.onStream.onStream
  · split
    · split
      · exact h
      · exact .of_if h.onStream.emit h
    · split
      · exact h
      · exact (h.sendWrite ‹_›).onStream.openRequest.onStream

theorem joinRun {x : Stream} {b : BufElem} {off : Nat} {high : Bool} (h : s.memoriesCanonical) : (s.joinRun x b off high).canonical := by
  unfold State.joinRun
  dsimp only
  split
  · exact h.onStream
  · split
    · exact h.onStream
    · exact h.flushRun.bind fun _ _ h => h.onStream

/-! ### The course of a stream -/

theorem gotElement {x : Stream} {e v : Nat} {bad : Bool} {seg : Option Nat} {rows : BitVec 8} {cur : Cursor} (h : s.memoriesCanonical) :
    (s.gotElement x e v bad seg rows cur).memoriesCanonical :=
  h.onStream.unhold

theorem askElement {x : Stream} {e port : Nat} {send : Nat → Out} (h : s.memoriesCanonical) : (s.askElement x e port send).canonical :=
  .of_if h h.openRequest.emit

theorem fetchElement {x : Stream} {e : Nat} {t : Terms} (h : s.memoriesCanonical) : (s.fetchElement x e t).canonical := by
  unfold State.fetchElement
  dsimp only
  split
  · split
    · exact h
    · exact .of_if h (.of_if h h.tensorSource)
  · split
    · split
      · exact h
      · exact h
      · exact h.askElement
    · exact h.readSpad.bind fun _ _ h => h
  · split
    · exact h
    · exact .of_if h.askElement h

theorem readElement {x : Stream} {e : Nat} (h : s.memoriesCanonical) : (s.readElement x e).memoriesCanonical := by
  unfold State.readElement
  split
  · exact h
  · split
    · split
      · exact h
      · have hl := h.takeLane (tile := x.tile) (port := wPort x.src) (width := x.width)
        split
        · exact (hl.of_snd ‹_›).gotElement
        · exact hl.of_snd ‹_›
    · split
      · exact of_if h (h.fetchElement.finish fun _ _ h => h.gotElement)
      · split
        · exact h
        · dsimp only
          split
          · exact h
          · exact h.onStream
          · exact h.gotElement
          · exact h.indexValue.finish fun _ _ h => h.onStream
          · exact h.fetchElement.finish fun _ _ h => h.gotElement

theorem arrived {x : Stream} {id e : Nat} {data : List Byte} (h : s.memoriesCanonical) : (s.arrived x id e data).memoriesCanonical := by
  unfold State.arrived
  dsimp only
  split
  · exact h.onStream
  · split
    · exact h.onStream.gotElement
    · split
      · exact h.onStream.gotElement
      · exact h.onStream

theorem wroteElement {x : Stream} {e r : Nat} {cur : Cursor} (h : s.memoriesCanonical) : (s.wroteElement x e r cur).memoriesCanonical :=
  h.onStream.unhold

theorem putElement {x : Stream} {b : BufElem} {r : Nat} {t : Terms} (h : s.memoriesCanonical) : (s.putElement x b r t).canonical := by
  unfold State.putElement
  apply checked
  · exact h
  · split
    · dsimp only
      split
      · exact h
      · exact .of_if h (.of_if h h.rootWrite)
    · split
      · split
        · exact h
        · exact h.sound h.joinRun
      · exact h.writeSpad

theorem putLane {x : Stream} {b : BufElem} (h : s.memoriesCanonical) : (s.putLane x b).memoriesCanonical := by
  unfold State.putLane
  dsimp only
  split
  · exact h
  · apply wroteElement
    apply onStream
    have hv : (if 32 < x.width then (s.freeNat.1 % 2 ^ 32, s.freeNat.2) else (b.val, s)).2.memoriesCanonical := of_if_snd h.freeNat h
    exact of_if (hv.onTile fun _ h => h) hv

theorem packRing {x : Stream} {b : BufElem} (h : s.memoriesCanonical) : (s.packRing x b).memoriesCanonical := h.onStream.wroteElement

theorem stampGroup {x : Stream} {e : Nat} {t : TensorV} {c : List Nat} (h : s.memoriesCanonical) :
    (s.stampGroup x e t c).memoriesCanonical := by
  unfold State.stampGroup
  dsimp only
  refine Acc.canonical.finish (h.sound ?_) fun _ _ h => h.foldl fun _ _ h => h.wroteElement
  exact h.rootUse.bind fun _ _ h => h.rootPlace.bind fun _ _ h => h.groupPlaces.bind fun _ _ h => h.groupValues.bind fun _ _ h =>
    h.streamWrites.bind fun _ _ h => h.noteWrite.noteWrite.flagCtx

theorem writeStamped {x : Stream} {e : Nat} (h : s.memoriesCanonical) : (s.writeStamped x e).memoriesCanonical := by
  unfold State.writeStamped
  split
  · exact h
  · split
    · exact h
    · split
      · split
        · exact h
        · split
          · exact h.indexValue.finish fun _ _ h => h.onStream
          · exact of_if h.streamTrap (of_if h.streamTrap h.onStream)
          · exact h.onStream
          · exact h.onStream
          · exact h
      · split
        · exact h
        · split
          · exact h.streamTrap
          · exact of_if h h.stampGroup

theorem writeDecoded {x : Stream} {e : Nat} (h : s.memoriesCanonical) : (s.writeDecoded x e).memoriesCanonical := by
  unfold State.writeDecoded
  split
  · exact h
  · split
    · exact h
    · split
      · exact h
      · exact of_if h (h.rootWrite.finish fun _ _ h => h.onStream.unhold)

theorem writeElement {x : Stream} {e r : Nat} (h : s.memoriesCanonical) : (s.writeElement x e r).memoriesCanonical := by
  unfold State.writeElement
  split
  · exact h
  · split
    · exact h.writeDecoded
    · split
      · exact h.writeStamped
      · split
        · split
          · exact of_if ((h.sound (r := fun s => .ok () s) h).finish fun _ _ h => h.putLane) h
          · split
            · exact of_if ((h.checked (r := fun s => .ok () s) h).finish fun _ _ h => h.packRing) h
            · split
              · exact h
              · split
                · exact h.putElement.finish fun _ _ h => h.wroteElement
                · split
                  · exact h
                  · split
                    · exact h.streamTrap
                    · exact h.indexValue.finish fun _ _ h => h.onStream
                    · exact h.onStream
                    · exact h.onStream
                    · exact h.putElement.finish fun _ _ h => h.wroteElement
        · split
          · exact h
          · split
            · exact h
            · exact h.indexValue.finish fun _ _ h => h.onStream
            · exact h.onStream
            · exact h.onStream
            · exact h.streamTrap

theorem execStreamElementTransfer {t n e r : Nat} {w : Bool} (h : s.memoriesCanonical) :
    CanonicalOut (execStreamElementTransfer t n e r w s) := by
  unfold Machine.execStreamElementTransfer
  split
  · exact .of_if (of_if h.writeElement h.readElement) h
  · exact h

theorem putRingWord {x : Stream} {r : Ring} (h : s.memoriesCanonical) : (s.putRingWord x r).memoriesCanonical :=
  h.grant.finish fun _ _ h => ((of_if (h.writeLoc.foldl fun _ _ h => h.markBad) h.writeLoc).onCtx.onStream).token

theorem execRingWordWrite {t n : Nat} (h : s.memoriesCanonical) : CanonicalOut (execRingWordWrite t n s) := by
  unfold Machine.execRingWordWrite
  split
  · dsimp only
    split
    · exact .of_if h h.putRingWord
    · exact h
  · exact h

theorem tellRead {x : Stream} (h : s.memoriesCanonical) : (s.tellRead x).memoriesCanonical := of_if h.onStream.token h

theorem decodeStream {x : Stream} (h : s.memoriesCanonical) : (s.decodeStream x).memoriesCanonical := by
  unfold State.decodeStream
  split
  · exact h.streamTrap
  · exact of_if h.streamTrap h.onStream

theorem execStreamReadDone {t n : Nat} (h : s.memoriesCanonical) : CanonicalOut (execStreamReadDone t n s) := by
  unfold Machine.execStreamReadDone
  split
  · exact .of_if h (.of_if (.of_if h h.tellRead.decodeStream) (.of_if h.tellRead h))
  · exact h

theorem capture {k id : Nat} {w : EscKind} (h : s.memoriesCanonical) : (s.capture k id w).2.memoriesCanonical := by
  unfold State.capture
  split
  · exact h
  · split
    · exact h
    · exact of_if_snd h (of_if_snd h.onKernel (of_if_snd h.onKernel h.abort))

theorem finishStream {x : Stream} (h : s.memoriesCanonical) : (s.finishStream x).memoriesCanonical := by
  unfold State.finishStream
  apply endStream
  dsimp only
  split
  · apply passEmpty
    exact of_if (h.onTile fun _ h => h) h
  · exact of_if (h.onTile fun _ h => h) h

theorem notifyAway {x : Stream} (h : s.memoriesCanonical) : (s.notifyAway x).canonical := by
  unfold State.notifyAway
  split
  · exact h
  · exact (h.sendToken ‹_›).openRequest.onStream

theorem tellDone {x : Stream} {d : Nat} (h : s.memoriesCanonical) : (s.tellDone x d).memoriesCanonical :=
  of_if h (of_if h.token.finishStream h.token.onStream)

theorem completeStream {x : Stream} {d : Nat} (h : s.memoriesCanonical) : (s.completeStream x d).memoriesCanonical := by
  unfold State.completeStream
  split
  · split
    · exact h.capture.of_snd ‹_›
    · exact (h.capture.of_snd ‹_›).token.finishStream
  · exact of_if h.tellDone (of_if h.finishStream (h.notifyAway.finish fun _ _ h => h))

theorem execStreamComplete {t n d : Nat} (h : s.memoriesCanonical) : CanonicalOut (execStreamComplete t n d s) := by
  unfold Machine.execStreamComplete
  split
  · split
    · exact h
    · split
      · exact of_if (h.flushRun.finish fun _ _ h => h) h
      · exact of_if h.completeStream h
  · exact h

theorem acknowledged {x : Stream} {id : Nat} (h : s.memoriesCanonical) : (s.acknowledged x id).memoriesCanonical :=
  of_if h.onStream.finishStream h.onStream

/-! ### Ring commands -/

theorem passValue {x : PassAt} (h : s.memoriesCanonical) : (s.passValue x).canonical := by
  have hw : ((s.seenVersion none (lineOfAddr x.1.phys)).elim (.ok 0 0, s) s.walkVersion).2.memoriesCanonical := by
    cases s.seenVersion none (lineOfAddr x.1.phys) with
    | none => exact h
    | some v => exact h.walkVersion
  unfold State.passValue
  dsimp only
  split
  · exact hw.of_snd ‹_›
  · exact .of_if (hw.of_snd ‹_›) (hw.of_snd ‹_›)

theorem passDecayed {t : TensorV} {v age : Nat} (h : s.memoriesCanonical) :
    (s.passDecayed t v age).2.memoriesCanonical := of_if_snd h h.freeNat

theorem passWrite {ws : List (Spot × List Byte)} (h : s.memoriesCanonical) : (s.passWrite ws).canonical := by
  unfold State.passWrite
  split
  · exact h.settleCopies.of_snd ‹_›
  · exact h.settleCopies.of_snd ‹_›
  · exact (h.settleCopies.of_snd ‹_›).foldl fun _ _ h => h.putHbm

theorem accAll {α β : Type} {f : α → State → Acc β} {l : List α} (h : s.memoriesCanonical)
    (hf : ∀ a s, s.memoriesCanonical → (f a s).canonical) : (accAll f l s).canonical := by
  induction l generalizing s with
  | nil => exact h
  | cons a l ih => exact (hf a s h).bind fun _ _ h => (ih h).bind fun _ _ h => h

theorem passGroup {c ticket : Nat} {rule : Nat → Nat → Rebase} {t : TensorV} {co : List Nat} (h : s.memoriesCanonical) :
    (s.passGroup c ticket rule t co).canonical := by
  unfold State.passGroup
  extract_lets place rewrite
  have hp {t co w s} (h : s.memoriesCanonical) : (place t co w s).canonical := h.placeFor.bind fun _ _ h => h
  have hr {n value s} (h : s.memoriesCanonical) (hv : ∀ p s, s.memoriesCanonical → (value p s).canonical) : (rewrite n value s).canonical :=
    (hp h).bind fun _ _ h => (hp h).bind fun _ _ h => (h.accAll hv).bind fun _ _ h => h.passWrite
  refine (hp h).bind fun _ _ h => h.passValue.bind fun _ _ h => ?_
  split
  · exact h
  · exact (hp h).bind fun _ _ h => h.passWrite
  · exact hr h fun _ _ h => h
  · exact hr h fun _ _ h => h.passValue.bind fun _ _ h => h.passDecayed

theorem passGroups {c ticket : Nat} {rule : Nat → Nat → Rebase} {l : List (TensorV × List Nat)} {n : Nat} (h : s.memoriesCanonical) :
    (State.passGroups c ticket rule l n s).2.canonical := by
  induction l generalizing n s with
  | nil => exact h
  | cons a l ih =>
    have hg {t co} := h.passGroup (c := c) (ticket := ticket) (rule := rule) (t := t) (co := co)
    unfold State.passGroups
    split
    · exact ih (hg.of_ok ‹_›)
    · exact hg

theorem runPass {c ticket : Nat} {rule : Nat → Nat → Rebase} {p : Pass} (h : s.memoriesCanonical) :
    (s.runPass c ticket rule p).2.canonical := by
  have hg := h.passGroups (c := c) (ticket := ticket) (rule := rule) (l := p.groups.drop p.past) (n := p.past)
  unfold State.runPass
  split
  · exact h
  · split
    · rename_i e
      exact (hg.of_eq (congrArg Prod.snd e)).unhold
    · rename_i e
      exact (hg.of_eq (congrArg Prod.snd e)).unhold
    · exact hg

/-! ### Barriers -/

theorem onBarView {t : Nat} {u : Bool} {b : Fin 64} {f : BarView → BarView} (h : s.memoriesCanonical) :
    (s.onBarView t u b f).memoriesCanonical :=
  h.onCtx

theorem onBarrier {die b : Nat} {f : Barrier → Barrier} (h : s.memoriesCanonical) : (s.onBarrier die b f).memoriesCanonical := h

theorem request {b : Fin 64} {arm : Option (Nat × Bool)} {w : Nat} (h : s.memoriesCanonical) :
    (s.request b arm w).memoriesCanonical := h.fresh

theorem outUp {b : Fin 64} (h : s.memoriesCanonical) : (s.outUp b).memoriesCanonical := h.onBarView

theorem execBarwRelease {t : Nat} {u : Bool} (h : s.memoriesCanonical) : CanonicalOut (execBarwRelease t u s) := by
  unfold Machine.execBarwRelease
  split
  · exact .of_if h h.onCtx
  · exact h

theorem barrierFault {g t : Nat} {c : Cause} (h : s.memoriesCanonical) : (s.barrierFault g t c).memoriesCanonical := h.tileFault

theorem arrive {g : Group} {die : Nat} {b : Fin 64} {t w : Nat} (h : s.memoriesCanonical) : (s.arrive g die b t w).memoriesCanonical := by
  unfold State.arrive
  dsimp only
  split
  · exact of_if h.onBarView.barrierFault h.onBarView.onBarView.onBarrier
  · exact of_if h.onBarView.barrierFault h.onBarView.onBarView.onBarrier
  · exact h.onBarrier

theorem applyHeld {g : Group} {die : Nat} {b : Fin 64} (h : s.memoriesCanonical) : (s.applyHeld g die b).memoriesCanonical :=
  h.onBarrier.foldl fun _ _ h => h.arrive

theorem landed {r : BReq} (h : s.memoriesCanonical) : (s.landed r).memoriesCanonical := h

theorem execBarrierRequestLand {n : Nat} (h : s.memoriesCanonical) : CanonicalOut (execBarrierRequestLand n s) := by
  unfold Machine.execBarrierRequestLand
  split
  · exact h
  · split
    · split
      · exact h
      · dsimp only
        split
        · exact h.landed.barrierFault
        · exact .of_if h.landed.barrierFault (of_if h.landed.onBarrier.applyHeld h.landed.onBarrier)
    · exact h
    · exact h

theorem execBarrierArrivalLand {n : Nat} (h : s.memoriesCanonical) : CanonicalOut (execBarrierArrivalLand n s) := by
  unfold Machine.execBarrierArrivalLand
  split
  · exact h
  · split
    · split
      · exact h
      · dsimp only
        split
        · exact h.landed.onBarView.barrierFault
        · exact h.landed.onBarrier.arrive
    · exact h
    · exact h

theorem execBarrierRelease {e b : Nat} (h : s.memoriesCanonical) : CanonicalOut (execBarrierRelease e b s) := by
  unfold Machine.execBarrierRelease
  dsimp only
  split
  · exact .of_if h (of_if ((h.foldl fun _ _ h => h.onBarView).onBarrier.applyHeld) ((h.foldl fun _ _ h => h.onBarView).onBarrier))
  · exact h

theorem unbindBarriers {g : Nat} (h : s.memoriesCanonical) : (s.unbindBarriers g).memoriesCanonical := h

/-! ### The matrix array -/

theorem matrixCommand {f : Option (Cause × Word)} {op : MOp} {wa wb : Wide} {n : Nat} {k d : Fin 64} (h : s.memoriesCanonical) :
    CanonicalOut (s.matrixCommand f op wa wb n k d) := by
  unfold State.matrixCommand
  apply notInHandler
  · exact h
  · split
    · exact h.trap
    · exact h.fresh.onTile fun _ h => h

theorem product {op : MOp} {a b : Fin 32} {k d : Fin 64} (h : s.memoriesCanonical) : CanonicalOut (s.product op a b k d) := h.matrixCommand

theorem execZacc {p : Fin 4} {kind : Bool} {k d : Fin 64} (h : s.memoriesCanonical) :
    CanonicalOut (execZacc p kind k d s) := h.matrixCommand

theorem onMx {t : Nat} {f : Matrix → Matrix} (h : s.memoriesCanonical) : (s.onMx t f).memoriesCanonical := h.onTile fun _ h => h

theorem startMatrix {t : Nat} {c : MCmd} (h : s.memoriesCanonical) : (s.startMatrix t c).memoriesCanonical :=
  of_if h.raise.onMx (of_if h.raise.onMx ((of_if h h.onCtx).onMx))

theorem cutMatrix {t id now : Nat} (h : s.memoriesCanonical) : (s.cutMatrix t id now).memoriesCanonical := h.onMx

theorem spoilMatrix {t now : Nat} {c : MCmd} (h : s.memoriesCanonical) : (s.spoilMatrix t now c).memoriesCanonical := by
  unfold State.spoilMatrix
  split
  · exact h
  · exact of_if h.spoilCore.cutMatrix h

theorem feedMatrix {t now : Nat} (h : s.memoriesCanonical) :
    (s.feedMatrix t now).memoriesCanonical := (h.foldl fun _ _ h => h.spoilMatrix).onMx

theorem drawRow {t now : Nat} (h : s.memoriesCanonical) : (s.drawRow t now).memoriesCanonical := of_if h.onMx h

theorem drainNow {t now : Nat} {c : MCmd} (h : s.memoriesCanonical) : (s.drainNow t now c).memoriesCanonical := by
  unfold State.drainNow
  split
  · split
    · exact h
    · apply flagCtx
      split
      · apply onCtx
        split
        · exact h.writeLoc.writeLoc
        · exact h.writeLoc
      · split
        · exact h.writeLoc.writeLoc
        · exact h.writeLoc
  · exact h

theorem drainRows {t now : Nat} (h : s.memoriesCanonical) : (s.drainRows t now).memoriesCanonical :=
  of_if ((h.foldl fun _ _ h => h.drainNow).onMx) (h.foldl fun _ _ h => h.drainNow)

theorem waveMatrix {t now : Nat} (h : s.memoriesCanonical) : (s.waveMatrix t now).memoriesCanonical := of_if h h.onMx.flagCtx

/-! ### The course of the Canopy -/

theorem onCn {t : Nat} {f : Canopy → Canopy} (h : s.memoriesCanonical) : (s.onCn t f).memoriesCanonical := h.onTile fun _ h => h

theorem configure {kind : CfgKind} {c : Fin 12} {rows : BitVec 4} {base : Nat} {recs : List Wide} (h : s.memoriesCanonical) :
    CanonicalOut (s.configure kind c rows base recs) :=
  .of_if h.trap h.onCn

theorem execCld {c : Fin 12} {rows : BitVec 4} {a : Fin 64} (h : s.memoriesCanonical) : CanonicalOut (execCld c rows a s) := by
  unfold Machine.execCld
  apply notInHandler
  · exact h
  · split
    · exact h.trap
    · split
      · exact h.trap
      · exact .of_if h.trap h.configure

theorem execCst {c : Fin 12} {rows : BitVec 4} {a : Fin 64} (h : s.memoriesCanonical) : CanonicalOut (execCst c rows a s) := by
  unfold Machine.execCst
  apply notInHandler
  · exact h
  · split
    · exact h.trap
    · split
      · exact h.trap
      · exact h.configure

theorem execCadj {f b : Fin 12} {rows : BitVec 4} (h : s.memoriesCanonical) : CanonicalOut (execCadj f b rows s) := by
  unfold Machine.execCadj
  apply notInHandler
  · exact h
  · split
    · exact h.trap
    · split
      · exact h.trap
      · exact h.configure

theorem execCtab {u : Fin 32} {a : Fin 64} (h : s.memoriesCanonical) : CanonicalOut (execCtab u a s) := by
  unfold Machine.execCtab
  apply notInHandler
  · exact h
  · dsimp only
    split
    · exact h.trap
    · split
      · exact h.trap
      · exact h.configure

theorem cutConfig {t : Nat} {u : Bool} {now : Nat} (h : s.memoriesCanonical) : (s.cutConfig t u now).memoriesCanonical := h.onCn

theorem configMove {t : Nat} {u : Bool} {now : Nat} (h : s.memoriesCanonical) : (s.configMove t u now).memoriesCanonical := by
  unfold State.configMove
  split
  · exact h
  · dsimp only
    split
    · apply onCn
      split
      · exact h
      · split
        · exact h.writeLoc
        · exact of_if h.spoilCore.onCn h.onCn
    · split
      · exact h
      · split
        · exact h.writeLoc
        · exact of_if h.spoilCore.onCn h.onCn

theorem landConfig {t : Nat} {u : Bool} {now : Nat} (h : s.memoriesCanonical) : (s.landConfig t u now).memoriesCanonical := by
  unfold State.landConfig
  split
  · exact h
  · split
    · exact h
    · dsimp only
      split
      · exact h
      · exact of_if h.onCn h.raise
      · exact h.onCn
      · exact of_if h.onCn h.raise

theorem landParam {t : Nat} {a : Act} (h : s.memoriesCanonical) : (s.landParam t a).memoriesCanonical := by
  unfold State.landParam
  split
  · exact h.onCn
  · exact h.onCn
  · exact h

theorem landCanopy {t : Nat} {u : Bool} (h : s.memoriesCanonical) : (s.landCanopy t u).memoriesCanonical :=
  (h.foldl fun _ _ h => h.landParam).landConfig.foldl fun _ _ h => h.landParam

theorem startWhorl {t : Nat} {c : WCmd} (h : s.memoriesCanonical) : (s.startWhorl t c).memoriesCanonical := by
  unfold State.startWhorl
  dsimp only
  split
  · exact h.onCn.raise
  · split
    · exact h.onCn.raise
    · split
      · exact (of_if h.onCn h.onCn.onCtx).onCn.raise
      · exact (of_if h.onCn h.onCn.onCtx).onCn.onCn

theorem onWhorl {t id : Nat} {f : Whorl → Whorl} (h : s.memoriesCanonical) : (s.onWhorl t id f).memoriesCanonical := h.onCn

theorem whorlTrap {t : Nat} {w : Whorl} {m : Nat} {c : Cause} (h : s.memoriesCanonical) : (s.whorlTrap t w m c).memoriesCanonical := by
  unfold State.whorlTrap
  dsimp only
  split
  · exact h.onWhorl.raise
  · split
    · exact h.onWhorl.raiseAsync
    · exact h.onWhorl

theorem fireWhorl {t : Nat} {w : Whorl} (h : s.memoriesCanonical) : (s.fireWhorl t w).memoriesCanonical := by
  unfold State.fireWhorl
  extract_lets cn us first head spent
  split
  refine of_if h ?_
  split
  · exact h.whorlTrap
  · exact h.onCn.onWhorl

theorem execWhorlFire {t c : Nat} (h : s.memoriesCanonical) : CanonicalOut (execWhorlFire t c s) := by
  unfold Machine.execWhorlFire
  split
  · exact h.fireWhorl
  · exact h

theorem mxqResult {r : Wide} {f : Firing} {st : UState} (h : s.memoriesCanonical) : (s.mxqResult r f st).2.memoriesCanonical := by
  unfold State.mxqResult
  extract_lets word own second closes other
  clear_value other
  cases other with
  | some o => exact h
  | none => exact h.freeNat

theorem noteUnit {t id m : Nat} {o : UOut} {st : UState} (h : s.memoriesCanonical) : (s.noteUnit t id m o st).memoriesCanonical := h.onWhorl

theorem readBlock {t id m u : Nat} {r : Wide} {st : UState} (h : s.memoriesCanonical) :
    (s.readBlock t id m u r st).memoriesCanonical := h.onWhorl

theorem blockResults {t : Nat} {w : Whorl} {us : List (Nat × Wide)} {f : Firing} (h : s.memoriesCanonical) :
    (s.blockResults t w us f).memoriesCanonical := by
  unfold State.blockResults
  apply foldl
  · exact h
  · intro s x h
    split
    split
    · split
      · split
        exact (h.mxqResult.of_snd ‹_›).noteUnit.flagCtx
      · exact h
    · exact h

theorem readUnits {t : Nat} {w : Whorl} {us : List (Nat × Wide)} {f : Firing} (h : s.memoriesCanonical) :
    (s.readUnits t w us f).memoriesCanonical := by
  unfold State.readUnits
  apply foldl
  · exact h
  · intro s x h
    split
    split
    · exact h
    · split
      · exact h
      · split
        dsimp only
        split
        · exact h.whorlTrap
        · exact of_if h.flagCtx.readBlock h.flagCtx.noteUnit

theorem deliver {t : Nat} {w : Whorl} {us : List (Nat × Wide)} {f : Firing} (h : s.memoriesCanonical) :
    (s.deliver t w us f).memoriesCanonical :=
  of_if h h.onCn

theorem pipeOut {t : Nat} (h : s.memoriesCanonical) : (s.pipeOut t).memoriesCanonical :=
  h.foldl fun _ _ h => (h.foldl fun _ _ h => h.blockResults).foldl fun _ _ h => h.deliver

theorem pipeIn {t : Nat} (h : s.memoriesCanonical) :
    (s.pipeIn t).memoriesCanonical := h.foldl fun _ _ h => (h.foldl fun _ _ h => h.readUnits).onWhorl

theorem execWhorlDisarm {t c : Nat} (h : s.memoriesCanonical) : CanonicalOut (execWhorlDisarm t c s) := by
  unfold Machine.execWhorlDisarm
  split
  · exact h
  · exact .of_if h (onCn h)

theorem execCdrainToken {t n : Nat} (h : s.memoriesCanonical) : CanonicalOut (execCdrainToken t n s) := by
  unfold Machine.execCdrainToken
  split
  · exact h
  · exact .of_if h.onCn.token h

theorem startEngine {t c : Nat} (h : s.memoriesCanonical) : (s.startEngine t c).memoriesCanonical := by
  unfold State.startEngine
  split
  · exact of_if h.startMatrix h
  · split
    · exact of_if h.startWhorl h
    · exact h

/-! ### The command queue -/

theorem execCmdqDispatch {t : Nat} {u : Bool} (h : s.memoriesCanonical) : CanonicalOut (execCmdqDispatch t u s) := by
  unfold Machine.execCmdqDispatch
  split
  · exact h
  · extract_lets g a
    have ha : a.memoriesCanonical := h.onCtx
    split
    · exact ha
    · exact ha
    · split
      · exact ha.tileFault
      · rename_i e
        have hz := ha.sendToken e
        exact hz
    · exact ha
    · exact ha

theorem execTokDelivery {n : Nat} (h : s.memoriesCanonical) : CanonicalOut (execTokDelivery n s) := by
  unfold Machine.execTokDelivery
  split
  · exact h
  · exact of_if (token h) h

theorem execTdsyncDone {n : Nat} (h : s.memoriesCanonical) : CanonicalOut (execTdsyncDone n s) := by
  unfold Machine.execTdsyncDone
  split
  · exact h
  · extract_lets _ a b
    have ha : a.memoriesCanonical := h
    have hb : b.memoriesCanonical := ha.dropDesc.tensorView
    exact of_if hb.token hb

theorem execDecoderAssign (h : s.memoriesCanonical) : CanonicalOut (execDecoderAssign s) := by
  unfold Machine.execDecoderAssign
  dsimp only
  split
  · exact h
  · exact h

theorem execAsyncFaultReport {n : Nat} (h : s.memoriesCanonical) : CanonicalOut (execAsyncFaultReport n s) := by
  unfold Machine.execAsyncFaultReport
  split
  · exact h
  · exact raiseAsync h

/-! ### What the steps of the Crown share -/

theorem whenRunning {f : State} (h : s.memoriesCanonical) (hf : f.memoriesCanonical) : CanonicalOut (s.whenRunning f) := .of_if hf h

theorem msix {v : Nat} (h : s.memoriesCanonical) : (s.msix v).memoriesCanonical := of_if h.emit h

theorem crownWrite {a : Nat} {bs : List Byte} (h : s.memoriesCanonical) : (s.crownWrite a bs).memoriesCanonical :=
  (h.foldl fun _ _ h => h.settleLine).landHbm

theorem zeroHbm {lo n : Nat} (h : s.memoriesCanonical) : (s.zeroHbm lo n).memoriesCanonical := ⟨Mem.zero_wf _ _ _ h.1, h.2⟩

theorem zeroRegion {i : Nat} (h : s.memoriesCanonical) : (s.zeroRegion i).memoriesCanonical :=
  ⟨h.1, getElem_vmod (·.wf = true) s.shared _ _ h.2.1 fun m hm => Mem.zero_wf m _ _ hm, h.2.2⟩

theorem freeRegions {g : Nat} (h : s.memoriesCanonical) : (s.freeRegions g).memoriesCanonical := h.foldl fun _ _ h => of_if h.zeroRegion h

theorem dropTraffic {g : Nat} (h : s.memoriesCanonical) : (s.dropTraffic g).memoriesCanonical := h.foldl fun _ _ h => h.endStream

theorem freeSlots {g : Group} (h : s.memoriesCanonical) : (s.freeSlots g).memoriesCanonical := by
  unfold State.freeSlots
  split <;> exact h

theorem releaseGroup {id : Nat} (h : s.memoriesCanonical) : (s.releaseGroup id).memoriesCanonical := by
  unfold State.releaseGroup
  split
  · exact h
  · extract_lets a b c _ d _ _ _ _ z
    have ha : a.memoriesCanonical := h.dropTraffic.freeSlots
    have hb : b.memoriesCanonical := of_if ha (ha.foldl fun _ _ h => h.onTile fun _ h => h.vacate)
    have hc : c.memoriesCanonical := unbindBarriers (freeRegions (g := id) hb)
    clear_value c
    have hd : d.memoriesCanonical := hc
    have hz : z.memoriesCanonical := hd
    exact hz.push

theorem settleContext {c : Nat} (h : s.memoriesCanonical) : (s.settleContext c).memoriesCanonical := of_if h h.onCtxt

theorem writeDone {record : Wide} {ticket : Option Nat} {cause : Option Cause} (h : s.memoriesCanonical) :
    (s.writeDone record ticket cause).memoriesCanonical :=
  of_if h h.crownWrite

theorem endRecord {k : Kernel} (h : s.memoriesCanonical) : (s.endRecord k).memoriesCanonical := h.onQueue

theorem endKernel {k : Kernel} {c : Option Cause} (h : s.memoriesCanonical) : (s.endKernel k c).memoriesCanonical := by
  have hk : ((s.writeDone k.record k.ticket c).endRecord k).memoriesCanonical := h.writeDone.endRecord
  exact settleContext hk

theorem takeSegment {g : Nat} {z : State} (h : s.memoriesCanonical) (e : s.takeSegment = some (g, z)) : z.memoriesCanonical := by
  unfold State.takeSegment at e
  split at e
  · cases e
  · cases e
    exact of_if (msix h) h

theorem passHead {q : Nat} (h : s.memoriesCanonical) : (s.passHead q).memoriesCanonical := of_if (of_if h h) h

theorem crossTail {q : Nat} {z : State} (h : s.memoriesCanonical) (e : s.crossTail q = some z) : z.memoriesCanonical := by
  unfold State.crossTail at e
  dsimp only at e
  split at e
  · split at e
    · cases e
    · cases e
      exact (h.takeSegment ‹_›).crownWrite.crownWrite.onQueue.passHead
  · cases e
    exact h.onQueue.passHead

theorem settlePool {n : Nat} (h : s.memoriesCanonical) : (State.settlePool n s).memoriesCanonical := by
  induction n generalizing s with
  | zero => exact h
  | succ n ih =>
    -- `of_if` looks under the definition; `unfold` would compute its range of 2,048 queues.
    refine of_if h ?_
    split
    · exact h
    · rename_i q _
      cases e : s.crossTail q with
      | none => exact h
      | some z => exact ih (h.crossTail e)

theorem reachTail {q : Nat} (h : s.memoriesCanonical) : (s.reachTail q).memoriesCanonical := by
  unfold State.reachTail
  dsimp only
  split
  · exact h
  · split
    · exact (h.crossTail ‹_›).settlePool
    · exact h.onQueue.record

theorem publish {q n : Nat} (h : s.memoriesCanonical) : (s.publish q n).memoriesCanonical := h.onQueue

theorem popHead {q : Nat} (h : s.memoriesCanonical) : (s.popHead q).memoriesCanonical := h.onQueue.passHead.settlePool

theorem execTrapRecordWrite {c : Fin 64} (h : s.memoriesCanonical) : CanonicalOut (execTrapRecordWrite c s) := by
  unfold Machine.execTrapRecordWrite
  dsimp only
  split
  · exact h
  · split
    · apply done
      split
      · exact h.onCtxt
      · exact h.onCtxt
      · exact h.onCtxt.enterFaulted
    · exact h.crownWrite.onCtxt.msix.settlePool

/-! ### Queues and launches -/

theorem tailWrite {q a : Nat} (h : s.memoriesCanonical) : (s.tailWrite q a).memoriesCanonical := by
  unfold State.tailWrite
  dsimp only
  split
  · exact of_if h.onQueue h.onQueue
  · exact of_if h.onQueue h.publish.reachTail

theorem execSegpoolPush {w : Word} (h : s.memoriesCanonical) : CanonicalOut (execSegpoolPush w s) := by
  unfold Machine.execSegpoolPush
  extract_lets _ _ z
  have hz : z.memoriesCanonical := of_if h h
  exact hz.whenRunning (of_if hz (of_if hz (settlePool hz)))

theorem makeAppend {q : Nat} {a : Append} (h : s.memoriesCanonical) : (s.makeAppend q a).memoriesCanonical :=
  (of_if h.crownWrite.publish.token h.crownWrite.publish).reachTail

theorem execQlaunchAppend {n : Nat} (h : s.memoriesCanonical) : CanonicalOut (execQlaunchAppend n s) := by
  unfold Machine.execQlaunchAppend
  dsimp only
  split
  · exact h
  · exact h.onQueue.tailWrite
  · exact of_if h.onQueue (of_if h.onQueue.makeAppend (of_if h.onQueue h))

theorem retireHead {q : Nat} {c : Cause} (h : s.memoriesCanonical) : (s.retireHead q c).memoriesCanonical := of_if h h.writeDone.popHead

theorem execHeadConsider {q : Nat} (h : s.memoriesCanonical) : CanonicalOut (execHeadConsider q s) := by
  unfold Machine.execHeadConsider
  dsimp only
  split
  · exact h
  · split
    · exact h.retireHead
    · split
      · exact h.onQueue
      · exact h.onQueue.record

theorem wakeTiles {g : Group} (h : s.memoriesCanonical) : (s.wakeTiles g).memoriesCanonical := h.push

theorem startKernel {k : Kernel} {p : Place} (h : s.memoriesCanonical) : (s.startKernel k p).memoriesCanonical := wakeTiles h

theorem newKernel {q : Nat} (h : s.memoriesCanonical) : (s.newKernel q).2.memoriesCanonical := h.fresh

theorem select {z : Selection} (h : s.memoriesCanonical) : (s.select z).memoriesCanonical := h

theorem execKernelDispatch {y : Bool} {n : Nat} {p : Place} (h : s.memoriesCanonical) : CanonicalOut (execKernelDispatch y n p s) := by
  unfold Machine.execKernelDispatch
  split
  · exact of_if h h
  · extract_lets g _ a
    have ha : a.memoriesCanonical := h
    refine .of_if h (.of_if (.of_if ?_ (startKernel (popHead (onQueue (newKernel (q := n) ha))))) (.of_if h ?_))
    · split
      · exact startKernel ha
      · exact h
    · split
      · exact h.select
      · exact of_if h h.select

/-! ### Kernels: escapes, commits and aborts -/

theorem postFault {gid tile c : Nat} {ticket : Option Nat} (h : s.memoriesCanonical) : (s.postFault gid tile c ticket).memoriesCanonical :=
  of_if h.tileFault h.record

theorem postWrite {g t c : Nat} {k : Option Nat} {p : Word} {bs : List Piece} {z : State} (h : s.memoriesCanonical)
    (e : s.postWrite g t c k p bs = some z) : z.memoriesCanonical := by
  unfold State.postWrite at e
  split at e
  · cases e
    exact h
  · split at e
    · split at e
      · cases e
        exact h
      · cases e
    · split at e
      · cases e
        exact h.postFault
      · rename_i hw
        cases e
        have hz := h.sendWrite hw
        exact hz

theorem performEscape {g t c : Nat} {u : Bool} {k : Option Nat} {w : EscKind} {z : State} (h : s.memoriesCanonical)
    (e : s.performEscape g t c u k w = some z) : z.memoriesCanonical := by
  unfold State.performEscape at e
  split at e
  · exact h.postWrite e
  · rename_i ws
    cases hw : ws.head? with
    | none =>
      rw [hw] at e
      cases e
      exact h
    | some w =>
      rw [hw] at e
      exact h.postWrite e
  · dsimp only at e
    split at e
    · cases e
      exact h
    · cases e
      exact h

theorem handOver {t : Nat} {u : Bool} {id : Nat} {w : EscKind} (h : s.memoriesCanonical) : (s.handOver t u id w).memoriesCanonical := by
  unfold State.handOver
  split
  · rename_i g _ _
    cases e : s.performEscape g.id t g.ctx u none w with
    | none => exact h
    | some z => exact h.performEscape e
  · have hc {k : Nat} := h.capture (k := k) (id := id) (w := w)
    dsimp only
    split
    · exact of_if hc.token hc
    · exact hc
  · exact h

theorem dropEscape {t : Nat} {u : Bool} {id : Nat} (h : s.memoriesCanonical) :
    (s.dropEscape t u id).memoriesCanonical := h.elim fun _ => h.onKernel

theorem sampleAct {t : Nat} {u : Bool} {a : Act} (h : s.memoriesCanonical) : (s.sampleAct t u a).memoriesCanonical := by
  unfold State.sampleAct
  dsimp only
  split
  · exact h.elim fun _ => h.onKernel
  · exact of_if ((of_if h.raise h).dropEscape.spoilCore) (of_if ((of_if h.raise h).dropEscape.raise) ((of_if h.raise h).handOver))
  · exact of_if h.dropEscape.spoilCore ((of_if h.raise h).handOver)
  · exact h

theorem tryEnd {id : Nat} (h : s.memoriesCanonical) : (s.tryEnd id).memoriesCanonical := by
  unfold State.tryEnd
  split
  · exact h
  · exact of_if h.endKernel h

theorem execEscapesPerformed {k : Nat} (h : s.memoriesCanonical) : CanonicalOut (execEscapesPerformed k s) := by
  unfold Machine.execEscapesPerformed
  split
  · exact h
  · split
    · exact h.tryEnd
    · refine .of_if h ?_
      split
      · exact h
      · exact (h.performEscape ‹_›).onKernel.tryEnd

theorem execKernelFinish {k : Nat} (h : s.memoriesCanonical) : CanonicalOut (execKernelFinish k s) := by
  unfold Machine.execKernelFinish
  split
  · exact .of_if h.releaseGroup.onKernel.tryEnd h
  · exact h

theorem passTicket {c ticket : Nat} (h : s.memoriesCanonical) : (s.passTicket c ticket).memoriesCanonical := h

theorem conflict {k : Kernel} {panels : List Nat} (h : s.memoriesCanonical) :
    (s.conflict k panels).memoriesCanonical := h.foldl fun _ _ h => h.abort

theorem passCommit {k : Kernel} (h : s.memoriesCanonical) : (s.passCommit k).memoriesCanonical := by
  unfold State.passCommit
  extract_lets _ _ _ a _ b c
  have ha : a.memoriesCanonical := h.passTicket.onCtxt
  have hb : b.memoriesCanonical := ha
  have hc : c.memoriesCanonical := hb.onKernel.endRecord
  exact hc.onKernel

theorem execCommitPass {k : Nat} (h : s.memoriesCanonical) : CanonicalOut (execCommitPass k s) := by
  unfold Machine.execCommitPass
  split
  · exact h
  · exact .of_if h h.passCommit.conflict.tryEnd

theorem execSweepDone {c : Nat} (h : s.memoriesCanonical) : CanonicalOut (execSweepDone c s) := by
  unfold Machine.execSweepDone
  split
  · exact h
  · have hr {c n rule p} := h.runPass (c := c) (ticket := n) (rule := rule) (p := p)
    dsimp only
    split
    · rename_i e
      exact (hr.of_eq (congrArg Prod.snd e)).onKernel.tryEnd
    · rename_i e
      exact (hr.of_eq (congrArg Prod.snd e)).onKernel
    · rename_i e
      exact (hr.of_eq (congrArg Prod.snd e)).onKernel.fatalEvent.tryEnd

theorem execVersionSettle {l n : Nat} (h : s.memoriesCanonical) : CanonicalOut (execVersionSettle l n s) := by
  unfold Machine.execVersionSettle
  dsimp only
  split
  · exact h
  · exact of_if h.settleCopy h

theorem stopGroup {id : Nat} (h : s.memoriesCanonical) : (s.stopGroup id).memoriesCanonical := by
  unfold State.stopGroup
  split
  · exact h
  · exact of_if h.dropTraffic ((h.dropTraffic.foldl fun _ _ h => h.onCtx).onGroup)

theorem execKernelAbort {k : Nat} (h : s.memoriesCanonical) : CanonicalOut (execKernelAbort k s) := by
  unfold Machine.execKernelAbort
  split
  · exact h
  · exact .of_if h ((of_if h.fatalEvent h).stopGroup)

theorem discard {k : Kernel} {c : Cause} (h : s.memoriesCanonical) : (s.discard k c).memoriesCanonical := by
  unfold State.discard
  extract_lets a _ b
  have ha : a.memoriesCanonical := h.releaseGroup
  have hb : b.memoriesCanonical := of_if ha ha
  exact of_if hb.endKernel hb.onKernel.settleContext

theorem execAbortDiscardDone {k : Nat} (h : s.memoriesCanonical) : CanonicalOut (execAbortDiscardDone k s) := by
  unfold Machine.execAbortDiscardDone
  split
  · exact h
  · split
    · exact .of_if h (.of_if h.record.onKernel (.of_if h h.discard))
    · exact h

theorem goInPlace {n : Kernel} (h : s.memoriesCanonical) : (s.goInPlace n).memoriesCanonical := by
  have ht {z : State} (hz : z.memoriesCanonical) : (n.escapes.foldl (fun s e => match e.what, e.held with
      | some (.launch _ _ kd), true => s.token e.tile (n.field 153 151 == 7) kd 1
      | _, _ => s) z).memoriesCanonical := by
    refine hz.foldl fun s e h => ?_
    split
    · exact h.token
    · exact h
  exact ht h

theorem execWriteInPlaceStart {k : Nat} (h : s.memoriesCanonical) : CanonicalOut (execWriteInPlaceStart k s) := by
  unfold Machine.execWriteInPlaceStart
  split
  · exact h
  · exact .of_if h h.goInPlace

theorem execBudgetExpire {k : Nat} (h : s.memoriesCanonical) : CanonicalOut (execBudgetExpire k s) := by
  unfold Machine.execBudgetExpire
  split
  · exact h
  · exact of_if h.abort h

theorem countPool (h : s.memoriesCanonical) : s.countPool.memoriesCanonical := h

theorem pastLines (h : s.memoriesCanonical) : s.pastLines.2.memoriesCanonical := h.countPool.freeNat

/-! ### Save slots -/

variable {s : State}

theorem slotWalk {c n : Nat} {w : Bool} (h : s.memoriesCanonical) : (s.slotWalk c n w).2.memoriesCanonical := by
  unfold State.slotWalk
  dsimp only
  split
  · exact h.flatWalk.of_snd ‹_›
  · exact h.flatWalk

theorem slotWalks {c : Nat} {w : Bool} {l : List Nat} (h : s.memoriesCanonical) : (State.slotWalks c w l s).2.memoriesCanonical := by
  induction l generalizing s with
  | nil => exact h
  | cons i l ih =>
    unfold State.slotWalks
    split
    · have hr := ih (h.slotWalk.of_snd ‹_›)
      split
      · exact hr.of_snd ‹_›
      · exact hr
    · exact h.slotWalk.of_snd ‹_›

theorem saveTile {g : Group} {t a : Nat} (h : s.memoriesCanonical) : (s.saveTile g t a).memoriesCanonical := by
  have hp : (s.tile t).spad.wf = true := (h.tile t).1
  unfold State.saveTile
  exact foldl (foldl ⟨Mem.savedSlot_wf h.1 hp (partHi_le g.urgent), h.2⟩ fun _ _ h => h.putHbm) fun _ _ h => h.markBad

/-- The bytes a slot gives back lie below what the scratchpad keeps, whether heartwood holds them all or some lie above its end. -/
theorem restoredSpad_wf {a : Nat} {m : Mem} (h : s.memoriesCanonical) (hm : m.wf = true) :
    Mem.wf ((if a + 0x1E0000 ≤ hbmEnd then (s.hbm.filter fun c => a ≤ c.1 && c.1 < a + 0x1E0000).map fun c => (c.1 - a, c.2)
      else Mem.cells 0 (s.hbmRead a 0x1E0000)) ++ m.filter fun c => 0x1E0000 ≤ c.1) = true := by
  have hin (c : Host.Cell) (hc : c ∈ s.hbm.filter fun c => a ≤ c.1 && c.1 < a + 0x1E0000) : a ≤ c.1 ∧ c.1 < a + 0x1E0000 := by
    simpa using (List.mem_filter.1 hc).2
  have hlow {n : Mem} (hn : n.wf = true) (hb : ∀ c ∈ n, c.1 < 0x1E0000) : Mem.wf (n ++ m.filter fun c => 0x1E0000 ≤ c.1) = true :=
    Mem.append_wf hn (Mem.filter_wf hm) fun x hx y hy => Nat.lt_of_lt_of_le (hb x hx) (of_decide_eq_true (List.mem_filter.1 hy).2)
  split
  · refine hlow (Mem.map_wf (f := (· - a)) (Mem.filter_wf h.1) fun x hx y hy hxy => ?_) fun x hx => ?_
    · exact Nat.sub_lt_sub_right (hin x hx).1 hxy
    · obtain ⟨d, hd, rfl⟩ := List.mem_map.1 hx
      have := hin d hd
      dsimp only
      omega
  · refine hlow (Mem.cells_wf _ _) fun x hx => ?_
    obtain ⟨_, hget, _⟩ := (Mem.mem_cells _ _ x.1 x.2).1 hx
    simpa using (List.getElem?_eq_some_iff.1 hget).1

theorem restoreTile {g : Group} {x : Saved} {a p i : Nat} (h : s.memoriesCanonical) : (s.restoreTile g x a p i).memoriesCanonical := by
  unfold State.restoreTile
  extract_lets b _ _ _ z
  have hz : z.memoriesCanonical := h.onTile fun x hx => ⟨h.restoredSpad_wf hx.1, hx.2⟩
  exact hz

theorem restoreGroup {g p : Nat} (h : s.memoriesCanonical) : (s.restoreGroup g p).memoriesCanonical := h.onGroup.onKernel

/-! ### Groups -/

theorem withBoot {b : Boot} (h : s.memoriesCanonical) : ({ s with boot := b } : State).memoriesCanonical := h

theorem withRoots {r : Roots} (h : s.memoriesCanonical) : ({ s with roots := r } : State).memoriesCanonical := h

theorem loadData {t dst src n : Nat} (h : s.memoriesCanonical) :
    (s.loadData t dst src n).memoriesCanonical := h.writeLoc.foldl fun _ _ h => h.markBad

theorem loadSection {a t : Nat} {x : Nat × Nat} (h : s.memoriesCanonical) : (s.loadSection a t x).memoriesCanonical := by
  unfold State.loadSection
  exact loadData (onTile h fun y hy => ⟨hy.1, Mem.write_wf y.imem _ _ hy.2⟩)

theorem loadGroup {k : Kernel} {g : Group} (h : s.memoriesCanonical) : (s.loadGroup k g).memoriesCanonical := by
  unfold State.loadGroup
  extract_lets _ _ y z
  have hy : y.memoriesCanonical := h.foldl fun _ _ h => h
  have hz : z.memoriesCanonical := hy.foldl fun s m h => by
    split
    exact (h.foldl fun _ _ h => h.loadSection).onTile fun x hx => Tile.canonical.onCtx hx
  exact hz

theorem execGroupPlace {k : Nat} {p : Place} (h : s.memoriesCanonical) : CanonicalOut (execGroupPlace k p s) := by
  unfold Machine.execGroupPlace
  split
  · exact h
  · exact h.loadGroup.onKernel

theorem execGroupStart {g : Nat} (h : s.memoriesCanonical) : CanonicalOut (execGroupStart g s) := by
  unfold Machine.execGroupStart
  split
  · exact h
  · split
    · exact .of_if h.onGroup.onKernel h
    · exact h

theorem onMembers {g : Group} {f : TileCtx → TileCtx} (h : s.memoriesCanonical) :
    (s.onMembers g f).memoriesCanonical := h.foldl fun _ _ h => h.onCtx

theorem tellTiles {g : Group} (h : s.memoriesCanonical) : (s.tellTiles g).memoriesCanonical := by
  unfold State.tellTiles
  apply foldl
  · exact h
  · intro s x h
    split
    · exact h.onCtx
    · exact h

theorem recordWindow {k : Kernel} {g : Group} {d : Disposal} (h : s.memoriesCanonical) : (s.recordWindow k g d).memoriesCanonical :=
  (h.foldl fun _ _ h => h.record).onGroup

theorem conclude {g : Group} {d : Disposal} (h : s.memoriesCanonical) : (s.conclude g d).memoriesCanonical := by
  unfold State.conclude
  dsimp only
  split
  · exact (h.foldl fun _ _ h => h.onCtx).onGroup
  · exact h.onGroup
  · exact of_if h.releaseGroup h.onKernel.abort

theorem dispose {id : Nat} (h : s.memoriesCanonical) : (s.dispose id).memoriesCanonical := by
  unfold State.dispose
  split
  · exact h
  · dsimp only
    split
    · exact h.tellTiles
    · exact h.tellTiles.conclude
    · exact of_if h.tellTiles (of_if h.tellTiles.recordWindow h.tellTiles.recordWindow.conclude)

theorem startUrgent (h : s.memoriesCanonical) : s.startUrgent.memoriesCanonical := h

theorem execFreezeStop {g : Nat} (h : s.memoriesCanonical) : CanonicalOut (execFreezeStop g s) := by
  unfold Machine.execFreezeStop
  split
  · exact h
  · split
    · exact .of_if h (of_if h.onMembers.freeSlots.onGroup.startUrgent h.onMembers.freeSlots.onGroup.startUrgent.dispose)
    · exact of_if h h.dispose
    · exact h

theorem execGroupResume {g : Nat} (h : s.memoriesCanonical) : CanonicalOut (execGroupResume g s) := by
  unfold Machine.execGroupResume
  split
  · exact h
  · split
    · exact .of_if h h.onMembers.onGroup
    · exact h

theorem endHandlers {g : Group} (h : s.memoriesCanonical) : (s.endHandlers g).memoriesCanonical :=
  of_if h.onMembers.releaseGroup (of_if h.onMembers h.onMembers.onGroup)

theorem execCycleAlarm {t : Nat} {u : Bool} (h : s.memoriesCanonical) : CanonicalOut (execCycleAlarm t u s) := by
  unfold Machine.execCycleAlarm
  split
  · exact h
  · exact of_if h.raise h

theorem execUrgentPause {k : Nat} {p : Place} (h : s.memoriesCanonical) : CanonicalOut (execUrgentPause k p s) := by
  unfold Machine.execUrgentPause
  split
  · exact h
  · extract_lets _ z _
    have hz : z.memoriesCanonical := h.loadGroup.onKernel
    exact .of_if h (startUrgent hz)

theorem execPauseStop {g : Nat} (h : s.memoriesCanonical) : CanonicalOut (execPauseStop g s) := by
  unfold Machine.execPauseStop
  split
  · exact h
  · exact .of_if h (.of_if h.freeSlots.onGroup h.onMembers.onGroup.startUrgent)

theorem execUrgentReleaseResume {g : Nat} (h : s.memoriesCanonical) : CanonicalOut (execUrgentReleaseResume g s) := by
  unfold Machine.execUrgentReleaseResume
  split
  · exact h
  · exact .of_if h h.onGroup

theorem askSwitch {g : Group} (h : s.memoriesCanonical) : (s.askSwitch g).memoriesCanonical := by
  unfold State.askSwitch
  split
  · exact h.record
  · exact onGroup h

theorem execFullSwitch {k : Nat} {v : List Nat} (h : s.memoriesCanonical) : CanonicalOut (execFullSwitch k v s) := by
  unfold Machine.execFullSwitch
  split
  · exact h
  · exact .of_if h (h.foldl fun _ _ h => of_if h h.askSwitch)

theorem saveFault {g : Group} {c : Cause} (h : s.memoriesCanonical) : (s.saveFault g c).memoriesCanonical := h.faultContext

theorem execSwitchSaveDone {g : Nat} (h : s.memoriesCanonical) : CanonicalOut (execSwitchSaveDone g s) := by
  unfold Machine.execSwitchSaveDone
  split
  · exact h
  · split
    · exact h
    · refine .of_if h ?_
      split
      · exact (h.slotWalks.of_snd ‹_›).saveFault
      · exact h.slotWalks.of_snd ‹_›
      · rename_i e
        extract_lets a _ _ b
        have ha : a.memoriesCanonical := (h.slotWalks.of_snd e).foldl fun _ _ h => h.saveTile
        have hb : b.memoriesCanonical := ha
        refine onGroup (foldl hb fun s _ h => h.onTile fun x hx => ?_)
        exact (hx.vacate : (x.vacate false s.gcyc.toNat).canonical)

theorem restoreSlots {g : Group} {as : List Nat} (h : s.memoriesCanonical) : (s.restoreSlots g as).memoriesCanonical := by
  unfold State.restoreSlots
  apply restoreGroup
  apply foldl
  · exact h
  · intro s x h
    split
    split
    · exact h.restoreTile
    · exact h

theorem execRestore {g : Nat} (h : s.memoriesCanonical) : CanonicalOut (execRestore g s) := by
  unfold Machine.execRestore
  split
  · split
    · exact h
    · split
      · exact h.abort
      · split
        · exact (h.slotWalks.of_snd ‹_›).abort
        · exact .of_if ((h.slotWalks.of_snd ‹_›).abort) ((h.slotWalks.of_snd ‹_›).restoreSlots.freeSlots.onGroup)
  · exact h

theorem setPower {t : Nat} {p : Power} (h : s.memoriesCanonical) : (s.setPower t p).memoriesCanonical := h.onTile fun _ h => h

theorem execGatingStart {t : Nat} (h : s.memoriesCanonical) : CanonicalOut (execGatingStart t s) := by
  unfold Machine.execGatingStart
  split
  · exact of_if h.setPower h
  · exact h

theorem execGatingDone {t : Nat} (h : s.memoriesCanonical) : CanonicalOut (execGatingDone t s) := by
  unfold Machine.execGatingDone
  split
  · exact of_if (h.onTile fun _ _ => Tile.reset_canonical) h
  · exact h

theorem execTileWake {t : Nat} (h : s.memoriesCanonical) : CanonicalOut (execTileWake t s) := by
  unfold Machine.execTileWake
  split
  · exact h.setPower
  · exact h.onTile fun _ _ => Tile.reset_canonical
  · exact h

theorem execTileWakeDone {t : Nat} (h : s.memoriesCanonical) : CanonicalOut (execTileWakeDone t s) := by
  unfold Machine.execTileWakeDone
  split
  · exact of_if h.setPower h
  · exact h

theorem manage (h : s.memoriesCanonical) : s.manage.memoriesCanonical := h.msix

theorem execMgmtResume {c : Fin 64} {t : BitVec 9} (h : s.memoriesCanonical) : CanonicalOut (execMgmtResume c t s) := by
  unfold Machine.execMgmtResume
  refine h.whenRunning ?_
  split
  · exact withBoot h
  · exact manage (withBoot h.onGroup)

/-! ### Contexts and page lists -/

theorem ctxDone {status op c arg : Nat} (h : s.memoriesCanonical) : (s.ctxDone status op c arg).memoriesCanonical := withBoot h

theorem ctxEnd {status : Nat} (h : s.memoriesCanonical) : (s.ctxEnd status).memoriesCanonical := h.ctxDone

theorem ctxCommand {f : State} (h : s.memoriesCanonical) (hf : f.memoriesCanonical) : CanonicalOut (s.ctxCommand f) := by
  unfold State.ctxCommand
  exact h.whenRunning (of_if h hf)

theorem create {a : Nat} {w : Bool} (h : s.memoriesCanonical) : (s.create a w).2.memoriesCanonical := by
  unfold State.create
  refine of_if_snd h (of_if_snd h (of_if_snd h ?_))
  split
  rename_i e
  extract_lets c z
  have hz : z.memoriesCanonical := (h.freeNat.of_snd e).onCtxt
  exact hz

theorem execCtxCreate {x : CmdArgs} (h : s.memoriesCanonical) : CanonicalOut (execCtxCreate x s) := by
  unfold Machine.execCtxCreate
  apply ctxCommand
  · exact h
  · split <;> exact (h.create.of_snd ‹_›).ctxDone

theorem disableQueues {c : Nat} (h : s.memoriesCanonical) : (s.disableQueues c).memoriesCanonical := h

theorem killAll {c : Nat} (h : s.memoriesCanonical) : (s.killAll c).memoriesCanonical := h.foldl fun _ _ h => h.abort

theorem execCtxKill {x : CmdArgs} (h : s.memoriesCanonical) : CanonicalOut (execCtxKill x s) := by
  unfold Machine.execCtxKill
  apply ctxCommand
  · exact h
  · split
    · exact h.killAll.onCtxt.ctxDone
    · exact h.killAll.onCtxt.ctxDone
    · exact h.killAll.onCtxt.ctxDone
    · exact h.killAll.ctxDone
    · exact h.ctxDone

theorem execCtxDestroy {x : CmdArgs} (h : s.memoriesCanonical) : CanonicalOut (execCtxDestroy x s) := by
  unfold Machine.execCtxDestroy
  refine h.ctxCommand ?_
  split
  · exact h.ctxDone
  · exact h.ctxDone
  · exact withBoot h.killAll.onCtxt

theorem scrubFrames {r n : Nat} {b w : Bool} (h : s.memoriesCanonical) : (s.scrubFrames r n b w).memoriesCanonical :=
  h.foldl fun s i h => by
    split
    · exact (setEntryBit (h.flatWalk.of_snd ‹_›)).zeroHbm
    · exact h.flatWalk.of_snd ‹_›

theorem execDestroyScrubDone {c : Fin 64} (h : s.memoriesCanonical) : CanonicalOut (execDestroyScrubDone c s) := by
  unfold Machine.execDestroyScrubDone
  refine .of_if h ?_
  extract_lets lines y _ z w v _ _ _ u
  have hy : y.memoriesCanonical := h.foldl fun _ _ h => h.settleLine
  have hz : z.memoriesCanonical := hy
  have hw : w.memoriesCanonical := hz.scrubFrames.scrubFrames
  have hv : v.memoriesCanonical := hw.foldl fun _ _ h => of_if h.zeroRegion h
  have hu : u.memoriesCanonical := hv
  exact .of_if hy hu.onCtxt.ctxEnd

theorem execCtxStepWrite {c : Fin 64} {n : BitVec 48} (h : s.memoriesCanonical) : CanonicalOut (execCtxStepWrite c n s) := by
  unfold Machine.execCtxStepWrite
  exact h.ctxCommand (of_if h.ctxDone (of_if h.ctxDone ⟨h.1, h.2⟩))

theorem execStepWriteDone {c : Fin 64} (h : s.memoriesCanonical) : CanonicalOut (execStepWriteDone c s) := by
  unfold Machine.execStepWriteDone
  split
  · exact h
  · have hr {c n rule p} := h.runPass (c := c) (ticket := n) (rule := rule) (p := p)
    extract_lets set
    have hset {z : State} {l : Option (BitVec 48 × Pass)} (hz : z.memoriesCanonical) : (set z l).memoriesCanonical := hz
    clear_value set
    split
    · rename_i e
      exact (hset (hr.of_eq (congrArg Prod.snd e))).onCtxt.ctxEnd
    · rename_i e
      exact hset (hr.of_eq (congrArg Prod.snd e))
    · rename_i e
      exact (hset (hr.of_eq (congrArg Prod.snd e))).fatalEvent.ctxEnd

theorem execCtxStepRead {x : CmdArgs} (h : s.memoriesCanonical) : CanonicalOut (execCtxStepRead x s) := by
  unfold Machine.execCtxStepRead
  apply ctxCommand
  · exact h
  · split <;> exact h.ctxDone

theorem pgDone {status op c arg : Nat} (h : s.memoriesCanonical) : (s.pgDone status op c arg).memoriesCanonical := withBoot h

theorem pgCommand {f : State} (h : s.memoriesCanonical) (hf : f.memoriesCanonical) : CanonicalOut (s.pgCommand f) := by
  unfold State.pgCommand
  exact h.whenRunning (of_if h hf)

theorem replaceEntry {a new : Nat} (h : s.memoriesCanonical) : (s.replaceEntry a new).memoriesCanonical := h.crownWrite

theorem execPgUpdate {c : Fin 64} {a : BitVec 48} (h : s.memoriesCanonical) : CanonicalOut (execPgUpdate c a s) := by
  unfold Machine.execPgUpdate
  refine h.pgCommand (of_if h.pgDone (of_if h.pgDone ?_))
  extract_lets _ y z w _ _ v
  have hy : y.memoriesCanonical := h.foldl fun _ _ h => h.putVersions
  have hz : z.memoriesCanonical := hy.replaceEntry
  have hw : w.memoriesCanonical := hz.foldl fun _ _ h => h.abort
  have hv : v.memoriesCanonical := hw
  exact withBoot hv.pgDone

theorem execPgAdclear {c : Fin 64} {a : BitVec 48} (h : s.memoriesCanonical) : CanonicalOut (execPgAdclear c a s) := by
  unfold Machine.execPgAdclear
  have hr {w : Nat} : (s.replaceEntry a.toNat w).memoriesCanonical := h.replaceEntry
  exact h.pgCommand (of_if h.pgDone (withBoot hr.pgDone))

theorem execPgWake {c : Fin 64} {a : BitVec 48} (h : s.memoriesCanonical) : CanonicalOut (execPgWake c a s) := by
  unfold Machine.execPgWake
  exact h.pgCommand (of_if (withRoots h.pgDone) h.pgDone)

/-! ### Links -/

theorem execHostBar2Write {a : BitVec 40} {v : List Byte} (h : s.memoriesCanonical) : CanonicalOut (execHostBar2Write a v s) := by
  unfold Machine.execHostBar2Write
  refine .of_if h ?_
  extract_lets lines
  split
  · exact (h.settleCopies.of_snd ‹_›).putHbm
  · have hz := h.settleCopies.of_snd ‹_›
    exact hz
  · rename_i e
    extract_lets z
    have hz : z.memoriesCanonical := (h.settleCopies.of_snd e).foldl fun _ _ h => h.settleLine
    exact .of_if hz hz.landHbm

theorem incoming {q : UalReq} {o : Out'} (h : s.memoriesCanonical) (ho : CanonicalOut o) : CanonicalOut (s.incoming q o) := .of_if ho h

theorem serve {q : UalReq} {n : Nat} {f : State → State} (h : s.memoriesCanonical) (hf : ∀ s, s.memoriesCanonical → (f s).memoriesCanonical) :
    CanonicalOut (s.serve q n f) := by
  refine h.incoming (.of_if h.emit ?_)
  split
  · exact h
  · exact hf _ (h.takeBanks ‹_›)

theorem servedSound {q : UalReq} {n : Nat} {f : State → State} (h : s.memoriesCanonical) (hf : (f s).memoriesCanonical) :
    (s.servedSound q n f).memoriesCanonical := of_if (h.elim fun _ => h.spoil).emit hf

theorem execUalReadRequest {q : UalReq} {n : Nat} (h : s.memoriesCanonical) : CanonicalOut (execUalReadRequest q n s) :=
  h.serve fun _ h => h.servedSound h.emit

theorem countApplied {rank tile : Nat} (h : s.memoriesCanonical) : (s.countApplied rank tile).memoriesCanonical := h

theorem execUalWriteRequest {q : UalReq} {v : List Byte} (h : s.memoriesCanonical) : CanonicalOut (execUalWriteRequest q v s) :=
  h.serve fun _ h => (countApplied h.writeLoc).emit

theorem serveAtomic {q : UalReq} {w : Bool} {f : Nat → Nat} (h : s.memoriesCanonical) : CanonicalOut (s.serveAtomic q w f) :=
  .of_if (h.incoming h.emit) (h.serve fun _ h => h.servedSound h.writeLoc.emit)

theorem execUalAtomicAdd {q : UalReq} {w : Bool} {v : Word} (h : s.memoriesCanonical) :
    CanonicalOut (execUalAtomicAdd q w v s) := h.serveAtomic

theorem execUalAtomicSwap {q : UalReq} {w : Bool} {v : Word} (h : s.memoriesCanonical) :
    CanonicalOut (execUalAtomicSwap q w v s) := h.serveAtomic

theorem execUalAtomicCas {q : UalReq} {w : Bool} {x v : Word} (h : s.memoriesCanonical) :
    CanonicalOut (execUalAtomicCas q w x v s) := h.serveAtomic

theorem execTokenWindowWrite {q : UalReq} {v : List (BitVec 8)} {n : Nat} (h : s.memoriesCanonical) :
    CanonicalOut (execTokenWindowWrite q v n s) := by
  unfold Machine.execTokenWindowWrite
  apply incoming
  · exact h
  · split
    · exact h.emit
    · exact .of_if h.emit (emit h.fresh)

theorem execRemoteTokenLand {n : Nat} (h : s.memoriesCanonical) : CanonicalOut (execRemoteTokenLand n s) := by
  unfold Machine.execRemoteTokenLand
  split
  · exact h
  · exact .of_if h (of_if (token h) h)

theorem failRequest {r : Request} {c : Cause} (h : s.memoriesCanonical) : (s.failRequest r c).memoriesCanonical := by
  unfold State.failRequest
  dsimp only
  split
  · split
    · exact streamTrap h
    · exact h
  · exact tileFault h
  · split
    · exact tileFault h
    · exact record h

theorem execRemoteErrorResponse {n : Nat} (h : s.memoriesCanonical) : CanonicalOut (execRemoteErrorResponse n s) := by
  unfold Machine.execRemoteErrorResponse
  split
  · exact h
  · exact of_if h.failRequest h

theorem execRemoteResponseTimeout {n : Nat} (h : s.memoriesCanonical) : CanonicalOut (execRemoteResponseTimeout n s) := by
  unfold Machine.execRemoteResponseTimeout
  split
  · exact h
  · exact of_if h.failRequest h

theorem answer {r : Request} {v : List Byte} (h : s.memoriesCanonical) : (s.answer r v).memoriesCanonical := by
  unfold State.answer
  dsimp only
  split
  · exact h
  · split
    · exact h
    · exact of_if (acknowledged h) (arrived h)

theorem execRemoteReadResponse {n : Nat} {v : List (BitVec 8)} (h : s.memoriesCanonical) : CanonicalOut (execRemoteReadResponse n v s) := by
  unfold Machine.execRemoteReadResponse
  split
  · exact h
  · exact of_if h.answer h

theorem execHostReadCompletion {n : Nat} {g : Bool} {v : List (BitVec 8)} (h : s.memoriesCanonical) :
    CanonicalOut (execHostReadCompletion n g v s) := by
  unfold Machine.execHostReadCompletion
  split
  · exact h
  · exact of_if h (of_if h.answer h.failRequest)

theorem execCompletionTimeout {n : Nat} (h : s.memoriesCanonical) : CanonicalOut (execCompletionTimeout n s) := by
  unfold Machine.execCompletionTimeout
  split
  · exact h
  · exact h.failRequest

theorem moveLink {p : Nat} {states : List LinkState} {f : Port → Port} (h : s.memoriesCanonical) :
    (s.moveLink p states f).memoriesCanonical :=
  of_if h h

/-! ### The platform -/

theorem execFirmwareVerified {m k v : List (BitVec 8)} (h : s.memoriesCanonical) : CanonicalOut (execFirmwareVerified m k v s) := by
  unfold Machine.execFirmwareVerified
  split
  · exact h
  · split
    · exact h
    · exact h.freeNat

theorem reset : State.reset.memoriesCanonical := by
  refine ⟨rfl, fun d => ?_, fun t => ?_⟩
  · exact (congrArg Mem.wf (Vector.getElem_replicate d.isLt)).trans rfl
  · have e : State.reset.tiles[t] = Tile.reset := Vector.getElem_replicate t.isLt
    rw [e]
    exact Tile.reset_canonical

theorem execResetAssert : CanonicalOut (execResetAssert s) := reset

theorem spDone {status op c arg : Nat} {out : List Byte} (h : s.memoriesCanonical) :
    (s.spDone status op c arg out).memoriesCanonical := withBoot h

theorem writeSpcmd {w : Word} (h : s.memoriesCanonical) : (s.writeSpcmd w).memoriesCanonical := of_if h (of_if h.spDone (withBoot h))

theorem spCommand {n : Nat} {f : Nat → Nat → State} (h : s.memoriesCanonical) (hf : ∀ c a, (f c a).memoriesCanonical) :
    CanonicalOut (s.spCommand n f) := h.whenRunning (of_if (hf _ _) h)

theorem execSpIdkey (h : s.memoriesCanonical) : CanonicalOut (execSpIdkey s) := h.spCommand fun _ _ => h.spDone

theorem execSpQuote (h : s.memoriesCanonical) : CanonicalOut (execSpQuote s) := by
  unfold Machine.execSpQuote
  exact h.spCommand fun _ _ => h.spDone

theorem execSpOwner (h : s.memoriesCanonical) : CanonicalOut (execSpOwner s) :=
  h.spCommand fun _ _ => of_if h.spDone (withBoot h.spDone)

theorem execSpSecureCreate {a : BitVec 48} (h : s.memoriesCanonical) : CanonicalOut (execSpSecureCreate a s) := by
  unfold Machine.execSpSecureCreate
  refine h.spCommand fun c arg => of_if h ?_
  split
  · exact h.spDone
  · refine of_if h.spDone (of_if h.spDone ?_)
    split
    · exact spDone ((withBoot h).create.of_snd ‹_›)
    · exact spDone ((withBoot h).create.of_snd ‹_›)

theorem bringUp {t pc : Nat} (h : s.memoriesCanonical) : (s.bringUp t pc).memoriesCanonical := of_if h (h.fresh.onTile fun _ h => h)

theorem startListed (h : s.memoriesCanonical) : s.startListed.memoriesCanonical := of_if (h.foldl fun _ _ h => h.bringUp) h

theorem writeRegister {a : Nat} {w : Word} (h : s.memoriesCanonical) : (s.writeRegister a w).memoriesCanonical := by
  have hb {b : Boot} : ({ s with boot := b } : State).memoriesCanonical := h
  unfold State.writeRegister
  extract_lets op c
  have hc {c : Nat} {f : Ctxt → Ctxt} : (s.onCtxt c f).memoriesCanonical := h.onCtxt
  refine of_if (of_if hb h) (of_if (of_if hb h) (of_if hb (of_if ?_ (of_if (of_if h hb) (of_if (of_if hb h) (of_if h.writeSpcmd (of_if hb h)))))))
  exact of_if hc (of_if hc h)

theorem debugWrite {t : Nat} {u : Bool} {cr : Nat} {w : Word} (h : s.memoriesCanonical) :
    (s.debugWrite t u cr w).memoriesCanonical := of_if h.onCtx h

theorem execRegisterWrite {p : RegPath} {w : BitVec 64} (h : s.memoriesCanonical) : CanonicalOut (execRegisterWrite p w s) := by
  unfold Machine.execRegisterWrite
  apply whenRunning
  · exact h
  · split
    · exact of_if h.writeRegister h
    · exact h.debugWrite

theorem putWordAt {a : WordAt} {bs : List Byte} (h : s.memoriesCanonical) : (s.putWordAt a bs).memoriesCanonical := by
  unfold State.putWordAt
  split
  · exact h.writeLoc
  · exact h.writeLoc
  · exact h.putHbm

theorem flipWord {a : WordAt} {flip : Wide} (h : s.memoriesCanonical) : (s.flipWord a flip).memoriesCanonical := h.putWordAt.markBad

theorem storageFault {k : Nat} {c : Cause} (h : s.memoriesCanonical) : (s.storageFault k c).memoriesCanonical := by
  unfold State.storageFault
  split
  · exact of_if h.onKernel.fatalEvent h.abort
  · exact h.raiseAsync
  · exact h

theorem execStorageError {e : ErrorSite} {c : Cause} (h : s.memoriesCanonical) : CanonicalOut (execStorageError e c s) := by
  unfold Machine.execStorageError
  split
  · exact of_if h.storageFault h
  · exact of_if h.flipWord h

theorem readings {w : BitVec 16} {c : BitVec 12} (h : s.memoriesCanonical) : (s.readings w c).memoriesCanonical := h

theorem execThrottle {w : BitVec 16} {c : BitVec 12} (h : s.memoriesCanonical) : CanonicalOut (execThrottle w c s) := by
  unfold Machine.execThrottle
  have hr : (s.readings w c).memoriesCanonical := h.readings
  exact of_if (manage hr) h

theorem execThrottleEnd {w : BitVec 16} {c : BitVec 12} (h : s.memoriesCanonical) : CanonicalOut (execThrottleEnd w c s) := by
  unfold Machine.execThrottleEnd
  have hr : (s.readings w c).memoriesCanonical := h.readings
  exact of_if h (manage hr)

theorem tripAll {c : Cause} (h : s.memoriesCanonical) : (s.tripAll c).memoriesCanonical := h.foldl fun _ _ h => h.abort

/-! ### Late reads -/

theorem lateResult {l : Nat} {d : Fin 64} {r : LateRead} (h : s.memoriesCanonical) :
    CanonicalOut (s.lateResult l d r) := h.ifRoom h.resultX.act

theorem fillReads {t : Nat} {u : Bool} (h : s.memoriesCanonical) : (s.fillReads t u).memoriesCanonical := by
  unfold State.fillReads
  apply foldl
  · exact h
  · intro s x h
    split
    · exact of_if h h.onCtx
    · exact h

/-! ### The cycle -/

theorem tick (h : s.memoriesCanonical) : s.tick.memoriesCanonical := by
  unfold State.tick
  extract_lets _ _ _ z w
  have hz : z.memoriesCanonical := h
  have hw : w.memoriesCanonical := hz.countPool.startListed
  exact of_if h (of_if h hw)

theorem landSrel {t : Nat} {u : Bool} (h : s.memoriesCanonical) : (s.landSrel t u).memoriesCanonical := by
  unfold State.landSrel
  apply foldl
  · exact h
  · intro s x h
    split
    · exact of_if h.releaseRing h
    · exact h

theorem dropActs {t : Nat} {u early : Bool} (h : s.memoriesCanonical) : (s.dropActs t u early).memoriesCanonical := h.onCtx

theorem landCtx {t : Nat} {u : Bool} (h : s.memoriesCanonical) : (s.landCtx t u).memoriesCanonical := by
  unfold State.landCtx
  extract_lets a b c d
  have ha : a.memoriesCanonical := of_if h.dropSamples.onCtx h
  have hb : b.memoriesCanonical := of_if ha.drawRow ha
  have hc : c.memoriesCanonical := hb.landWrc
  have hd : d.memoriesCanonical := of_if hc.landSrel.landCanopy hc
  exact hd.dropActs.landRegs

theorem edge (h : s.memoriesCanonical) : s.edge.memoriesCanonical := (h.foldl fun _ _ h => h.landCtx).foldl fun _ _ h => h.pipeOut

theorem popQueue {t : Nat} {u : Bool} (h : s.memoriesCanonical) : (s.popQueue t u).memoriesCanonical := of_if h h.onCtx

theorem cancelParty {x : Touch} (h : s.memoriesCanonical) : (s.cancelParty x).memoriesCanonical := by
  unfold State.cancelParty
  split
  · exact h.cancelCore
  · exact h.cancelCore
  · exact h.cutMatrix
  · exact h.cutConfig

theorem writeBanks {t : Nat} {u : Bool} (h : s.memoriesCanonical) : (s.writeBanks t u).memoriesCanonical :=
  of_if ((h.foldl fun _ _ h => h.performWrite).drainRows) (h.foldl fun _ _ h => h.performWrite)

theorem readBanks {t : Nat} {u : Bool} (h : s.memoriesCanonical) : (s.readBanks t u).memoriesCanonical :=
  of_if (of_if h.sampleAll.configMove h.sampleAll.configMove.feedMatrix) h.sampleAll

theorem dropSpent {t : Nat} {u : Bool} (h : s.memoriesCanonical) : (s.dropSpent t u).memoriesCanonical := h.onCtx

theorem banks (h : s.memoriesCanonical) : s.banks.memoriesCanonical := by
  unfold State.banks
  extract_lets _ a _ _ b c d e f
  have ha : a.memoriesCanonical := h.foldl fun _ _ h => h.sampleCregs.popQueue
  have hb : b.memoriesCanonical := ha.raiseClashes.foldl fun _ _ h => h.cancelParty
  have hc : c.memoriesCanonical := hb
  have hd : d.memoriesCanonical := hc.foldl fun _ _ h => h.writeBanks
  have he : e.memoriesCanonical := hd.foldl fun _ _ h => h.readBanks
  have hf : f.memoriesCanonical := he.foldl fun _ _ h => of_if h.waveMatrix h
  exact hf.foldl fun _ _ h => h.dropSpent

theorem lateActs {t : Nat} {u : Bool} (h : s.memoriesCanonical) : (s.lateActs t u).memoriesCanonical :=
  (h.fillReads.sampleCregs.foldl fun _ _ h => of_if h.sampleAct h).dropActs

theorem noteSync {g : Group} (h : s.memoriesCanonical) : (s.noteSync g).memoriesCanonical := by
  unfold State.noteSync
  split
  · split
    · exact h.onGroup
    · exact h
  · exact h

theorem noteHandlers {g : Group} (h : s.memoriesCanonical) : (s.noteHandlers g).memoriesCanonical := of_if h.endHandlers h

theorem late (h : s.memoriesCanonical) : s.late.memoriesCanonical :=
  (((h.foldl fun _ _ h => h.lateActs).foldl fun _ _ h => h.noteSync).foldl fun _ _ h => h.noteHandlers).push

theorem showToken {x : Nat × Bool × Fin 64 × Nat × Option Nat} (h : s.memoriesCanonical) : (s.showToken x).memoriesCanonical := h.onCtx

theorem close (h : s.memoriesCanonical) : s.close.memoriesCanonical := foldl h fun _ _ h => h.showToken

theorem phase {w : Work} (h : s.memoriesCanonical) : (s.phase w).memoriesCanonical := by
  cases w with
  | event | issue => exact h
  | releases | fires | issues | starts => exact h.push
  | edge => exact h.edge
  | units => exact h.foldl fun _ _ h => h.pipeIn
  | banks => exact h.banks
  | late => exact h.late
  | device | host => exact push h
  | close => exact h.close

/-! ### Dispatch and the step -/

theorem exec {i : Instr} (h : s.memoriesCanonical) : CanonicalOut (exec i s) := by
  cases i with
  | nop => exact h
  | add | sub | and | or | xor | shl | shr | sra | minS | minZ | maxS | maxZ | clz | ctz | popc | sel | ptag | pspace | addi | andi | ori |
    xori | shli | shri | srai | limm | lsh18 | mul | mulhS | mulhZ | divS | divZ | remS | remZ | cyc | gcyc | vext =>
    exact h.resultX
  | cmpEq | cmpNe | cmpLtS | cmpLtZ | cmpLeS | cmpLeZ | cmpEqImm | cmpNeImm | cmpLtSImm | cmpLtZImm | cmpLeSImm | cmpLeZImm | pand | por |
    pxor | pnot =>
    exact h.resultP
  | poff | padd => exact h.putOffset
  | tchk => exact .of_if h h.trap
  | rfac | vcmp | vsel | vshuf => exact h.result
  | br => exact h.branch
  | brl => exact .of_if h.trap (of_if h.branch.resultX h.branch)
  | jr | mbr => exact h.absBranch
  | loop | loopi => exact h.openLoop
  | halt | trap => exact h.notInHandler h.trap
  | syncg | waitk | fence | barw => exact h.notInHandler h.hold
  | endK => exact h.notInHandler h.dropSamples.onMe
  | eret => exact .of_if h.onMe h.trap
  | txabort => exact .of_if h.onMe.onGroup.onKernel.abort h.onMe.trap
  | rdc => exact h.execRdc
  | wrc => exact h.execWrc
  | snapr => exact .of_if h.trap (h.ifRoom h.freeNat.resultX)
  | barvw => exact h.notInHandler (.of_if h.trap h.outUp.request.hold)
  | ldS8 | ldZ8 | ldS16 | ldZ16 | ldS32 | ldZ32 | ld64 | vld => exact h.load
  | aadd | aminS | amaxS | aand | aor | axchg | acas | afadd => exact h.atomic
  | st8 | st16 | st32 | st64 | vst => exact h.store
  | wset => exact h.notInHandler h.result
  | wld => exact h.notInHandler h.load
  | wst => exact h.notInHandler h.store
  | wcopy => exact h.notInHandler (.of_if h h.result)
  | smov | smc | sgat2 | sexp | sdec | sport | sring => exact h.streamCommand
  | srel => exact h.notInHandler h.act
  | sbar => exact h.notInHandler h.onMe
  | tok => exact h.notInHandler (.of_if h.trap (.of_if h.trap (.of_if h.trap (.of_if h (.of_if h.trap h.enqueue)))))
  | tdsync => exact h.notInHandler (.of_if h.trap h.enqueue)
  | mmaBf16 | mmaFp16 | mmaE4m3 | mmaE5m2 | mmbMxfp8e4 | mmbMxfp8e5 | mmbMxfp4 | mmbMxint8 | mmbFk8 | mmbFk4 => exact h.product
  | sac | ldacc | drain => exact h.matrixCommand
  | zacc => exact h.execZacc
  | amaxr | amaxc | mstat => exact h.notInHandler h.lateResult
  | cld => exact h.execCld
  | cst => exact h.execCst
  | cctx => exact h.notInHandler (.of_if h.trap h.act)
  | cwhorl => exact h.notInHandler (.of_if h.trap h.fresh.onCn)
  | cparam => exact h.notInHandler (.of_if h.trap (.of_if h.trap (.of_if h.trap h.act)))
  | cadj => exact h.execCadj
  | ctab => exact h.execCtab
  | cdrain => exact h.notInHandler h.fresh.onCn
  | sstat | cstat => exact h.notInHandler h.resultX
  | txstat => exact h.notInHandler (h.ifRoom h.pastLines.resultX)
  | stepr => exact h.notInHandler (.of_if h.resultX h.trap)
  | barm => exact h.notInHandler (.of_if h.trap h.request)
  | barv => exact h.notInHandler (.of_if h (.of_if h.trap h.outUp.request))
  | bars => exact h.notInHandler (.of_if h (.of_if h.trap (.of_if h.trap h.fresh.outUp.enqueue)))
  | stepadv => exact h.notInHandler (.of_if h.trap (.of_if h.trap h.act))
  | esc => exact h.execEsc
  | qlaunch => exact h.execQlaunch
  | vadd | vsub | vmul | vfma | vmin | vmax | vabs | vneg | vshl | vshr | vsra => exact h.elementwise
  | vand | vor | vxor | vnot | vbcast | vperm | vscanAdd | vrng => exact h.resultV
  | vredAdd | vredMax | vredMin | vamax => exact h.reduced
  | vcvt => exact .of_if h.trap (of_if h.result.act h.result)
  | vldg => exact h.execVldg
  | vsts => exact h.execVsts
  | syncgRelease => exact h.execSyncgRelease
  | waitkRelease => exact h.execWaitkRelease
  | fenceRelease => exact h.execFenceRelease
  | barwRelease => exact h.execBarwRelease
  | engineCommandStart => exact h.startEngine
  | cmdqDispatch => exact h.execCmdqDispatch
  | streamElementTransfer => exact h.execStreamElementTransfer
  | ringWordWrite => exact h.execRingWordWrite
  | streamReadDone => exact h.execStreamReadDone
  | streamComplete => exact h.execStreamComplete
  | tokDelivery => exact h.execTokDelivery
  | tdsyncDone => exact h.execTdsyncDone
  | decoderAssign => exact h.execDecoderAssign
  | whorlFire => exact h.execWhorlFire
  | whorlDisarm => exact h.execWhorlDisarm
  | cdrainToken => exact h.execCdrainToken
  | barrierRequestLand => exact h.execBarrierRequestLand
  | barrierArrivalLand => exact h.execBarrierArrivalLand
  | barrierRelease => exact h.execBarrierRelease
  | asyncFaultReport => exact h.execAsyncFaultReport
  | freezeStop => exact h.execFreezeStop
  | groupResume => exact h.execGroupResume
  | cycleAlarm => exact h.execCycleAlarm
  | headConsider => exact h.execHeadConsider
  | kernelDispatch => exact h.execKernelDispatch
  | groupPlace => exact h.execGroupPlace
  | groupStart => exact h.execGroupStart
  | kernelFinish => exact h.execKernelFinish
  | commitPass => exact h.execCommitPass
  | sweepDone => exact h.execSweepDone
  | escapesPerformed => exact h.execEscapesPerformed
  | versionSettle => exact h.execVersionSettle
  | abandonedTicketPass => exact .of_if h h.passTicket
  | kernelAbort => exact h.execKernelAbort
  | abortDiscardDone => exact h.execAbortDiscardDone
  | writeInPlaceStart => exact h.execWriteInPlaceStart
  | budgetExpire => exact h.execBudgetExpire
  | qlaunchAppend => exact h.execQlaunchAppend
  | urgentPause => exact h.execUrgentPause
  | pauseStop => exact h.execPauseStop
  | urgentReleaseResume => exact h.execUrgentReleaseResume
  | fullSwitch => exact h.execFullSwitch
  | switchSaveDone => exact h.execSwitchSaveDone
  | restore => exact h.execRestore
  | gatingStart => exact h.execGatingStart
  | gatingDone => exact h.execGatingDone
  | tileWake => exact h.execTileWake
  | tileWakeDone => exact h.execTileWakeDone
  | ctxCreate => exact h.execCtxCreate
  | ctxSeal => exact h.ctxCommand (of_if h.onCtxt.ctxDone h.ctxDone)
  | ctxQuiesce => exact h.ctxCommand (of_if h.disableQueues.onCtxt.ctxDone h.ctxDone)
  | ctxKill => exact h.execCtxKill
  | ctxDestroy => exact h.execCtxDestroy
  | destroyScrubDone => exact h.execDestroyScrubDone
  | ctxStepWrite => exact h.execCtxStepWrite
  | stepWriteDone => exact h.execStepWriteDone
  | ctxStepRead => exact h.execCtxStepRead
  | qcfgWrite => exact h.whenRunning h.onQueue
  | qtailWrite => exact h.whenRunning (of_if h.tailWrite h.onQueue)
  | segpoolPush => exact h.execSegpoolPush
  | pgUpdate => exact h.execPgUpdate
  | pgAdclear => exact h.execPgAdclear
  | pgWake => exact h.execPgWake
  | tqptrHeadWrite => exact h.whenRunning h.onCtxt
  | trapRecordWrite => exact h.execTrapRecordWrite
  | spIdkey => exact h.execSpIdkey
  | spQuote => exact h.execSpQuote
  | spOwner => exact h.execSpOwner
  | spSecureCreate => exact h.execSpSecureCreate
  | mgmtHalt => exact h.whenRunning (manage h)
  | mgmtResume => exact h.execMgmtResume
  | startctlList | rankWrite => exact h.whenRunning (of_if h h)
  | startctlGo => exact h.whenRunning (of_if h (of_if h h))
  | portstatRetrain => exact .of_if (of_if h h.moveLink) (h.whenRunning h.moveLink)
  | registerWrite => exact h.execRegisterWrite
  | hostBar2Read => exact of_if h (of_if h.emit h.seeLines.emit)
  | hostBar2Write => exact h.execHostBar2Write
  | ualReadRequest => exact h.execUalReadRequest
  | ualWriteRequest => exact h.execUalWriteRequest
  | ualAtomicAdd => exact h.execUalAtomicAdd
  | ualAtomicSwap => exact h.execUalAtomicSwap
  | ualAtomicCas => exact h.execUalAtomicCas
  | tokenWindowWrite => exact h.execTokenWindowWrite
  | remoteTokenLand => exact h.execRemoteTokenLand
  | remoteErrorResponse => exact h.execRemoteErrorResponse
  | remoteResponseTimeout => exact h.execRemoteResponseTimeout
  | hostReadCompletion => exact h.execHostReadCompletion
  | linkTrained | linkTrainingFail | linkError => exact h.moveLink
  | linkTrainedDegraded => exact of_if h.moveLink h
  | linkErrorDrained => exact .of_if h ((h.foldl fun _ _ h => h.failRequest).moveLink)
  | resetRelease => exact .of_if h h
  | firmwareVerified => exact h.execFirmwareVerified
  | throttle => exact h.execThrottle
  | thermalTrip | powerTrip => exact of_if (manage h.readings.tripAll) h
  | storageError => exact h.execStorageError
  | completionTimeout => exact h.execCompletionTimeout
  | remoteReadResponse => exact h.execRemoteReadResponse
  | resetAssert => exact execResetAssert
  | throttleEnd => exact h.execThrottleEnd
  | crownctlWrite => exact h.whenRunning h

theorem runSlot {t : Nat} {u : Bool} {k : Nat} (h : s.memoriesCanonical) : CanonicalOut (s.runSlot t u k) := by
  unfold State.runSlot
  split
  · exact h.slot.of_snd ‹_›
  · rename_i i z e
    have hz : CanonicalOut (Machine.exec i z) := (h.slot.of_snd e).exec
    cases ho : Machine.exec i z with
    | next y =>
      rw [ho] at hz
      exact hz.afterSlot
    | fault | refused => trivial

theorem runEvent {i : Instr} (h : s.memoriesCanonical) : CanonicalOut (s.runEvent i) := by
  have hi : CanonicalOut (Machine.exec i s) := h.exec
  unfold State.runEvent
  cases e : Machine.exec i s with
  | next z =>
    rw [e] at hi
    exact hi.inLine
  | fault | refused => trivial

theorem step (h : s.memoriesCanonical) : CanonicalOut (step s) := by
  unfold Machine.step
  split
  · exact h.tick
  · rename_i w r _
    have hr : ({ s with work := r } : State).memoriesCanonical := h
    split
    · exact hr.runEvent
    · exact hr.runSlot
    · exact hr.phase

end State.memoriesCanonical

/-- Settles O58: every meaning, every piece of a cycle's work and the edge of the clock write memories only through operations that keep the canonical
form, so that each of them answers a state whose memories are in it. -/
theorem everyStepKeepsMemoriesCanonical : Obligations.EveryStepKeepsMemoriesCanonical := by
  intro s t h e
  have hs : CanonicalOut (step s) := h.step
  rw [e] at hs
  exact hs

end Sys2Proof.Machine
end

section
/-! The target of an access (R107, R116 to R118, R120): what a formed pointer reads back as, what each check of R118 comes to for an own scratchpad, and the
checks in their order. -/
namespace Sys2Proof.Machine

/-! ### Tagged pointers -/

theorem ptrSpace_eq_div (p : Word) : ptrSpace p = p.toNat / 2 ^ 60 := by
  have := p.isLt
  unfold ptrSpace bits
  omega

theorem ptrOff_eq_mod (p : Word) : ptrOff p = p.toNat % 2 ^ 41 := by
  simp [ptrOff, bits]

theorem narrow_lt (w : Nat) (i : Int) : narrow w i < 2 ^ w := by
  have hpos : (0 : Int) < (2 ^ w : Nat) := Int.natCast_pos.2 (Nat.two_pow_pos w)
  exact (Int.toNat_lt (Int.emod_nonneg i (Int.ne_of_gt hpos))).2 (Int.emod_lt_of_pos i hpos)

theorem narrow_of_bounds {w : Nat} {i : Int} (h0 : 0 ≤ i) (h : i < (2 ^ w : Nat)) : narrow w i = i.toNat := by
  rw [narrow, Int.emod_eq_of_lt h0 h]

/-- The tag and the offset of a formed pointer are side by side in its 64 bits. -/
theorem ptrWith_toNat (p : Word) (off : Int) : (ptrWith p off).toNat = p.toNat / 2 ^ 41 * 2 ^ 41 + narrow 41 off := by
  have := p.isLt
  have := narrow_lt 41 off
  unfold ptrWith bits
  rw [BitVec.toNat_ofNat]
  omega

theorem ptrSpace_ptrWith (p : Word) (off : Int) : ptrSpace (ptrWith p off) = ptrSpace p := by
  have := narrow_lt 41 off
  rw [ptrSpace_eq_div, ptrSpace_eq_div, ptrWith_toNat]
  omega

theorem ptrOff_ptrWith (p : Word) {off : Int} (h0 : 0 ≤ off) (h : off < 2 ^ 41) : ptrOff (ptrWith p off) = off.toNat := by
  rw [ptrOff_eq_mod, ptrWith_toNat, narrow_of_bounds h0 h]
  omega

/-! ### The own scratchpad -/

theorem partHi_le_scratchpad (u : Bool) : partHi u ≤ 2 ^ 21 := by
  cases u <;> decide

theorem State.reach_own {s : State} {spaces : List Nat} {acc : Access} {ptr : Word} (off size : Nat) (hs : 1 ∈ spaces) (hp : ptrSpace ptr = 1) :
    s.reach spaces acc ptr off size = if off < 2 ^ 21 then some (.spad s.cur.tile off) else none := by
  simp [State.reach, hp, hs]

theorem State.permitted_own (s : State) (acc : Access) (size off : Nat) :
    s.permitted acc size (.spad s.cur.tile off) = true ↔ partLo s.cur.urgent ≤ off ∧ off + size ≤ partHi s.cur.urgent := by
  simp [State.permitted]

section OwnTarget
variable {s : State} {spaces : List Nat} {acc : Access} {viaSp : Bool} {ptr : Word} {disp : Int} {size n : Nat}

theorem State.target_own_of_overflow {off : Int} (hp : ptrSpace ptr = 1) (ho : (ptrOff ptr : Int) + disp = off) (hb : off < 0 ∨ 2 ^ 41 ≤ off) :
    s.target spaces acc viaSp ptr disp size = .error (.tagOverflow, ptrWith ptr off) := by
  simp only [State.target, hp, ho]
  rw [if_neg (by simp), if_pos (by simpa using hb)]

theorem State.target_own_of_beyond (hs : 1 ∈ spaces) (hp : ptrSpace ptr = 1) (ho : (ptrOff ptr : Int) + disp = n) (hn : 2 ^ 21 ≤ n) (hb : n < 2 ^ 41) :
    s.target spaces acc viaSp ptr disp size = .error (.spaceInvalid, ptrWith ptr n) := by
  have hr : s.reach spaces acc ptr n size = none := by rw [State.reach_own n size hs hp, if_neg (by omega)]
  simp only [State.target, hp, ho, Int.toNat_natCast, hr]
  rw [if_neg (by simp), if_neg (by simp; omega)]

/-- R118 once the offset lies in the scratchpad of a tile: for a space-1 pointer no handler, span or right is asked about, so three checks are left. -/
theorem State.target_own_of_within (hs : 1 ∈ spaces) (hp : ptrSpace ptr = 1) (ho : (ptrOff ptr : Int) + disp = n) (hn : n < 2 ^ 21) :
    s.target spaces acc viaSp ptr disp size =
      if n % size ≠ 0 then .error (.misaligned, ptrWith ptr n)
      else if ¬ (partLo s.cur.urgent ≤ n ∧ n + size ≤ partHi s.cur.urgent) then .error (.permission, ptrWith ptr n)
      else if viaSp = true ∧ n < s.me.floor then .error (.stackOverflow, ptrWith ptr n)
      else .ok (.spad s.cur.tile n, ptrWith ptr n) := by
  have hr : s.reach spaces acc ptr n size = some (.spad s.cur.tile n) := by rw [State.reach_own n size hs hp, if_pos hn]
  simp only [State.target, hp, ho, Int.toNat_natCast, hr, State.rightsFault, ← State.permitted_own s acc]
  rw [if_neg (by simp), if_neg (by simp; omega)]
  simp

/-- What is asked of an aligned access within the running context's part: only the stack floor, of an access through the stack pointer (R120). -/
theorem State.target_own_of_part (hs : 1 ∈ spaces) (hp : ptrSpace ptr = 1) (ho : (ptrOff ptr : Int) + disp = n) (hpos : 0 < size)
    (hm : n % size = 0) (hlo : partLo s.cur.urgent ≤ n) (hhi : n + size ≤ partHi s.cur.urgent) :
    s.target spaces acc viaSp ptr disp size =
      if viaSp = true ∧ n < s.me.floor then .error (.stackOverflow, ptrWith ptr n) else .ok (.spad s.cur.tile n, ptrWith ptr n) := by
  have hn : n < 2 ^ 21 := by have := partHi_le_scratchpad s.cur.urgent; omega
  rw [State.target_own_of_within hs hp ho hn, if_neg (not_not_intro hm), if_neg (not_not_intro ⟨hlo, hhi⟩)]

end OwnTarget

/-- Settles O21: one clause per check of R118. A nonnegative offset is taken as the natural number it is. -/
theorem ownScratchpadChecksInOrder : Obligations.OwnScratchpadChecksInOrder := by
  intro s acc viaSp ptr disp size _ hp hsize off lo hi r
  have hs : 1 ∈ [1, 2, 3, 4, 5] := by simp
  have hpos : 0 < size := by omega
  have hlo : lo = partLo s.cur.urgent := by simp only [lo, partLo]; split <;> rfl
  have hhi : hi = partHi s.cur.urgent := by simp only [hi, partHi]; split <;> rfl
  have ho : (ptrOff ptr : Int) + disp = off := by rw [ptrOff_eq_mod]
  rw [← ptrSpace_eq_div] at hp
  rw [hlo, hhi]
  clear_value off
  have hnat (h : 0 ≤ off) : ∃ n : Nat, off = n := Int.eq_ofNat_of_zero_le h
  refine ⟨fun hb => ⟨_, State.target_own_of_overflow hp ho hb⟩, fun h h' => ?beyond, fun h0 h hm => ?misaligned, fun h0 h hm hpart => ?outside,
    fun h h' hm hsp hf => ?floor, fun h h' hm hf => ?passes⟩ <;> obtain ⟨n, rfl⟩ := hnat (by omega)
  case beyond => exact ⟨_, State.target_own_of_beyond hs hp ho (mod_cast h) (mod_cast h')⟩
  case misaligned => exact ⟨_, (State.target_own_of_within hs hp ho (mod_cast h)).trans (if_pos (mod_cast hm))⟩
  case outside =>
    have hout : ¬ (partLo s.cur.urgent ≤ n ∧ n + size ≤ partHi s.cur.urgent) := by omega
    exact ⟨_, (State.target_own_of_within hs hp ho (mod_cast h)).trans ((if_neg (not_not_intro (mod_cast hm))).trans (if_pos hout))⟩
  case floor =>
    exact ⟨_, (State.target_own_of_part hs hp ho hpos (mod_cast hm) (mod_cast h) (mod_cast h')).trans (if_pos ⟨hsp, mod_cast hf⟩)⟩
  case passes =>
    have hfloor : ¬ (viaSp = true ∧ n < s.me.floor) := by
      rintro ⟨rfl, hlt⟩
      simp at hf
      omega
    have hn : n < 2 ^ 41 := by have := partHi_le_scratchpad s.cur.urgent; omega
    refine ⟨n, _, (State.target_own_of_part hs hp ho hpos (mod_cast hm) (mod_cast h) (mod_cast h')).trans (if_neg hfloor), rfl, ?_, ?_⟩
    · rw [ptrSpace_ptrWith, hp]
    · rw [ptrOff_ptrWith ptr (by omega) (by omega), Int.toNat_natCast]

end Sys2Proof.Machine
end
